-- ==== Sys2Proof/Word.lean ====
section
/-! DEFINITION. The word types of the KV7 and the few plain data types that an instruction's or an event's
arguments are made of. Rules: spec/00_scope.md R2-R5, spec/01_package_and_time.md R12. -/
namespace Sys2Proof

/-- One byte of memory or of a register window. -/
abbrev Byte := BitVec 8

/-- An instruction or modifier word (R29). -/
abbrev W32 := BitVec 32

/-- An 8-byte register (R163, view VV). -/
abbrev W64 := BitVec 64

/-- A core's place: compute die 0-3, cluster 0-15, core 0-7 (R12, R27). -/
structure Place where
  die : Nat
  cluster : Nat
  core : Nat
  deriving DecidableEq, Repr

/-- Which granule of a scratchpad, or of the operand buffer, a scrub found uncorrectable (R240, R349): the level as R242 codes it (3 a
thread's own slice; 4 and above the range of handle level - 4), the owner (a thread, team, cluster or address space) and the 8-byte
granule. -/
structure ScratchGranule where
  level : Nat
  owner : Nat
  granule : Nat
  deriving DecidableEq, Repr

/-- What a scrub pass over a window and its q copy found (R180, R182): errors corrected, and an uncorrectable 8-byte granule of each. -/
structure RegisterErrors where
  corrected : Nat
  granule : Option Nat
  q : Option Nat
  deriving DecidableEq, Repr

/-- What a scrub pass over an allotment or a range of the operand buffer found (R240, R349). -/
structure ScratchErrors where
  corrected : Nat
  granule : Option ScratchGranule
  deriving DecidableEq, Repr

/-- A firmware image (R473): the digest that its identity keys and its report follow, and whether its key, its signature and its version
stand against the fuses. -/
structure Firmware where
  digest : Nat := 0
  keyOk : Bool := true
  signatureOk : Bool := true
  versionOk : Bool := true
  deriving DecidableEq, Repr

/-- How a bring-up goes (R472): the step that fails, 0 for none, and the link slots (die, port, slot) that do not train in step 5. -/
structure BringUp where
  failAt : Nat := 0
  untrained : List (Nat × Nat × Nat) := []
  deriving DecidableEq, Repr

/-- A unit that keeps codes over memory (R263): the L1 of a core, the L2 of a die, the memory-side cache of the hub, a stack. -/
inductive CacheUnit where
  | l1 (p : Place)
  | l2 (die : Nat)
  | hub
  | stack (k : Nat)
  deriving DecidableEq, Repr

/-- What a scrub pass over such a unit found (R263): errors corrected, and the physical address of an uncorrectable one. -/
structure CacheErrors where
  unit : CacheUnit
  corrected : Nat
  pa : Option Nat
  deriving DecidableEq, Repr

/-- What a peer package answers to a remote access (R442, R445): done with data (empty for a write),
the visibility time VTp and the peer's local time at the acknowledgement; or the peer's cause. -/
inductive RemoteAnswer where
  | done (data : List Byte) (vtp tp : Nat)
  | refused (cause : Nat)
  | linkDown
  deriving DecidableEq, Repr

/-- A remote access of another package that reaches this package's home (R442, R443). `op` 0 is a line
read, 1 a line write, 2 an atomic of the operation and type codes of R443 with its two operands. -/
structure RemoteRequest where
  peer : Nat
  asid : Nat
  op : Nat
  addr : W64
  data : List Byte
  atomOp : Nat
  ty : Nat
  operand : W64
  operand2 : W64
  step : Nat
  deriving DecidableEq, Repr

/-- A counter add that reaches this package's hub: one posted by a thread of this package (by its
flight), or one a peer sends (R446, R447). `high` is H of R447. -/
inductive CounterArrival where
  | posted (flight : Nat)
  | remote (asid index : Nat) (value : BitVec 32) (high : Int)
  | answered (flight : Nat) (answer : RemoteAnswer)
  deriving DecidableEq, Repr

/-- Which exchange of R452 a collective message belongs to. -/
inductive CollPhase where
  | fold
  | halving (k : Nat)
  | doubling (k : Nat)
  | post
  deriving DecidableEq, Repr

/-- A message of a collective (R451, R452): the binding fields it carries, the chunk, the sender's rank,
the pieces it carries as (piece, bytes, contributors). -/
structure CollMessage where
  /-- The compute die at whose port it arrives. -/
  die : Nat := 0
  tag : Nat
  nranks : Nat
  chunkBytes : Nat
  fmt : Nat
  op : Nat
  chunk : Nat
  sender : Nat
  phase : CollPhase
  pieces : List (Nat × List Byte × List Nat)
  deriving DecidableEq, Repr

end Sys2Proof
end

