-- ==== Sys2Proof/Config.lean ====
section
/-! DEFINITION. What is fixed for the machine and what the spec leaves open. Every free value is an opaque constant
applied to its operands or to the counter `fresh` of the state: nothing can evaluate it, and a claim holds whatever it is. -/
namespace Sys2Proof.Config

/-- FREE VALUE. Which value within the bound of R207 the SFU returns for an inexact quotient, root or reciprocal, as a
fixed function of operation, format code and operands. Log 5. -/
opaque sfuPick : Nat → Nat → Nat → Nat → Nat

/-- FREE VALUE. The bits of an inexact `exp2`, `log2`, `sin`, `cos` or `tanh` (operation, format code,
operand), R207. Log 5. -/
opaque sfuBits : Nat → Nat → Nat → Nat

/-- FREE VALUE. Which two of the values still to be combined `mscan` adds next (R102), drawn with the state's
counter. Log 6. -/
opaque scanPair : Nat → Nat × Nat

/-- FREE VALUE. A choice the spec leaves to the part among several candidates: the slice of a new thread
(R149), the free frame record (R137), the free pool entry (R322). Log 7. -/
opaque pick : Nat → Nat

/-- FREE VALUE. The identity key that the fused device secret and the digest of the running firmware give (R474). Log 8. -/
opaque identityKey : Nat → Nat

/-- FREE VALUE. Byte i of the ML-DSA-65 signature of a report by an identity key, and of that key's public half (R474). Log 8. -/
opaque signatureByte : Nat → List Byte → Nat → Byte
opaque publicKeyByte : Nat → Nat → Byte

/-- FREE VALUE. The length of an identity key's certificate chain, and its bytes (R474). Log 8. -/
opaque chainLength : Nat → Nat
opaque chainByte : Nat → Nat → Byte

/-- FREE VALUE. The number of a firmware's stages less one, and the bytes of their digests (R474). Log 8. -/
opaque firmwareStages : Nat → Nat
opaque digestByte : Nat → Nat → Nat → Byte

/-- FREE VALUE. The firmware image that an aperture write of bytes at a physical address stages, where it completes one (R473). Log 17. -/
opaque stagedImage : Nat → List Byte → Option Firmware

/-- FREE VALUE. The fused rollback counter (R473, R474). Log 8. -/
opaque rollbackCounter : Nat

/-- FREE VALUE. Whether a read of bytes that a job is writing is of the old value (R221, R354, R378), drawn with the
state's counter, the reading unit or the job, and the address. Log 9. -/
opaque overlapOld : Nat → Nat → Nat → Bool

/-- FREE VALUE. The order of the units of one job (R221, R378): the lower key first, drawn with the state's counter and
the unit. Log 9. -/
opaque unitKey : Nat → Nat → Nat

/-- FREE VALUE. A byte of the part's own in a ray's area (R402), drawn with the state's counter and the offset. Log 10. -/
opaque partByte : Nat → Byte

/-- FREE VALUE. What a traversal does that finds its own bytes of the area written by software (R402), drawn with the state's counter: how
it goes on (0 as before, 1 to 4 to an end with that STATUS plus 1, else over other nodes), and the work it then has (kind, address, count,
instance). Log 10. -/
opaque strayRay : Nat → Nat
opaque strayWork : Nat → Nat → Nat × Nat × Nat × Nat

/-- FREE VALUE. The channel of its stack that holds a physical address (R312). Log 10. -/
opaque channelOf : Nat → Nat

/-- FREE VALUE. The directory set of a line, and whether a slice needs room and retires an entry at a request, drawn
with the state's counter (R261). Log 7. -/
opaque directorySet : Nat → Nat
opaque retires : Nat → Bool

/-- FREE VALUE. STEP of `cr.ident` less 1, so that it is at least 1 (R27). Log 17. -/
opaque siliconStep : Fin 255

/-- FREE VALUE. Whether the time-class path between the hub and a receiver is failing at a hub time, so that trips on it may take longer
than 4 ns (R480): hub time, receiver. Log 2. -/
opaque pathFails : Nat → Nat → Bool

/-- FREE VALUE. By how much of one clock a die's count falls behind its nominal frequency while package time moves on (R17): hub time,
die; in millionths of a clock. Log 2. -/
opaque clockSlip : Nat → Nat → Nat

/-- FREE VALUE. Whether a die's L2 or a core's L1 gives up another line as one is filled (R258, R259), and whether the halves of a 16-byte
access are made apart (R238, R283), drawn with the state's counter. Log 7. -/
opaque evicts : Nat → Bool
opaque splits : Nat → Bool

/-- FREE VALUE. The energy in microjoules that the sensors of a compute die, or (4) of the rest of the package, measure over a
microsecond, where no event gives it (R431). Log 29. -/
opaque sensor : Nat → Nat → Nat

/-- FREE VALUE. Whether the part detects that software has changed a save area (R309), drawn with the state's counter. Log 33. -/
opaque detects : Nat → Bool

/-- FREE VALUE. PIPE of a cause whose faulting word belongs to no pipe (R59, R303): an unassigned OP, `nop`, a modifier
word, a packet that could not be fetched. Of the cause and VAL. Log 21. -/
opaque noPipe : Nat → Nat → BitVec 3

end Sys2Proof.Config
end

