-- ==== Sys2Proof/Machine/Bits.lean ====
section
/-! DEFINITION. Bit fields, sign extension and byte order (spec/00_scope.md R3, R8): the helpers every other definition
of the machine uses. Records longer than a register are natural numbers in little-endian order. -/
namespace Sys2Proof.Machine

/-- Bits [lo + len - 1 : lo] of a number. -/
def fld (v lo len : Nat) : Nat := (v >>> lo) % 2 ^ len

/-- A number with bits [lo + len - 1 : lo] replaced by the low bits of x. -/
def setFld (v lo len x : Nat) : Nat := v - (fld v lo len) * 2 ^ lo + (x % 2 ^ len) * 2 ^ lo

/-- One bit of a number. -/
def bit (v i : Nat) : Bool := fld v i 1 == 1

/-- The signed value of the low n bits of a number. -/
def toSigned (n v : Nat) : Int := if v % 2 ^ n < 2 ^ (n - 1) then (v % 2 ^ n : Nat) else (v % 2 ^ n : Nat) - (2 ^ n : Nat)

/-- An integer taken modulo 2^n, as a number. -/
def ofSigned (n : Nat) (v : Int) : Nat := (v % (2 ^ n : Nat)).toNat

/-- R8 `sext` of an n-bit number to 64 bits. -/
def sext64 (n v : Nat) : W64 := BitVec.ofNat 64 (ofSigned 64 (toSigned n v))

/-- The value of little-endian bytes (R3). -/
def bytesToNat : List Byte → Nat
  | [] => 0
  | b :: bs => b.toNat + 256 * bytesToNat bs

/-- n little-endian bytes of a number (R3). -/
def natToBytes : Nat → Nat → List Byte
  | 0, _ => []
  | n + 1, v => BitVec.ofNat 8 v :: natToBytes n (v / 256)

/-- Number of one bits among the low n bits. -/
def popcount : Nat → Nat → Nat
  | 0, _ => 0
  | n + 1, v => v % 2 + popcount n (v / 2)

/-- The positions of the one bits among the low n bits, ascending. -/
def bitList (n v : Nat) : List Nat := (List.range n).filter (bit v)

/-- Bits [len - 1 : 0] of a number in reverse order. -/
def reverseBits : Nat → Nat → Nat
  | 0, _ => 0
  | n + 1, v => (v % 2) * 2 ^ n + reverseBits n (v / 2)

/-- Whether two ranges of (start, length) share a number. -/
def overlap (a la b lb : Nat) : Bool := a < b + lb && b < a + la

/-- The list without repeats, first occurrences kept. -/
def dedup (l : List Nat) : List Nat := l.foldl (fun acc x => if acc.contains x then acc else acc ++ [x]) []

/-- An ordered list of numbers with x put in its place (already present: unchanged). -/
def insertNat (x : Nat) : List Nat → List Nat
  | [] => [x]
  | y :: ys => if x < y then x :: y :: ys else if x = y then y :: ys else y :: insertNat x ys

/-- The smallest element of a list of numbers, if any. -/
def minNat? : List Nat → Option Nat
  | [] => none
  | x :: xs => some (xs.foldl min x)

end Sys2Proof.Machine
end

