-- ==== Sys2Proof/Machine/Fp.lean ====
section
/-! DEFINITION. Number formats and arithmetic (spec/03_number_formats.md R70-R95): layouts, exact values, the one rounding,
overflow, conversion. Exact values are dyadic numbers; no value is rounded anywhere but in `roundMag`. -/
namespace Sys2Proof.Machine

/-- A floating-point layout (R70): exponent and fraction bits, bias. -/
structure FpFmt where
  ebits : Nat
  fbits : Nat
  bias : Nat
  deriving DecidableEq, Repr

/-- The layout of a format code of R53 (1 to 7). -/
def fpFmt : Nat → FpFmt
  | 1 => ⟨11, 52, 1023⟩
  | 2 => ⟨8, 23, 127⟩
  | 3 => ⟨5, 10, 15⟩
  | 4 => ⟨8, 7, 127⟩
  | 5 => ⟨4, 3, 7⟩
  | 6 => ⟨5, 2, 15⟩
  | _ => ⟨2, 1, 1⟩

/-- Bits of an element of a format code of R53 (1 to 15). -/
def fmtBits : Nat → Nat
  | 1 => 64 | 2 => 32 | 3 => 16 | 4 => 16 | 5 => 8 | 6 => 8 | 7 => 4
  | 8 => 8 | 9 => 16 | 10 => 32 | 11 => 64 | 12 => 8 | 13 => 16 | 14 => 32 | _ => 64

/-- Whether a code of R53 is a floating-point format. -/
def isFloatFmt (f : Nat) : Bool := decide (1 ≤ f) && decide (f ≤ 7)

/-- Whether a code of R53 is a signed integer format. -/
def isSignedFmt (f : Nat) : Bool := decide (8 ≤ f) && decide (f ≤ 11)

/-- A destination narrow enough for rounding modes 4 and 5 (R53). -/
def isNarrowFmt (f : Nat) : Bool := decide (3 ≤ f) && decide (f ≤ 7)

/-- The smallest normal is 2^emin. -/
def fpEmin (f : Nat) : Int := 1 - ((fpFmt f).bias : Int)

/-- The largest finite magnitude of a format, as its bits without the sign (R70). -/
def fpMaxBits : Nat → Nat
  | 5 => 0x7E
  | 7 => 0x7
  | f => ((2 ^ (fpFmt f).ebits - 1) * 2 ^ (fpFmt f).fbits) - 1

/-- The canonical NaN (R70); `.f4` has none and its conversions give 0 (R86). -/
def fpNaN : Nat → Nat
  | 1 => 0x7FF8000000000000 | 2 => 0x7FC00000 | 3 => 0x7E00 | 4 => 0x7FC0 | 5 => 0x7F | 6 => 0x7E | _ => 0

/-- The bits of infinity without the sign, for the formats that have one (R70). -/
def fpInfBits (f : Nat) : Nat := (2 ^ (fpFmt f).ebits - 1) * 2 ^ (fpFmt f).fbits

/-- The sign bit of a format. -/
def fpSign (f : Nat) (neg : Bool) : Nat := if neg then 2 ^ (fmtBits f - 1) else 0

/-- The class and value of a floating-point datum; a finite value is (-1)^neg m 2^e. -/
inductive FpVal where
  | nan (signalling : Bool)
  | inf (neg : Bool)
  | fin (neg : Bool) (m : Nat) (e : Int)
  deriving DecidableEq, Repr

/-- The value of bits in a format (R71, R72). -/
def fpDecode (f bits : Nat) : FpVal :=
  let k := fpFmt f
  let neg := bit bits (fmtBits f - 1)
  let ex := fld bits k.fbits k.ebits
  let fr := fld bits 0 k.fbits
  if f = 5 ∧ ex = 15 ∧ fr = 7 then .nan false
  else if f ≠ 5 ∧ f ≠ 7 ∧ ex = 2 ^ k.ebits - 1 then
    if fr = 0 then .inf neg
    else .nan (f ≠ 6 && !(bit bits (k.fbits - 1)))
  else if ex = 0 then .fin neg fr (fpEmin f - k.fbits)
  else .fin neg (2 ^ k.fbits + fr) ((ex : Int) - k.bias - k.fbits)

/-- Sticky flags in the order of `cr.fflags` (R89). -/
structure Flags where
  nv : Bool := false
  dz : Bool := false
  ov : Bool := false
  uf : Bool := false
  nx : Bool := false
  deriving DecidableEq, Repr

/-- The flags as bits [4:0] (R89). -/
def Flags.bits (f : Flags) : BitVec 5 := BitVec.ofNat 5 (f.nv.toNat * 16 + f.dz.toNat * 8 + f.ov.toNat * 4 + f.uf.toNat * 2 + f.nx.toNat)

/-- Flags ORed. -/
def Flags.or (a b : Flags) : Flags := ⟨a.nv || b.nv, a.dz || b.dz, a.ov || b.ov, a.uf || b.uf, a.nx || b.nx⟩

/-- The NV flag alone. -/
def Flags.invalid (b : Bool := true) : Flags := { nv := b }

/-- Bits of a datum and the flags its computation sets. -/
structure FpRes where
  bits : Nat
  flags : Flags := {}
  deriving DecidableEq, Repr

/-- Whether a magnitude n + rest rounds up, where rest = (rem + sticky)/2^sh of a unit (R80, R81). -/
def roundsUp (rm : Nat) (neg : Bool) (n rem sh : Nat) (sticky : Bool) (g : Nat) : Bool :=
  let half := if sh = 0 then 0 else 2 ^ (sh - 1)
  let inexact := rem ≠ 0 || sticky
  match rm with
  | 0 => if sh = 0 then false else (rem > half) || (rem = half && (sticky || n % 2 = 1))
  | 1 => false
  | 2 => inexact && !neg
  | 3 => inexact && neg
  | 4 => sh ≠ 0 && rem ≥ half
  | _ => inexact && (g < rem * 65536 / 2 ^ sh)

/-- |x| = (m + sticky) 2^e rounded to a multiple of 2^q: the multiple and whether it is inexact. -/
def roundAt (rm : Nat) (neg : Bool) (m : Nat) (e : Int) (sticky : Bool) (g : Nat) (q : Int) : Nat × Bool :=
  if e ≥ q then (m * 2 ^ (e - q).toNat, sticky)
  else
    let sh := (q - e).toNat
    let n := m / 2 ^ sh
    let rem := m % 2 ^ sh
    (n + (roundsUp rm neg n rem sh sticky g).toNat, rem ≠ 0 || sticky)

/-- The bits of n 2^q in a format, n below 2^(fbits + 2) and the value within range. -/
def fpEncode (f : Nat) (neg : Bool) (n : Nat) (q : Int) : Nat :=
  let k := fpFmt f
  let (n, q) := if n ≥ 2 ^ (k.fbits + 1) then (n / 2, q + 1) else (n, q)
  if n < 2 ^ k.fbits then fpSign f neg + n
  else fpSign f neg + (q + k.fbits + k.bias).toNat * 2 ^ k.fbits + (n - 2 ^ k.fbits)

/-- n 2^q compared with N 2^Q. -/
def dyLt (n : Nat) (q : Int) (n' : Nat) (q' : Int) : Bool :=
  if q ≤ q' then n < n' * 2 ^ (q' - q).toNat else n * 2 ^ (q - q').toNat < n'

/-- `round(x, fmt, rm)` of R80 with R81 and the overflow table of R85, for a nonzero magnitude
(m + sticky) 2^e; `g` is the stochastic draw. DESIGN CHOICE (log 31): stochastic overflow without SAT of a value that the format's precision
holds exactly in the unbounded range (65536.0 to `.h`) gives the largest finite value: R80 chooses nothing there, and R85 gives infinity
where the larger magnitude was chosen. -/
def roundMag (f rm : Nat) (sat neg : Bool) (m : Nat) (e : Int) (sticky : Bool) (g : Nat) : FpRes :=
  let k := fpFmt f
  let top := e + Nat.log2 m
  let qU := top - k.fbits
  let q := max qU (fpEmin f - k.fbits)
  let (n, inexact) := roundAt rm neg m e sticky g q
  let (nU, _) := roundAt rm neg m e sticky g qU
  let maxV := fpDecode f (fpMaxBits f)
  let ovf := match maxV with
    | .fin _ mm me => dyLt mm me nU qU
    | _ => false
  if ovf then
    let away := match rm with
      | 0 => true | 1 => false | 2 => !neg | 3 => neg | 4 => true
      | _ => roundsUp rm neg 0 (if e ≥ qU then 0 else m % 2 ^ (qU - e).toNat) (if e ≥ qU then 0 else (qU - e).toNat) sticky g
    let bits := if sat || f = 7 || !away then fpMaxBits f else if f = 5 then fpNaN 5 else fpInfBits f
    { bits := if bits = fpNaN 5 ∧ f = 5 then bits else fpSign f neg + bits, flags := { ov := true, nx := true } }
  else
    let tiny := dyLt nU qU 1 (fpEmin f)
    { bits := fpEncode f neg n q, flags := { uf := inexact && tiny, nx := inexact } }

/-- An exact real or special value, before rounding. `sticky`: the magnitude exceeds m 2^e by less than one unit of it. -/
inductive Exact where
  | nan (invalid : Bool)
  | inf (neg : Bool)
  | num (neg : Bool) (m : Nat) (e : Int) (sticky : Bool)
  deriving DecidableEq, Repr

/-- A zero of a sign. -/
def Exact.zero (neg : Bool) : Exact := .num neg 0 0 false

/-- An exact value rounded to a format (R73, R80, R85, R86). An infinity of a format without one, a NaN of
`.f4`: R86. -/
def roundTo (f rm : Nat) (sat : Bool) (g : Nat) : Exact → FpRes
  | .nan inv => { bits := fpNaN f, flags := { nv := inv || decide (f = 7) } }
  | .inf neg =>
    if f = 5 then (if sat then { bits := fpSign 5 neg + fpMaxBits 5, flags := { nv := true } } else { bits := fpNaN 5, flags := { nv := true } })
    else if f = 7 then { bits := fpSign 7 neg + fpMaxBits 7, flags := { nv := true } }
    else if f = 6 ∧ sat then { bits := fpSign 6 neg + fpMaxBits 6, flags := { nv := true } }
    else { bits := fpSign f neg + fpInfBits f }
  | .num neg m e sticky =>
    if m = 0 ∧ !sticky then { bits := fpSign f neg }
    else if m = 0 then roundMag f rm sat neg 1 (e - 1) true g
    else roundMag f rm sat neg m e sticky g

/-- A datum as an exact value; a NaN notes whether it is signalling. -/
def FpVal.exact : FpVal → Exact
  | .nan s => .nan s
  | .inf n => .inf n
  | .fin n m e => .num n m e false

/-- Whether a datum is a signalling NaN. -/
def FpVal.isSignalling : FpVal → Bool
  | .nan s => s
  | _ => false

/-- Whether a datum is a NaN. -/
def FpVal.isNaN : FpVal → Bool
  | .nan _ => true
  | _ => false

/-- Whether a datum is a zero. -/
def FpVal.isZero : FpVal → Bool
  | .fin _ m _ => m == 0
  | _ => false

/-- The datum with its sign inverted. -/
def FpVal.negate : FpVal → FpVal
  | .nan s => .nan s
  | .inf n => .inf (!n)
  | .fin n m e => .fin (!n) m e

/-- An exact product (R74, R101): a NaN notes an invalid 0 x infinity or a signalling operand. -/
def fpMul (x y : FpVal) : Exact :=
  match x, y with
  | .nan a, .nan b => .nan (a || b)
  | .nan a, _ => .nan a
  | _, .nan b => .nan b
  | .inf a, .inf b => .inf (xor a b)
  | .inf a, .fin b m _ => if m = 0 then .nan true else .inf (xor a b)
  | .fin a m _, .inf b => if m = 0 then .nan true else .inf (xor a b)
  | .fin a m e, .fin b n d => .num (xor a b) (m * n) (e + d) false

/-- The signed magnitude of an exact finite term at scale 2^q, q at most its exponent. -/
def termAt (q : Int) : Exact → Int
  | .num neg m e _ => let v : Int := (m * 2 ^ (e - q).toNat : Nat); if neg then -v else v
  | _ => 0

/-- Whether a term is negative (the sign of a zero counts). -/
def Exact.neg : Exact → Bool
  | .num n _ _ _ => n
  | .inf n => n
  | .nan _ => false

/-- The exponent of a finite term. -/
def Exact.expo : Exact → Int
  | .num _ _ e _ => e
  | _ => 0

/-- The exact sum of terms (R74, R101); `down` is rounding mode down, which gives the zero of a
cancellation its sign. An invalid operation of any term, and infinities of both signs, are noted; DESIGN CHOICE (log 31): infinities of
both signs also where a quiet NaN stands beside them. -/
def exactSum (down : Bool) (ts : List Exact) : Exact :=
  let isNan := ts.any (fun t => match t with | .nan _ => true | _ => false)
  let inval := ts.any (fun t => match t with | .nan i => i | _ => false)
  let pInf := ts.any (fun t => match t with | .inf n => !n | _ => false)
  let nInf := ts.any (fun t => match t with | .inf n => n | _ => false)
  if isNan then .nan (inval || (pInf && nInf))
  else if pInf && nInf then .nan true
  else if pInf then .inf false
  else if nInf then .inf true
  else
    let q := ts.foldl (fun q t => min q t.expo) ((ts.map Exact.expo).headD 0)
    let s := ts.foldl (fun a t => a + termAt q t) 0
    if s = 0 then
      let allNeg := ts.all Exact.neg
      let allPos := ts.all (fun t => !t.neg)
      .zero (allNeg || (down && !allPos))
    else .num (decide (s < 0)) s.natAbs q false

/-- The exact quotient of finite nonzero magnitudes with enough bits for any rounding (extra low bits kept
as `sticky`). -/
def exactQuot (neg : Bool) (m : Nat) (e : Int) (n : Nat) (d : Int) : Exact :=
  let sh := 160 + Nat.log2 n
  let num := m * 2 ^ sh
  .num neg (num / n) (e - d - sh) (num % n ≠ 0)

/-- The integer square root by bits, from bit `k` down. -/
def isqrtBits : Nat → Nat → Nat → Nat
  | 0, _, r => r
  | k + 1, v, r => let t := r + 2 ^ k; if t * t ≤ v then isqrtBits k v t else isqrtBits k v r

/-- The integer square root. -/
def isqrt (v : Nat) : Nat := isqrtBits (Nat.log2 v / 2 + 1) v 0

/-- The exact square root of a finite nonzero magnitude, with low bits kept as `sticky`. -/
def exactSqrt (m : Nat) (e : Int) : Exact :=
  let sh : Nat := if e % 2 = 0 then 240 else 241
  let v : Nat := m * 2 ^ sh
  let r := isqrt v
  .num false r ((e - sh) / 2) (r * r ≠ v)

/-- Comparison of two non-NaN data: less, equal (-0 equals +0). -/
def fpLess (x y : FpVal) : Bool :=
  match x, y with
  | .inf a, .inf b => a && !b
  | .inf a, _ => a
  | _, .inf b => !b
  | x, y => match exactSum false [x.exact, y.negate.exact] with
    | .num neg m _ _ => neg && m ≠ 0
    | _ => false

/-- Whether two non-NaN data are equal (-0 equals +0). -/
def fpEqual (x y : FpVal) : Bool := !x.isNaN && !y.isNaN && !fpLess x y && !fpLess y x

/-- minimumNumber (`big` false) and maximumNumber (`big` true) of R199 on bits. -/
def fpMinMax (f : Nat) (big : Bool) (a b : Nat) : FpRes :=
  let x := fpDecode f a
  let y := fpDecode f b
  let fl := Flags.invalid (x.isSignalling || y.isSignalling)
  if x.isNaN && y.isNaN then { bits := fpNaN f, flags := fl }
  else if x.isNaN then { bits := b, flags := fl }
  else if y.isNaN then { bits := a, flags := fl }
  else
    let aLess := fpLess x y || (!fpLess y x && bit a (fmtBits f - 1) && !bit b (fmtBits f - 1))
    { bits := if aLess != big then a else b, flags := fl }

/-- R80's rounding of an exact value to an integer, and whether it is inexact. -/
def roundInt (rm : Nat) (neg : Bool) (m : Nat) (e : Int) (g : Nat) : Int × Bool :=
  let (n, inexact) := roundAt rm neg m e false g 0
  (if neg then -(n : Int) else n, inexact)

/-- A conversion to an integer format (R87): always saturating. -/
def toIntFmt (f rm g : Nat) (x : FpVal) : FpRes :=
  let w := fmtBits f
  let lo : Int := if isSignedFmt f then -((2 ^ (w - 1) : Nat) : Int) else 0
  let hi : Int := if isSignedFmt f then ((2 ^ (w - 1) : Nat) : Int) - 1 else ((2 ^ w : Nat) : Int) - 1
  match x with
  | .nan _ => { bits := 0, flags := { nv := true } }
  | .inf neg => { bits := ofSigned w (if neg then lo else hi), flags := { nv := true } }
  | .fin neg m e =>
    let (v, inexact) := roundInt rm neg m e g
    if v > hi then { bits := ofSigned w hi, flags := { nv := true } }
    else if v < lo then { bits := ofSigned w lo, flags := { nv := true } }
    else { bits := ofSigned w v, flags := { nx := inexact } }

/-- An element of any format as an exact value (R79, R203). -/
def elemExact (f bits : Nat) : Exact :=
  if isFloatFmt f then (fpDecode f bits).exact
  else let v : Int := if isSignedFmt f then toSigned (fmtBits f) bits else (bits % 2 ^ fmtBits f : Nat)
       .num (decide (v < 0)) v.natAbs 0 false

/-- One element converted from format sf to format df (R86, R87, R203). -/
def convertElem (df sf rm : Nat) (sat : Bool) (g bits : Nat) : FpRes :=
  if isFloatFmt df then
    match elemExact sf bits with
    | .num false 0 _ _ => { bits := 0 }
    | x => roundTo df rm sat g x
  else toIntFmt df rm g (match elemExact sf bits with | .nan s => .nan s | .inf n => .inf n | .num n m e _ => .fin n m e)

/-- One step of the generator (R82): the new state. -/
def srStep (s : BitVec 32) : BitVec 32 :=
  let s := if s = 0 then 1 else s
  let s := s ^^^ (s <<< 13)
  let s := s ^^^ (s >>> 17)
  s ^^^ (s <<< 5)

/-- The 16-bit draw of a state (R82). -/
def srDraw (s : BitVec 32) : Nat := (s >>> 16).toNat

/-- Element e of a packed value (R79). -/
def elem (w e v : Nat) : Nat := fld v (w * e) w

/-- A packed value of elements, element 0 lowest (R79). -/
def pack (w : Nat) : List Nat → Nat
  | [] => 0
  | x :: xs => x % 2 ^ w + 2 ^ w * pack w xs

/-- `f` applied to each of n elements, with the flags ORed and the draws threaded in ascending order (R84):
`draws` says whether the operation draws. -/
def mapElems (n : Nat) (draws : Bool) (seed : BitVec 32) (f : Nat → Nat → FpRes) : List Nat × Flags × BitVec 32 :=
  (List.range n).foldl (fun (acc : List Nat × Flags × BitVec 32) e =>
    let s := if draws then srStep acc.2.2 else acc.2.2
    let r := f e (srDraw s)
    (acc.1 ++ [r.bits], acc.2.1.or r.flags, s)) ([], {}, seed)

end Sys2Proof.Machine
end

