-- ==== Sys2Proof/Machine/Reals.lean ====
section
/-! DEFINITION. Transcendental functions to many bits, for the error bounds of spec/07 R207. A fixed-point number N stands for
N / 2^256; every value here is off by far less than 2^-200 of it. A real is held between two such numbers, of which one is a bound that
it never reaches where it may lie next to a value that a format holds: so every value within R207's bound is kept, and no other. -/
namespace Sys2Proof.Machine

/-- Fraction bits. -/
def fixBits : Nat := 256
def fixOne : Nat := 2 ^ fixBits

/-- atan or atanh of 1/q in fixed point with p fraction bits: n terms from the odd power `t` on. -/
def atanTerms (alternate : Bool) (q2 : Nat) : Nat → Nat → Nat → Int
  | 0, _, _ => 0
  | n + 1, t, k =>
    let s := atanTerms alternate q2 n (t / q2) (k + 2)
    ((t / k : Nat) : Int) + (if alternate then -s else s)

/-- Pi in fixed point with p fraction bits (Machin's formula). -/
def fixPi (p : Nat) : Nat :=
  let g := p + 32
  ((16 * atanTerms true 25 (g / 4 + 2) (2 ^ g / 5) 1 - 4 * atanTerms true 57121 (g / 15 + 2) (2 ^ g / 239) 1) / 2 ^ 32).toNat

/-- The natural logarithm of y in [1, 2): twice atanh((y - 1) / (y + 1)), by powers of t. -/
def atanhTerms (t2 : Nat) : Nat → Nat → Nat → Nat
  | 0, _, _ => 0
  | n + 1, t, k => t / k + atanhTerms t2 n (t * t2 / fixOne) (k + 2)

def fixLn (y : Nat) : Nat :=
  let t := (y - fixOne) * fixOne / (y + fixOne)
  2 * atanhTerms (t * t / fixOne) 90 t 1

/-- ln 2. -/
def fixLn2 : Nat := fixLn (2 * fixOne)

/-- e^x for x in [0, 1): n terms of the series from the term `t` on. -/
def expTerms (x : Nat) : Nat → Nat → Nat → Nat
  | 0, _, _ => 0
  | n + 1, t, k => t + expTerms x n (t * x / fixOne / k) (k + 1)

def fixExp (x : Nat) : Nat := expTerms x 70 fixOne 1

/-- Sine (k 1, first term x) and cosine (k 0, first term 1) of x in [0, pi/2]: alternating terms. -/
def sinTerms (x2 : Nat) : Nat → Nat → Nat → Int
  | 0, _, _ => 0
  | n + 1, t, k => (t : Int) - sinTerms x2 n (t * x2 / fixOne / ((k + 1) * (k + 2))) (k + 2)

def fixSin (x : Nat) : Nat := (sinTerms (x * x / fixOne) 40 x 1).toNat
def fixCos (x : Nat) : Nat := (sinTerms (x * x / fixOne) 40 fixOne 0).toNat

/-- A real known to many bits: its sign and its magnitude, between lo 2^q and hi 2^q. -/
structure Approx where
  neg : Bool
  lo : Nat
  hi : Nat
  q : Int
  deriving DecidableEq, Repr

/-- The units by which a computed value may be off. -/
def slack : Nat := 2 ^ 40

/-- A real off by less than the slack from a value, and between two bounds. -/
def Approx.around (neg : Bool) (v : Nat) (q : Int) (floor top : Nat) : Approx :=
  { neg, lo := max floor (v - slack), hi := min top (v + slack), q }

/-- The sine of (-1)^neg m 2^e turned by a number of quarter periods. It is below 1, and below an operand in the first. -/
def sinApprox (turn : Nat) (neg : Bool) (m : Nat) (e : Int) : Approx :=
  let p := fixBits + 64 + e.toNat
  let x := if e + p ≥ 0 then m * 2 ^ (e + p).toNat else m / 2 ^ (-(e + p)).toNat
  let quarter := fixPi p / 2
  let n := x / quarter
  let r := (x % quarter) / 2 ^ (p - fixBits)
  let whole := decide (e + p ≥ 0) && x % 2 ^ (p - fixBits) == 0
  -- a negative operand mirrors the sine and leaves the cosine
  let k := (n + turn) % 4
  let top := if n = 0 ∧ turn = 0 then (if whole then r else r + 1) else fixOne
  .around (decide (2 ≤ k) != (neg && turn == 0)) (if k % 2 = 0 then fixSin r else fixCos r) (-(fixBits : Int)) 0 top

/-- Base-2 logarithm of m 2^e. -/
def log2Approx (m : Nat) (e : Int) : Approx :=
  let j := Nat.log2 m
  let v : Int := (e + j) * fixOne + ((fixLn (m * 2 ^ (fixBits - j)) * fixOne / fixLn2 : Nat) : Int)
  .around (decide (v < 0)) v.natAbs (-(fixBits : Int)) 0 (v.natAbs + slack)

/-- 2^(k + f) with f in (0, 1), known as f 2^256. -/
def exp2Approx (k : Int) (f : Nat) : Approx := .around false (fixExp (f * fixLn2 / fixOne)) (k - fixBits) fixOne (2 * fixOne)

/-- The hyperbolic tangent of a positive m 2^e, which is below it and below 1. -/
def tanhApprox (m : Nat) (e : Int) : Approx :=
  let top := e + Nat.log2 m
  if top < -40 then { neg := false, lo := m * 2 ^ 200 - 2 ^ 140 * 2 ^ (Nat.log2 m), hi := m * 2 ^ 200, q := e - 200 }
  else if top ≥ 7 then { neg := false, lo := fixOne - 1, hi := fixOne, q := -(fixBits : Int) }
  else
    let y := if e + 1 + fixBits ≥ 0 then m * 2 ^ (e + 1 + fixBits).toNat else m / 2 ^ (-(e + 1 + fixBits)).toNat
    let n := y / fixLn2 + 1
    -- e^-y = e^(n ln 2 - y) / 2^n
    let d := fixExp (n * fixLn2 - y) / 2 ^ n
    .around false ((fixOne - d) * fixOne / (fixOne + d)) (-(fixBits : Int)) 0 fixOne

/-- The place of a datum in the order of its format. -/
def fpOrd (f bits : Nat) : Int :=
  let mag := bits % 2 ^ (fmtBits f - 1)
  if bits ≥ 2 ^ (fmtBits f - 1) then -(mag : Int) else mag

/-- The datum next to v 2^q from below (rounding mode 3) or above (2). -/
def fpNextOrd (f rm : Nat) (v q : Int) : Int :=
  if v = 0 then 0 else fpOrd f (roundMag f rm false (decide (v < 0)) v.natAbs q false 0).bits

/-- The exponent of one ulp of a nonzero real (R207). -/
def ulpExp (f : Nat) (a : Approx) : Int := max (Nat.log2 a.lo + a.q) (fpEmin f) - (fpFmt f).fbits

/-- An inexact result within n ulp of a real, or within 2^floor where that is more (R207); a free one of those. A zero
result has the sign +, and UF goes by the delivered bits: below the smallest normal (DESIGN CHOICE, log 5: R207 gives a zero no
sign, and the "tiny" of R80 may be read of the exact result rounded with unbounded range). -/
def sfuWithin (f key : Nat) (a : Approx) (n : Nat) (floor : Int) : FpRes :=
  let tol := max (ulpExp f a + (n - 1 : Nat)) floor
  let t : Int := 2 ^ (tol - a.q).toNat
  let lo := fpNextOrd f 2 (a.hi - t) a.q
  let hi := fpNextOrd f 3 (a.lo + t) a.q
  let o := lo + ((key % ((hi - lo).toNat + 1) : Nat) : Int)
  { bits := fpSign f (o != 0 && (a.neg != decide (o < 0))) + o.natAbs, flags := { nx := true, uf := decide (o.natAbs < 2 ^ (fpFmt f).fbits) } }

end Sys2Proof.Machine
end

