-- ==== Sys2Proof/Machine/SfuOps.lean ====
section
/-! DEFINITION. What the special-function unit computes (spec/07 R205-R207): special operands, exact results, and for every other
operand a free value within the bounds that the format and the operand give. -/
namespace Sys2Proof.Machine

/-- A signed zero, infinity, one and NaN of a format. -/
def sfuZero (f : Nat) (neg : Bool) : FpRes := { bits := fpSign f neg }
def sfuInf (f : Nat) (neg : Bool) : FpRes := { bits := fpSign f neg + fpInfBits f }
def sfuNaN (f : Nat) (inv : Bool) : FpRes := { bits := fpNaN f, flags := { nv := inv } }
def sfuOne (f : Nat) (neg : Bool) : FpRes := { bits := fpSign f neg + (fpFmt f).bias * 2 ^ (fpFmt f).fbits }

/-- A finite result n 2^q, infinite with OF and NX beyond the largest finite value (R206). -/
def sfuFinish (f : Nat) (neg inexact : Bool) (n : Nat) (q : Int) : FpRes :=
  let tooBig := match fpDecode f (fpMaxBits f) with
    | .fin _ mm me => dyLt mm me n q
    | _ => false
  if tooBig then { bits := fpSign f neg + fpInfBits f, flags := { ov := true, nx := true } }
  else
    let bits := fpEncode f neg n q
    { bits, flags := { nx := inexact, uf := inexact && decide (bits % 2 ^ (fmtBits f - 1) < 2 ^ (fpFmt f).fbits) } }

/-- A finite nonzero result known to many bits: exact where representable, else one of the values within one ulp of it
(R207): the two neighbours and, just above a power of two, the one half a step below. -/
def sfuNear (f : Nat) (key : Nat) (neg : Bool) (m : Nat) (e : Int) (sticky : Bool) : FpRes :=
  let k := fpFmt f
  let q := max (e + Nat.log2 m - k.fbits) (fpEmin f - k.fbits)
  if e ≥ q then sfuFinish f neg sticky (m * 2 ^ (e - q).toNat) q
  else
    let sh := (q - e).toNat
    let n := m / 2 ^ sh
    let rem := m % 2 ^ sh
    if rem = 0 ∧ !sticky then sfuFinish f neg false n q
    else
      let half := decide (rem < 2 ^ (sh - 1)) || (rem == 2 ^ (sh - 1) && !sticky)
      let below := n == 2 ^ k.fbits && decide (q > fpEmin f - k.fbits) && half
      match key % (if below then 3 else 2) with
      | 0 => sfuFinish f neg true n q
      | 1 => sfuFinish f neg true (n + 1) q
      | _ => sfuFinish f neg true (2 * n - 1) (q - 1)

/-- The absolute part of the bound of `log2`, `sin` and `cos` (R207). -/
def sfuFloor (f : Nat) : Int := if f = 1 then -62 else -30

/-- Bits of an integer's magnitude in a format, exact (for `log2`). -/
def sfuIntBits (f n : Nat) : Nat := if n = 0 then 0 else fpEncode f false (n * 2 ^ ((fpFmt f).fbits - Nat.log2 n)) (Nat.log2 n - (fpFmt f).fbits)

/-- Floor of a dyadic number (-1)^neg m 2^e. -/
def dyFloor (neg : Bool) (m : Nat) (e : Int) : Int :=
  let v : Int := if neg then -(m : Int) else m
  if e ≥ 0 then v * (2 ^ e.toNat : Nat) else v.fdiv ((2 ^ (-e).toNat : Nat) : Int)

/-- Whether a dyadic number is an integer. -/
def dyIsInt (m : Nat) (e : Int) : Bool := decide (e ≥ 0) || m % 2 ^ (-e).toNat == 0

/-- Bits of 2^k in a format: 0 below the smallest subnormal, infinity above the range. -/
def sfuPow2Bits (f : Nat) (k : Int) : Nat :=
  let t := fpFmt f
  if k < fpEmin f - t.fbits then 0
  else if k > t.bias then fpInfBits f
  else if k < fpEmin f then 2 ^ (k - (fpEmin f - t.fbits)).toNat
  else (k + t.bias).toNat * 2 ^ t.fbits

/-- `exp2` of a finite nonzero value (R206, R207). Far below the smallest subnormal the result is 0 or that subnormal. -/
def sfuExp2 (f key : Nat) (neg : Bool) (m : Nat) (e : Int) : FpRes :=
  let t := fpFmt f
  let low : FpRes := { bits := key % 2, flags := { nx := true, uf := true } }
  -- beyond every finite exponent the value itself is not needed
  if dyLt 4096 0 m e then (if neg then low else { bits := fpInfBits f, flags := { ov := true, nx := true } })
  else
    let k := dyFloor neg m e
    if k > t.bias then { bits := fpInfBits f, flags := { ov := true, nx := true } }
    else if k < fpEmin f - t.fbits then low
    else if dyIsInt m e then { bits := sfuPow2Bits f k }
    else sfuWithin f key (exp2Approx k (dyFloor neg m (e + fixBits) - k * fixOne).toNat) 1 (-4096)

/-- `log2` of a finite positive value: exact for a power of two (R207). -/
def sfuLog2 (f key : Nat) (m : Nat) (e : Int) : FpRes :=
  let k : Int := e + Nat.log2 m
  if m = 2 ^ Nat.log2 m then { bits := fpSign f (decide (k < 0)) + sfuIntBits f k.natAbs }
  else sfuWithin f key (log2Approx m e) 1 (sfuFloor f)

/-- One element of an SFU word (R205, R206): operation codes in the order of R205, x the element of a, y that of d, which `div`
alone reads: the free choice within the bound is a function of the operands (R207). -/
def sfuElem (op f x y : Nat) : FpRes :=
  let v := fpDecode f x
  let w := fpDecode f y
  let key := Config.sfuPick op f x (if op = 3 then y else 0)
  let free := Config.sfuBits op f x
  if v.isNaN || (op == 3 && w.isNaN) then sfuNaN f (v.isSignalling || (op == 3 && w.isSignalling))
  else match op, v with
    | 0, .inf n => sfuZero f n
    | 0, .fin n m e => if m = 0 then { sfuInf f n with flags := { dz := true } }
      else match exactQuot n 1 0 m e with
        | .num n m e s => sfuNear f key n m e s
        | _ => sfuNaN f true
    | 1, .inf n => if n then sfuNaN f true else sfuZero f false
    | 1, .fin n m e => if m = 0 then { sfuInf f n with flags := { dz := true } }
      else if n then sfuNaN f true
      else
        -- 1 / sqrt(m 2^e) as the square root of the reciprocal, exact when that is representable
        let sh : Nat := 512 + 2 * Nat.log2 m
        let odd := (e % 2).toNat
        let num := 2 ^ (sh + odd)
        let r := isqrt (num / m)
        sfuNear f key false r (-((e + odd : Int) / 2) - (sh / 2 : Nat)) (r * r * m ≠ num)
    | 2, .inf n => if n then sfuNaN f true else sfuInf f false
    | 2, .fin n m e => if m = 0 then sfuZero f n else if n then sfuNaN f true
      else match exactSqrt m e with
        | .num n m e s => sfuNear f key n m e s
        | _ => sfuNaN f true
    | 3, .inf n => match w with
      | .inf _ => sfuNaN f true
      | .fin k _ _ => sfuZero f (xor n k)
      | .nan _ => sfuNaN f false
    | 3, .fin n m e => match w with
      | .inf k => sfuInf f (xor n k)
      | .fin k j d =>
        if m = 0 then (if j = 0 then sfuNaN f true else { sfuInf f (xor n k) with flags := { dz := true } })
        else if j = 0 then sfuZero f (xor n k)
        else match exactQuot (xor n k) j d m e with
          | .num n m e s => sfuNear f key n m e s
          | _ => sfuNaN f true
      | .nan _ => sfuNaN f false
    | 4, .inf n => if n then sfuZero f false else sfuInf f false
    | 4, .fin n m e => if m = 0 then sfuOne f false else sfuExp2 f free n m e
    | 5, .inf n => if n then sfuNaN f true else sfuInf f false
    | 5, .fin n m e => if m = 0 then { sfuInf f true with flags := { dz := true } }
      else if n then sfuNaN f true else sfuLog2 f free m e
    | 6, .fin n m e => if m = 0 then sfuZero f n else sfuWithin f free (sinApprox 0 n m e) 1 (sfuFloor f)
    | 7, .fin n m e => if m = 0 then sfuOne f false else sfuWithin f free (sinApprox 1 n m e) 1 (sfuFloor f)
    | 8, .inf n => sfuOne f n
    | 8, .fin n m e => if m = 0 then sfuZero f n else
        let a := tanhApprox m e
        sfuWithin f free { a with neg := n } 2 (-4096)
    | _, _ => sfuNaN f true

/-- An SFU entry (R205, R208): its elements with their flags ORed. -/
def sfuResult (op : Nat) (single : Bool) (x y : Nat) : W64 × Flags :=
  let f := if single then 2 else 1
  let w := fmtBits f
  let rs := (List.range (64 / w)).map (fun e => sfuElem op f (elem w e x) (elem w e y))
  (BitVec.ofNat 64 (pack w (rs.map (·.bits))), rs.foldl (fun a r => a.or r.flags) {})

end Sys2Proof.Machine
end

