-- ==== Sys2Proof/Syntax.lean ====
section
/-! DEFINITION. The steps of the machine: one constructor per row of spec/opcode_table.json. The words come first in
the table's order of groups, those without a field last, with their fields as the row gives them (spec/02_instruction_words.md R29-R36, R60); the rows
without an encoding are the whole, indivisible events of spec/95_what_each_step_holds.md, with what
names the happening (a flight, a thread, a die) or what the world outside supplies as arguments. -/
namespace Sys2Proof

/-- A step of the machine: an instruction word, a modifier word, or an event. -/
inductive Instr where
  /-- `br` (R124). -/
  | br (off16 : BitVec 16)
  /-- `bp` (R125). -/
  | bp (p : BitVec 3) (sense : BitVec 1) (off16 : BitVec 16)
  /-- `bx` (R126). -/
  | bx (a : BitVec 6)
  /-- `call` (R124). -/
  | call (off16 : BitVec 16)
  /-- `sbwait` (R132). -/
  | sbwait (slot : BitVec 6) (k : BitVec 14)
  /-- `vote` (R134). -/
  | vote (d : BitVec 6) (a : BitVec 6) (m : BitVec 2)
  /-- `ballot` (R135). -/
  | ballot (d : BitVec 6) (a : BitVec 6) (m : BitVec 2)
  /-- `spawn` (R149). -/
  | spawn (d : BitVec 6) (a : BitVec 6) (b : BitVec 6)
  /-- `spawnn` (R150). -/
  | spawnn (d : BitVec 6) (a : BitVec 6) (b : BitVec 6)
  /-- `launch` (R151). -/
  | launch (d : BitVec 6) (a : BitVec 6)
  /-- `awaitp` (R153). -/
  | awaitp (d : BitVec 6) (a : BitVec 6)
  /-- `bar` (R156). -/
  | bar (d : BitVec 6) (n : BitVec 14)
  /-- `cbar` (R156). -/
  | cbar (d : BitVec 6) (n : BitVec 14)
  /-- `dbar` (R156). -/
  | dbar (d : BitVec 6) (n : BitVec 14)
  /-- `cvdecl` (R158). -/
  | cvdecl (d : BitVec 6) (a : BitVec 6) (base : BitVec 8)
  /-- `sign` (R159). -/
  | sign (cv : BitVec 6)
  /-- `trap` (R305). -/
  | trap (code : BitVec 14)
  /-- `brk` (R305). -/
  | brk (code : BitVec 14)
  /-- `blk` (R49). -/
  | blk (payload : BitVec 16)
  /-- `ext` (R50). -/
  | ext (payload : BitVec 16)
  /-- `grd` (R51). -/
  | grd (payload : BitVec 16)
  /-- `ver` (R52). -/
  | ver (payload : BitVec 16)
  /-- `fmt` (R53). -/
  | fmt (payload : BitVec 16)
  /-- `mov` (R184). -/
  | mov (d : BitVec 6) (a : BitVec 6) (m : BitVec 2)
  /-- `movi` (R185). -/
  | movi (d : BitVec 6) (imm : BitVec 14)
  /-- `movh` (R185). -/
  | movh (d : BitVec 6) (imm : BitVec 14)
  /-- `vwset` (R186). -/
  | vwset (view : BitVec 6) (a : BitVec 6) (mode : BitVec 1) (step : BitVec 7)
  /-- `add` (R187). -/
  | add (d : BitVec 6) (a : BitVec 6) (b : BitVec 6) (m : BitVec 2)
  /-- `sub` (R187). -/
  | sub (d : BitVec 6) (a : BitVec 6) (b : BitVec 6) (m : BitVec 2)
  /-- `mul` (R187). -/
  | mul (d : BitVec 6) (a : BitVec 6) (b : BitVec 6) (m : BitVec 2)
  /-- `mulh` (R187). -/
  | mulhSigned (d : BitVec 6) (a : BitVec 6) (b : BitVec 6) (m : BitVec 2)
  /-- `mulh` (R187). -/
  | mulhUnsigned (d : BitVec 6) (a : BitVec 6) (b : BitVec 6) (m : BitVec 2)
  /-- `mad` (R187). -/
  | mad (d : BitVec 6) (a : BitVec 6) (b : BitVec 6) (m : BitVec 2)
  /-- `addc` (R188). -/
  | addc (d : BitVec 6) (a : BitVec 6) (b : BitVec 6) (m : BitVec 2)
  /-- `subb` (R188). -/
  | subb (d : BitVec 6) (a : BitVec 6) (b : BitVec 6) (m : BitVec 2)
  /-- `and` (R187). -/
  | and (d : BitVec 6) (a : BitVec 6) (b : BitVec 6) (m : BitVec 2)
  /-- `or` (R187). -/
  | or (d : BitVec 6) (a : BitVec 6) (b : BitVec 6) (m : BitVec 2)
  /-- `xor` (R187). -/
  | xor (d : BitVec 6) (a : BitVec 6) (b : BitVec 6) (m : BitVec 2)
  /-- `andn` (R187). -/
  | andn (d : BitVec 6) (a : BitVec 6) (b : BitVec 6) (m : BitVec 2)
  /-- `not` (R187). -/
  | not (d : BitVec 6) (a : BitVec 6) (m : BitVec 2)
  /-- `shl` (R187). -/
  | shl (d : BitVec 6) (a : BitVec 6) (b : BitVec 6) (m : BitVec 2)
  /-- `shr` (R187). -/
  | shr (d : BitVec 6) (a : BitVec 6) (b : BitVec 6) (m : BitVec 2)
  /-- `sar` (R187). -/
  | sar (d : BitVec 6) (a : BitVec 6) (b : BitVec 6) (m : BitVec 2)
  /-- `rol` (R187). -/
  | rol (d : BitVec 6) (a : BitVec 6) (b : BitVec 6) (m : BitVec 2)
  /-- `min` (R187). -/
  | minSigned (d : BitVec 6) (a : BitVec 6) (b : BitVec 6) (m : BitVec 2)
  /-- `min` (R187). -/
  | minUnsigned (d : BitVec 6) (a : BitVec 6) (b : BitVec 6) (m : BitVec 2)
  /-- `max` (R187). -/
  | maxSigned (d : BitVec 6) (a : BitVec 6) (b : BitVec 6) (m : BitVec 2)
  /-- `max` (R187). -/
  | maxUnsigned (d : BitVec 6) (a : BitVec 6) (b : BitVec 6) (m : BitVec 2)
  /-- `abs` (R187). -/
  | abs (d : BitVec 6) (a : BitVec 6) (m : BitVec 2)
  /-- `neg` (R187). -/
  | neg (d : BitVec 6) (a : BitVec 6) (m : BitVec 2)
  /-- `cmp` (R189). -/
  | cmpSigned (p : BitVec 3) (cond : BitVec 3) (a : BitVec 6) (b : BitVec 6) (m : BitVec 2)
  /-- `cmp` (R189). -/
  | cmpUnsigned (p : BitVec 3) (cond : BitVec 3) (a : BitVec 6) (b : BitVec 6) (m : BitVec 2)
  /-- `sel` (R190). -/
  | sel (d : BitVec 6) (a : BitVec 6) (b : BitVec 6) (m : BitVec 2)
  /-- `popc` (R187). -/
  | popc (d : BitVec 6) (a : BitVec 6) (m : BitVec 2)
  /-- `clz` (R187). -/
  | clz (d : BitVec 6) (a : BitVec 6) (m : BitVec 2)
  /-- `ctz` (R187). -/
  | ctz (d : BitVec 6) (a : BitVec 6) (m : BitVec 2)
  /-- `brev` (R187). -/
  | brev (d : BitVec 6) (a : BitVec 6) (m : BitVec 2)
  /-- `bfx` (R191). -/
  | bfxSigned (d : BitVec 6) (a : BitVec 6) (b : BitVec 6) (m : BitVec 2)
  /-- `bfx` (R191). -/
  | bfxUnsigned (d : BitVec 6) (a : BitVec 6) (b : BitVec 6) (m : BitVec 2)
  /-- `bfi` (R191). -/
  | bfi (d : BitVec 6) (a : BitVec 6) (b : BitVec 6) (m : BitVec 2)
  /-- `lea` (R192). -/
  | lea (d : BitVec 6) (a : BitVec 6) (b : BitVec 6) (m : BitVec 2)
  /-- `pand` (R194). -/
  | pand (d : BitVec 3) (na : BitVec 1) (a : BitVec 3) (nb : BitVec 1) (b : BitVec 3)
  /-- `por` (R194). -/
  | por (d : BitVec 3) (na : BitVec 1) (a : BitVec 3) (nb : BitVec 1) (b : BitVec 3)
  /-- `pxor` (R194). -/
  | pxor (d : BitVec 3) (na : BitVec 1) (a : BitVec 3) (nb : BitVec 1) (b : BitVec 3)
  /-- `pmov` (R195). -/
  | pmov (d : BitVec 6) (a : BitVec 6) (b : BitVec 6)
  /-- `csr.r` (R306). -/
  | csrR (d : BitVec 6) (num : BitVec 14)
  /-- `csr.w` (R306). -/
  | csrW (d : BitVec 6) (num : BitVec 14)
  /-- `add` (R193). -/
  | addImm (d : BitVec 6) (a : BitVec 6) (imm : BitVec 8)
  /-- `and` (R193). -/
  | andImm (d : BitVec 6) (a : BitVec 6) (imm : BitVec 8)
  /-- `or` (R193). -/
  | orImm (d : BitVec 6) (a : BitVec 6) (imm : BitVec 8)
  /-- `xor` (R193). -/
  | xorImm (d : BitVec 6) (a : BitVec 6) (imm : BitVec 8)
  /-- `shl` (R193). -/
  | shlImm (d : BitVec 6) (a : BitVec 6) (imm : BitVec 8)
  /-- `shr` (R193). -/
  | shrImm (d : BitVec 6) (a : BitVec 6) (imm : BitVec 8)
  /-- `sar` (R193). -/
  | sarImm (d : BitVec 6) (a : BitVec 6) (imm : BitVec 8)
  /-- `mul` (R193). -/
  | mulImm (d : BitVec 6) (a : BitVec 6) (imm : BitVec 8)
  /-- `cmp` (R193). -/
  | cmpSignedImm (p : BitVec 3) (cond : BitVec 3) (a : BitVec 6) (imm : BitVec 8)
  /-- `cmp` (R193). -/
  | cmpUnsignedImm (p : BitVec 3) (cond : BitVec 3) (a : BitVec 6) (imm : BitVec 8)
  /-- `fadd` (R197). -/
  | fadd (d : BitVec 6) (a : BitVec 6) (b : BitVec 6) (m : BitVec 2)
  /-- `fsub` (R197). -/
  | fsub (d : BitVec 6) (a : BitVec 6) (b : BitVec 6) (m : BitVec 2)
  /-- `fmul` (R197). -/
  | fmul (d : BitVec 6) (a : BitVec 6) (b : BitVec 6) (m : BitVec 2)
  /-- `fma` (R197). -/
  | fma (d : BitVec 6) (a : BitVec 6) (b : BitVec 6) (m : BitVec 2)
  /-- `fnma` (R197). -/
  | fnma (d : BitVec 6) (a : BitVec 6) (b : BitVec 6) (m : BitVec 2)
  /-- `fmin` (R199). -/
  | fmin (d : BitVec 6) (a : BitVec 6) (b : BitVec 6) (m : BitVec 2)
  /-- `fmax` (R199). -/
  | fmax (d : BitVec 6) (a : BitVec 6) (b : BitVec 6) (m : BitVec 2)
  /-- `fabs` (R197). -/
  | fabs (d : BitVec 6) (a : BitVec 6) (m : BitVec 2)
  /-- `fneg` (R197). -/
  | fneg (d : BitVec 6) (a : BitVec 6) (m : BitVec 2)
  /-- `fcmp` (R200). -/
  | fcmp (p : BitVec 3) (cond : BitVec 3) (a : BitVec 6) (b : BitVec 6) (m : BitVec 2)
  /-- `fclass` (R201). -/
  | fclass (d : BitVec 6) (a : BitVec 6) (m : BitVec 2)
  /-- `fsel` (R201). -/
  | fsel (d : BitVec 6) (a : BitVec 6) (b : BitVec 6) (m : BitVec 2)
  /-- `frnd` (R202). -/
  | frnd (d : BitVec 6) (a : BitVec 6) (m : BitVec 2)
  /-- `fcvt` (R203). -/
  | fcvt (d : BitVec 6) (a : BitVec 6) (df : BitVec 4) (sf : BitVec 4)
  /-- `fpack` (R204). -/
  | fpack (d : BitVec 6) (a : BitVec 6) (b : BitVec 6)
  /-- `funpack` (R204). -/
  | funpack (d : BitVec 6) (a : BitVec 6) (half : BitVec 1)
  /-- `fscale` (R197). -/
  | fscale (d : BitVec 6) (a : BitVec 6) (b : BitVec 6) (m : BitVec 2)
  /-- `fexp` (R198). -/
  | fexp (d : BitVec 6) (a : BitVec 6) (m : BitVec 2)
  /-- `fdot2` (R198). -/
  | fdot2 (d : BitVec 6) (a : BitVec 6) (b : BitVec 6) (m : BitVec 2)
  /-- `fdot4` (R198). -/
  | fdot4 (d : BitVec 6) (a : BitVec 6) (b : BitVec 6) (m : BitVec 2)
  /-- `rcp` (R205). -/
  | rcp (d : BitVec 6) (a : BitVec 6) (la : BitVec 4) (sb : BitVec 3) (m : BitVec 1)
  /-- `rsq` (R205). -/
  | rsq (d : BitVec 6) (a : BitVec 6) (la : BitVec 4) (sb : BitVec 3) (m : BitVec 1)
  /-- `sqrt` (R205). -/
  | sqrt (d : BitVec 6) (a : BitVec 6) (la : BitVec 4) (sb : BitVec 3) (m : BitVec 1)
  /-- `div` (R205). -/
  | div (d : BitVec 6) (a : BitVec 6) (la : BitVec 4) (sb : BitVec 3) (m : BitVec 1)
  /-- `exp2` (R205). -/
  | exp2 (d : BitVec 6) (a : BitVec 6) (la : BitVec 4) (sb : BitVec 3) (m : BitVec 1)
  /-- `log2` (R205). -/
  | log2 (d : BitVec 6) (a : BitVec 6) (la : BitVec 4) (sb : BitVec 3) (m : BitVec 1)
  /-- `sin` (R205). -/
  | sin (d : BitVec 6) (a : BitVec 6) (la : BitVec 4) (sb : BitVec 3) (m : BitVec 1)
  /-- `cos` (R205). -/
  | cos (d : BitVec 6) (a : BitVec 6) (la : BitVec 4) (sb : BitVec 3) (m : BitVec 1)
  /-- `tanh` (R205). -/
  | tanh (d : BitVec 6) (a : BitVec 6) (la : BitVec 4) (sb : BitVec 3) (m : BitVec 1)
  /-- `mred` (R212). -/
  | mred (d : BitVec 6) (a : BitVec 6) (b : BitVec 6) (m : BitVec 2)
  /-- `mscan` (R213). -/
  | mscan (d : BitVec 6) (a : BitVec 6) (m : BitVec 2)
  /-- `shfl` (R210). -/
  | shfl (d : BitVec 6) (a : BitVec 6) (b : BitVec 6) (m : BitVec 2)
  /-- `bcast` (R211). -/
  | bcast (d : BitVec 6) (a : BitVec 6) (m : BitVec 2)
  /-- `cred` (R212). -/
  | cred (d : BitVec 6) (a : BitVec 6) (m : BitVec 2)
  /-- `pdef` (R217). -/
  | pdef (d : BitVec 6) (a : BitVec 6)
  /-- `pace` (R218). -/
  | pace (d : BitVec 6) (a : BitVec 6) (la : BitVec 4) (sb : BitVec 3)
  /-- `ldl` (R241). -/
  | ldl (d : BitVec 6) (a : BitVec 6) (la : BitVec 4) (sb : BitVec 3) (m : BitVec 1)
  /-- `stl` (R241). -/
  | stl (d : BitVec 6) (a : BitVec 6) (la : BitVec 4) (sb : BitVec 3) (m : BitVec 1)
  /-- `lds` (R241). -/
  | lds (d : BitVec 6) (a : BitVec 6) (la : BitVec 4) (sb : BitVec 3) (m : BitVec 1)
  /-- `sts` (R241). -/
  | sts (d : BitVec 6) (a : BitVec 6) (la : BitVec 4) (sb : BitVec 3) (m : BitVec 1)
  /-- `ldc` (R241). -/
  | ldc (d : BitVec 6) (a : BitVec 6) (la : BitVec 4) (sb : BitVec 3) (m : BitVec 1)
  /-- `stc` (R241). -/
  | stc (d : BitVec 6) (a : BitVec 6) (la : BitVec 4) (sb : BitVec 3) (m : BitVec 1)
  /-- `ldk` (R241). -/
  | ldk (d : BitVec 6) (a : BitVec 6) (la : BitVec 4) (sb : BitVec 3) (m : BitVec 1)
  /-- `stk` (R241). -/
  | stk (d : BitVec 6) (a : BitVec 6) (la : BitVec 4) (sb : BitVec 3) (m : BitVec 1)
  /-- `spres` (R243). -/
  | spres (set : BitVec 1) (a : BitVec 6) (count : BitVec 8)
  /-- `atoms.add` (R242). -/
  | atomsAdd (d : BitVec 6) (a : BitVec 6) (la : BitVec 4) (sb : BitVec 3) (m : BitVec 1)
  /-- `atoms.min` (R242). -/
  | atomsMin (d : BitVec 6) (a : BitVec 6) (la : BitVec 4) (sb : BitVec 3) (m : BitVec 1)
  /-- `atoms.max` (R242). -/
  | atomsMax (d : BitVec 6) (a : BitVec 6) (la : BitVec 4) (sb : BitVec 3) (m : BitVec 1)
  /-- `atoms.and` (R242). -/
  | atomsAnd (d : BitVec 6) (a : BitVec 6) (la : BitVec 4) (sb : BitVec 3) (m : BitVec 1)
  /-- `atoms.or` (R242). -/
  | atomsOr (d : BitVec 6) (a : BitVec 6) (la : BitVec 4) (sb : BitVec 3) (m : BitVec 1)
  /-- `atoms.xor` (R242). -/
  | atomsXor (d : BitVec 6) (a : BitVec 6) (la : BitVec 4) (sb : BitVec 3) (m : BitVec 1)
  /-- `atoms.xchg` (R242). -/
  | atomsXchg (d : BitVec 6) (a : BitVec 6) (la : BitVec 4) (sb : BitVec 3) (m : BitVec 1)
  /-- `atoms.cas` (R242). -/
  | atomsCas (d : BitVec 6) (a : BitVec 6) (la : BitVec 4) (sb : BitVec 3) (m : BitVec 1)
  /-- `ld` (R269). -/
  | ld (d : BitVec 6) (a : BitVec 6) (la : BitVec 4) (sb : BitVec 3) (m : BitVec 1)
  /-- `st` (R269). -/
  | st (d : BitVec 6) (a : BitVec 6) (la : BitVec 4) (sb : BitVec 3) (m : BitVec 1)
  /-- `pf` (R271). -/
  | pf (a : BitVec 6) (m : BitVec 1)
  /-- `red` (R273). -/
  | red (d : BitVec 6) (a : BitVec 6) (la : BitVec 4) (sb : BitVec 3) (m : BitVec 1)
  /-- `cinval` (R275). -/
  | cinval (a : BitVec 6) (b : BitVec 6) (m : BitVec 2)
  /-- `cwb` (R275). -/
  | cwb (a : BitVec 6) (b : BitVec 6)
  /-- `hflush` (R275). -/
  | hflush (a : BitVec 6) (b : BitVec 6)
  /-- `hinval` (R275). -/
  | hinval (a : BitVec 6) (b : BitVec 6)
  /-- `atom.add` (R272). -/
  | atomAdd (d : BitVec 6) (a : BitVec 6) (la : BitVec 4) (sb : BitVec 3) (m : BitVec 1)
  /-- `atom.min` (R272). -/
  | atomMin (d : BitVec 6) (a : BitVec 6) (la : BitVec 4) (sb : BitVec 3) (m : BitVec 1)
  /-- `atom.max` (R272). -/
  | atomMax (d : BitVec 6) (a : BitVec 6) (la : BitVec 4) (sb : BitVec 3) (m : BitVec 1)
  /-- `atom.and` (R272). -/
  | atomAnd (d : BitVec 6) (a : BitVec 6) (la : BitVec 4) (sb : BitVec 3) (m : BitVec 1)
  /-- `atom.or` (R272). -/
  | atomOr (d : BitVec 6) (a : BitVec 6) (la : BitVec 4) (sb : BitVec 3) (m : BitVec 1)
  /-- `atom.xor` (R272). -/
  | atomXor (d : BitVec 6) (a : BitVec 6) (la : BitVec 4) (sb : BitVec 3) (m : BitVec 1)
  /-- `atom.xchg` (R272). -/
  | atomXchg (d : BitVec 6) (a : BitVec 6) (la : BitVec 4) (sb : BitVec 3) (m : BitVec 1)
  /-- `atom.cas` (R272). -/
  | atomCas (d : BitVec 6) (a : BitVec 6) (la : BitVec 4) (sb : BitVec 3) (m : BitVec 1)
  /-- `hrel` (R274). -/
  | hrel (d : BitVec 6) (a : BitVec 6) (la : BitVec 4) (sb : BitVec 3)
  /-- `mma.d` (R348). -/
  | mmaD (c : BitVec 4) (a : BitVec 4) (b : BitVec 4) (la : BitVec 4) (sb : BitVec 3) (m : BitVec 1)
  /-- `mma.s` (R348). -/
  | mmaS (c : BitVec 4) (a : BitVec 4) (b : BitVec 4) (la : BitVec 4) (sb : BitVec 3) (m : BitVec 1)
  /-- `mma.bf` (R348). -/
  | mmaBf (c : BitVec 4) (a : BitVec 4) (b : BitVec 4) (la : BitVec 4) (sb : BitVec 3) (m : BitVec 1)
  /-- `mma.h` (R348). -/
  | mmaH (c : BitVec 4) (a : BitVec 4) (b : BitVec 4) (la : BitVec 4) (sb : BitVec 3) (m : BitVec 1)
  /-- `mma.e4` (R348). -/
  | mmaE4 (c : BitVec 4) (a : BitVec 4) (b : BitVec 4) (la : BitVec 4) (sb : BitVec 3) (m : BitVec 1)
  /-- `mma.e5` (R348). -/
  | mmaE5 (c : BitVec 4) (a : BitVec 4) (b : BitVec 4) (la : BitVec 4) (sb : BitVec 3) (m : BitVec 1)
  /-- `mma.f4` (R348). -/
  | mmaF4 (c : BitVec 4) (a : BitVec 4) (b : BitVec 4) (la : BitVec 4) (sb : BitVec 3) (m : BitVec 1)
  /-- `mmg` (R357). -/
  | mmg (c : BitVec 4) (a : BitVec 4) (b : BitVec 4) (la : BitVec 4) (sb : BitVec 3) (m : BitVec 1)
  /-- `mres` (R351). -/
  | mres (d : BitVec 6) (a : BitVec 6) (b : BitVec 6)
  /-- `mrel` (R352). -/
  | mrel (d : BitVec 6) (handle : BitVec 8)
  /-- `mobl` (R354). -/
  | mobl (d : BitVec 6) (a : BitVec 6) (la : BitVec 4) (sb : BitVec 3) (m : BitVec 1)
  /-- `mzero` (R358). -/
  | mzero (c : BitVec 4) (la : BitVec 4) (sb : BitVec 3) (m : BitVec 1)
  /-- `mld` (R359). -/
  | mld (d : BitVec 6) (a : BitVec 6) (la : BitVec 4) (sb : BitVec 3) (m : BitVec 1)
  /-- `mst` (R359). -/
  | mst (d : BitVec 6) (a : BitVec 6) (la : BitVec 4) (sb : BitVec 3) (m : BitVec 1)
  /-- `mepi` (R362). -/
  | mepi (d : BitVec 6) (a : BitVec 6) (b : BitVec 6) (m : BitVec 2)
  /-- `mchol.d` (R363). -/
  | mcholD (c : BitVec 4) (la : BitVec 4) (sb : BitVec 3)
  /-- `mlu.d` (R364). -/
  | mluD (c : BitVec 4) (a : BitVec 4) (la : BitVec 4) (sb : BitVec 3)
  /-- `mtrsm.d` (R365). -/
  | mtrsmD (c : BitVec 4) (a : BitVec 4) (b : BitVec 4) (la : BitVec 4) (sb : BitVec 3) (m : BitVec 1)
  /-- `cpy` (R386). -/
  | cpy (d : BitVec 6) (a : BitVec 6) (la : BitVec 4) (sb : BitVec 3)
  /-- `stage` (R385). -/
  | stage (d : BitVec 6) (k : BitVec 14)
  /-- `cpyq` (R386). -/
  | cpyq (d : BitVec 6) (a : BitVec 6) (la : BitVec 4) (sb : BitVec 3)
  /-- `gat` (R386). -/
  | gat (d : BitVec 6) (a : BitVec 6) (la : BitVec 4) (sb : BitVec 3)
  /-- `vstep` (R319). -/
  | vstep (a : BitVec 6) (m : BitVec 2)
  /-- `ldv` (R337). -/
  | ldv (d : BitVec 6) (a : BitVec 6) (la : BitVec 4) (sb : BitVec 3)
  /-- `vbind` (R332). -/
  | vbind (d : BitVec 6) (a : BitVec 6) (b : BitVec 6)
  /-- `vrel` (R332). -/
  | vrel (d : BitVec 6) (a : BitVec 6)
  /-- `vpub` (R329). -/
  | vpub (d : BitVec 6) (a : BitVec 6) (la : BitVec 4) (sb : BitVec 3)
  /-- `vq` (R338). -/
  | vq (d : BitVec 6) (a : BitVec 6) (m : BitVec 2)
  /-- `tex` (R398). -/
  | tex (d : BitVec 6) (a : BitVec 6) (la : BitVec 4) (sb : BitVec 3) (m : BitVec 1)
  /-- `texl` (R398). -/
  | texl (d : BitVec 6) (a : BitVec 6) (la : BitVec 4) (sb : BitVec 3) (m : BitVec 1)
  /-- `texg` (R398). -/
  | texg (d : BitVec 6) (a : BitVec 6) (la : BitVec 4) (sb : BitVec 3) (m : BitVec 1)
  /-- `rgen` (R408). -/
  | rgen (d : BitVec 6) (a : BitVec 6) (b : BitVec 6) (m : BitVec 2)
  /-- `rt` (R405). -/
  | rt (d : BitVec 6) (a : BitVec 6) (la : BitVec 4) (sb : BitVec 3)
  /-- `rnext` (R405). -/
  | rnext (d : BitVec 6) (a : BitVec 6) (la : BitVec 4) (sb : BitVec 3)
  /-- `rhit` (R406). -/
  | rhit (d : BitVec 6) (a : BitVec 6) (b : BitVec 6) (m : BitVec 2)
  /-- `fmarch` (R410). -/
  | fmarch (d : BitVec 6) (a : BitVec 6) (la : BitVec 4) (sb : BitVec 3)
  /-- `mom.acc` (R411). -/
  | momAcc (d : BitVec 6) (a : BitVec 6) (la : BitVec 4) (sb : BitVec 3)
  /-- `mom.res` (R412). -/
  | momRes (d : BitVec 6) (a : BitVec 6) (la : BitVec 4) (sb : BitVec 3) (m : BitVec 1)
  /-- `rld` (R443). -/
  | rld (d : BitVec 6) (a : BitVec 6) (la : BitVec 4) (sb : BitVec 3) (m : BitVec 1)
  /-- `rst` (R443). -/
  | rst (d : BitVec 6) (a : BitVec 6) (la : BitVec 4) (sb : BitVec 3) (m : BitVec 1)
  /-- `ratom` (R443). -/
  | ratom (d : BitVec 6) (a : BitVec 6) (la : BitVec 4) (sb : BitVec 3) (m : BitVec 1)
  /-- `cnt.add` (R447). -/
  | cntAdd (a : BitVec 6) (b : BitVec 6) (m : BitVec 2)
  /-- `cwait` (R448). -/
  | cwait (d : BitVec 6) (a : BitVec 6) (la : BitVec 4) (sb : BitVec 3)
  /-- `coll` (R455). -/
  | coll (d : BitVec 6) (a : BitVec 6) (la : BitVec 4) (sb : BitVec 3)
  /-- Event SFU_RESULT_LAND (R208). -/
  | sfuResultLand (f : Nat)
  /-- Event PACE_JOB_COMPLETE (R220). -/
  | paceJobComplete (f : Nat)
  /-- Event MATRIX_GENERATION_COMPLETE (R346). -/
  | matrixGenerationComplete (g : Nat)
  /-- Event TIME_TOKEN_ARRIVAL (R19). -/
  | timeTokenArrival (r : Nat)
  /-- Event TIME_ECHO (R21). -/
  | timeEcho (r : Nat)
  /-- Event GUARD_EFFECTIVE (R26). -/
  | guardEffective (r : Nat)
  /-- Event LEASE_EXPIRY (R23). -/
  | leaseExpiry (die asid slot line : Nat)
  /-- Event EDGE_RECONCILE (R147). -/
  | edgeReconcile (tid : Nat)
  /-- Event CREW_ACTIVATE (R110). -/
  | crewActivate (cid lane : Nat)
  /-- Event SCHEDULER_DECISION (R111). -/
  | schedulerDecision (p : Place) (slice lane : Nat)
  /-- Event CREW_NOT_READY_TIMEOUT (R114). -/
  | crewNotReadyTimeout (cid : Nat)
  /-- Event CREW_RESIDENCY_TIMEOUT (R114). -/
  | crewResidencyTimeout (cid : Nat)
  /-- Event BIN_AGE_DRAW (R116). -/
  | binAgeDraw (bin : Nat)
  /-- Event BIN_IDLE_DRAW (R116). -/
  | binIdleDraw (bin slice lane : Nat)
  /-- Event STRAY_TIMEOUT (R120). -/
  | strayTimeout (tid : Nat)
  /-- Event DBAR_DIE_MESSAGE (R156). -/
  | dbarDieMessage (grid n die : Nat)
  /-- Event TEAM_SWAP (R154). -/
  | teamSwap (team : Nat)
  /-- Event MEMORY_LOAD_LAND (R269). -/
  | memoryLoadLand (f : Nat)
  /-- Event MEMORY_WRITE_PERFORMED (R260). -/
  | memoryWritePerformed (f : Nat)
  /-- Event LATE_FAULT (R296). -/
  | lateFault (f : Nat)
  /-- Event HANDLER_TIMEOUT (R302). -/
  | handlerTimeout (tid : Nat)
  /-- Event HOME_READ_REQUEST (R258). -/
  | homeReadRequest (f : Nat)
  /-- Event HOME_OWNERSHIP_REQUEST (R258). -/
  | homeOwnershipRequest (f : Nat)
  /-- Event HOME_WRITE_ARRIVAL (R321). -/
  | homeWriteArrival (f : Nat)
  /-- Event FILL_ARRIVAL (R259). -/
  | fillArrival (f : Nat)
  /-- Event VPUB_JOB_RUN (R329). -/
  | vpubJobRun (f : Nat)
  /-- Event MOBL_COMPLETE (R354). -/
  | moblComplete (f : Nat)
  /-- Event JOB_START (R380). -/
  | jobStart (j : Nat)
  /-- Event JOB_COMPLETE (R376). -/
  | jobComplete (j : Nat)
  /-- Event TEX_COMPLETE (R398). -/
  | texComplete (f : Nat)
  /-- Event RAY_EVENT (R405). -/
  | rayEvent (f : Nat)
  /-- Event FMARCH_COMPLETE (R410). -/
  | fmarchComplete (f : Nat)
  /-- Event RING_RECORD_READ (R417). -/
  | ringRecordRead (q : Nat)
  /-- Event GRID_COMPLETE (R427). -/
  | gridComplete (grid : Nat)
  /-- Event LINK_TIMEOUT (R445). -/
  | linkTimeout (f : Nat)
  /-- Event COUNTER_ADD_ARRIVAL (R447). -/
  | counterAddArrival (a : CounterArrival)
  /-- Event CWAIT_TIMEOUT (R448). -/
  | cwaitTimeout (f : Nat)
  /-- Event COLL_WAIT_TIMEOUT (R453). -/
  | collWaitTimeout (grid chunk : Nat)
  /-- Event CHUNK_COMPLETE (R454). -/
  | chunkComplete (grid chunk : Nat)
  /-- Event POWER_ON_RESET (R472): the step that fails, and the slots that do not train. -/
  | powerOnReset (up : BringUp)
  /-- Event ETH_TX_FRAME (R476). -/
  | ethTxFrame (port : Nat)
  /-- Event SNAPSHOT_COPY_COMPLETE (R322). -/
  | snapshotCopyComplete (asid page : Nat)
  /-- Event STOLEN_CONTINUATION (R154). -/
  | stolenContinuation (team : Nat) (p : Place)
  /-- Event COPY_LINE_LANDING (R233). -/
  | copyLineLanding (j line : Nat)
  /-- Event ROUTED_TILE_COMPLETE (R361). -/
  | routedTileComplete (f : Nat) (r : RemoteAnswer)
  /-- Event TEAM_ADMIT (R424). -/
  | teamAdmit (p : List Place)
  /-- Event TEAM_RESUME (R310). -/
  | teamResume (team : Nat) (p : List Place)
  /-- Event WT_LOAD (R396). -/
  | wtLoad (tid : Nat)
  /-- Event WT_DROP (R396). -/
  | wtDrop (tid : Nat)
  /-- Event ECHO_SILENCE_TIMEOUT (R21). -/
  | echoSilenceTimeout (r : Nat)
  /-- Event DIE_FENCE_TIMEOUT (R315). -/
  | dieFenceTimeout (die : Nat)
  /-- Event VERSION_RECLAIM (R333). -/
  | versionReclaim (asid entry : Nat)
  /-- Event ETH_RX_FRAME (R476). -/
  | ethRxFrame (port : Nat) (frame : List (BitVec 8)) (badCheck : Bool)
  /-- Event REGISTER_SCRUB (R180, R182): errors corrected; granules of a thread's window and of its q copy that cannot be. -/
  | registerScrub (tid : Nat) (found : RegisterErrors)
  /-- Event PRA_ANSWER (R471). -/
  | praAnswer (v : BitVec 64)
  /-- Event CACHE_SCRUB (R263): the unit scrubbed, errors corrected, a granule that cannot be. -/
  | cacheScrub (found : CacheErrors)
  /-- Event SCRATCH_SCRUB (R240, R349): errors corrected; a granule that cannot be. -/
  | scratchScrub (found : ScratchErrors)
  /-- Event GUARD_WRITE (R26). -/
  | guardWrite (v : BitVec 64)
  /-- Event CADENCE_TICK (R431). -/
  | cadenceTick (unattributed : Nat) (measured : List (Nat × Nat))
  /-- Event REMOTE_ACK (R442). -/
  | remoteAck (f : Nat) (r : RemoteAnswer)
  /-- Event QUEUE_DESCRIPTOR_WRITE (R415). -/
  | queueDescriptorWrite (q : Nat) (v : BitVec 128)
  /-- Event CADENCE_WRITE (R430). -/
  | cadenceWrite (v : BitVec 64)
  /-- Event CORE_FAIL (R313). -/
  | coreFail (p : Place)
  /-- Event LANE_FAIL (R312). -/
  | laneFail (p : Place) (slice lane : Nat)
  /-- Event HBM_CHANNEL_FAIL (R312). -/
  | hbmChannelFail (stack channel : Nat)
  /-- Event QUAD_FAIL (R312). -/
  | quadFail (quad : Nat)
  /-- Event FAULT_RECORD_FREE (R311). -/
  | faultRecordFree (die index : Nat)
  /-- Event FLIT_SEND (R438). -/
  | flitSend (die port : Nat)
  /-- Event BER_WINDOW_END (R439). -/
  | berWindowEnd (die port slot errors : Nat)
  /-- Event UNCORRECTABLE_CODEWORD (R439). -/
  | uncorrectableCodeword (die port slot : Nat)
  /-- Event TRAINING_WINDOW_END (R440). -/
  | trainingWindowEnd (die port slot errors : Nat)
  /-- Event RETRAIN_TIMEOUT (R440). -/
  | retrainTimeout (die port slot : Nat)
  /-- Event REMOTE_REQUEST_ARRIVAL (R442). -/
  | remoteRequestArrival (r : RemoteRequest)
  /-- Event COLL_MESSAGE_ARRIVAL (R452). -/
  | collMessageArrival (m : CollMessage)
  /-- Event PAGE_INVAL (R254). -/
  | pageInval (asid : Nat) (va : BitVec 64) (size : Nat)
  /-- Event POOL_SET (R470). -/
  | poolSet (asid entry free : Nat)
  /-- Event ROUTE (R470). -/
  | route (peer die port : Nat)
  /-- Event SPARE_CORE (R477). -/
  | spareCore (die cluster core : Nat)
  /-- Event CHAN_REMAP (R477). -/
  | chanRemap (stack channel : Nat)
  /-- Event RELEASE (R470). -/
  | release (die index : Nat)
  /-- Event HOST_MAILBOX_WRITE (R266). -/
  | hostMailboxWrite (off : Nat) (bytes : List (BitVec 8))
  /-- Event HOST_APERTURE_ACCESS (R468). -/
  | hostApertureAccess (off : Nat) (bytes : List (BitVec 8)) (write : Bool)
  /-- Event MAILBOX_MAP_WRITE (R469). -/
  | mailboxMapWrite (entry : Nat) (v : BitVec 64)
  /-- Event ATTEST_REQUEST (R474). -/
  | attestRequest (nonce : List (BitVec 8))
  /-- Event ETH_TAIL_WRITE (R476). -/
  | ethTailWrite (port : Nat) (rx : Bool) (v : BitVec 64)
  /-- Event SERVICE_COUNTER_WRITE (R479). -/
  | serviceCounterWrite (index : Nat) (v : BitVec 64)
  /-- Event REGISTER_WRITE (R6). -/
  | registerWrite (off : Nat) (v : BitVec 64)
  /-- Event BACK_INVALIDATE_ANSWER (R266). -/
  | backInvalidateAnswer (line : Nat)
  /-- `nop` (R123). -/
  | nop
  /-- `ret` (R128). -/
  | ret
  /-- `reform` (R131). -/
  | reform
  /-- `exit` (R130). -/
  | exit
  /-- `qsync` (R133). -/
  | qsync
  /-- `await` (R152). -/
  | await
  /-- `rtt` (R304). -/
  | rtt
  /-- `swf` (R244). -/
  | swf
  /-- Event TIME_TOKEN_SEND (R19). -/
  | timeTokenSend
  /-- Event GUARD_TRANSITION_END (R26). -/
  | guardTransitionEnd
  /-- Event SERVICE_COMMAND_LOST (R470). -/
  | serviceCommandLost
  /-- Event ATTEST_REPORT_DONE (R474). -/
  | attestReportDone
  /-- Event SERVICE_COMMAND_COMPLETE (R470). -/
  | serviceCommandComplete
  deriving DecidableEq, Repr

end Sys2Proof
end

