-- ==== Sys2Proof/WellFormed.lean ====
section
/-! DEFINITION. Which instruction words are well formed: no field holds a value that the word's entry refuses when the
field is taken alone (spec/02_instruction_words.md R44 step 1, R35, and the entries). An event is no word and has
no encoding, so no event is well formed. -/
namespace Sys2Proof

/-- Control register numbers that some chapter assigns (R306, R340, R366, R387, R413, R433, R458). -/
def csrAssigned (n : Nat) : Bool :=
  n ≤ 0x04 || (decide (0x10 ≤ n) && decide (n ≤ 0x14)) || (decide (0x18 ≤ n) && decide (n ≤ 0x1B))
  || (decide (0x20 ≤ n) && decide (n ≤ 0x25)) || (decide (0x30 ≤ n) && decide (n ≤ 0x33))
  || (decide (0x40 ≤ n) && decide (n ≤ 0x46)) || (decide (0x50 ≤ n) && decide (n ≤ 0x52))
  || (decide (0x60 ≤ n) && decide (n ≤ 0x7F)) || (decide (0x80 ≤ n) && decide (n ≤ 0x8B))
  || n == 0xC0 || n == 0xC1 || (decide (0x100 ≤ n) && decide (n ≤ 0x103))
  || (decide (0x140 ≤ n) && decide (n ≤ 0x147)) || (decide (0x180 ≤ n) && decide (n ≤ 0x182))

/-- Control registers that a program writes with `csr.w`; every other assigned number is read-only to programs. -/
def csrWritable (n : Nat) : Bool :=
  [0x10, 0x11, 0x12, 0x13, 0x18, 0x19, 0x1A, 0x1B, 0x21, 0x25, 0x32, 0x40, 0x42, 0x44, 0x45, 0x46,
   0x80, 0x81, 0x82, 0x83, 0x84, 0x85, 0x86, 0x87, 0x88, 0x89, 0x8A, 0x8B, 0x100, 0x101, 0x102, 0x103,
   0x143, 0x145].contains n

/-- A `ver` payload without a refused value (R52). -/
def verPayloadOk (y : BitVec 16) : Bool :=
  let mode := (y >>> 14).toNat
  decide (mode ≤ 1) && (y.getLsbD 13 || (y >>> 10) &&& 7 == 0) && ((y >>> 5) &&& 0x1F == 0)
    && (mode == 1 || decide ((y &&& 0x1F).toNat ≤ 15))

/-- The pair of format codes of `fcvt` (R203). -/
def fcvtPairOk (df sf : BitVec 4) : Bool :=
  df != 0 && sf != 0 && df != sf && !(decide (8 ≤ df.toNat) && decide (8 ≤ sf.toNat))

/-- Bits [4:3] of a predicate field with an inversion bit (R194). -/
def predFieldOk (a : BitVec 6) : Bool := (a >>> 3) &&& 3 == 0

/-- No field holds a value its entry refuses (R44 step 1). -/
def Instr.wf : Instr → Bool
  | .nop | .br _ | .bp _ _ _ | .bx _ | .call _ | .ret | .reform | .exit | .qsync | .await | .rtt | .swf => true
  | .sbwait d k => decide (d.toNat ≤ 7) && decide (k.toNat ≤ 63)
  | .vote d a m => decide (d.toNat ≤ 7) && decide (a.toNat ≤ 7) && m != 3
  | .ballot _ a m => decide (a.toNat ≤ 7) && decide (m.toNat ≤ 1)
  | .spawn d _ _ => decide (d.toNat ≤ 7)
  | .spawnn _ _ _ => true
  | .launch _ _ => true
  | .awaitp d _ => decide (d.toNat ≤ 7)
  | .bar d n | .cbar d n | .dbar d n => decide (d.toNat ≤ 31) && decide (n.toNat ≤ 15)
  | .cvdecl d a g => decide (d.toNat ≤ 7) && decide (a.toNat ≤ 31) && decide (g.toNat ≤ 31)
  | .sign cv => decide (cv.toNat ≤ 7)
  | .trap _ | .brk _ => true
  | .blk y => y &&& 0x7F == 0
  | .ext _ => true
  | .grd y => y &&& 0xFFF == 0
  | .ver y => verPayloadOk y
  | .fmt y => decide ((y >>> 13).toNat ≤ 5) && y &&& 0xF == 0
  | .mov _ _ _ | .movi _ _ | .movh _ _ => true
  | .vwset view a mode step => decide (view.toNat ≤ 3) && (if mode == 0 then step == 0 else a == 0)
  | .add _ _ _ _ | .sub _ _ _ _ | .mul _ _ _ _ | .mulhSigned _ _ _ _ | .mulhUnsigned _ _ _ _ | .mad _ _ _ _
  | .addc _ _ _ _ | .subb _ _ _ _ | .and _ _ _ _ | .or _ _ _ _ | .xor _ _ _ _ | .andn _ _ _ _ | .not _ _ _
  | .shl _ _ _ _ | .shr _ _ _ _ | .sar _ _ _ _ | .rol _ _ _ _ | .minSigned _ _ _ _ | .minUnsigned _ _ _ _
  | .maxSigned _ _ _ _ | .maxUnsigned _ _ _ _ | .abs _ _ _ | .neg _ _ _ | .sel _ _ _ _ | .popc _ _ _ | .clz _ _ _
  | .ctz _ _ _ | .brev _ _ _ | .bfxSigned _ _ _ _ | .bfxUnsigned _ _ _ _ | .bfi _ _ _ _ | .lea _ _ _ _ => true
  | .cmpSigned _ c _ _ _ | .cmpUnsigned _ c _ _ _ => decide (c.toNat ≤ 5)
  | .pand _ _ _ _ _ | .por _ _ _ _ _ | .pxor _ _ _ _ _ => true
  | .pmov d a b => match b.toNat with
    | 0 => decide (d.toNat ≤ 7) && predFieldOk a
    | 1 => predFieldOk a
    | 2 => decide (d.toNat ≤ 7)
    | _ => false
  | .csrR _ n => csrAssigned n.toNat
  | .csrW _ n => csrWritable n.toNat
  | .addImm _ _ _ | .andImm _ _ _ | .orImm _ _ _ | .xorImm _ _ _ | .mulImm _ _ _ => true
  | .shlImm _ _ i | .shrImm _ _ i | .sarImm _ _ i => decide (i.toNat ≤ 63)
  | .cmpSignedImm _ c _ _ | .cmpUnsignedImm _ c _ _ => decide (c.toNat ≤ 5)
  | .fadd _ _ _ _ | .fsub _ _ _ _ | .fmul _ _ _ _ | .fma _ _ _ _ | .fnma _ _ _ _ | .fmin _ _ _ _ | .fmax _ _ _ _
  | .fabs _ _ _ | .fneg _ _ _ | .fcmp _ _ _ _ _ | .fclass _ _ _ | .fsel _ _ _ _ | .frnd _ _ _ | .fpack _ _ _
  | .funpack _ _ _ | .fscale _ _ _ _ | .fexp _ _ _ | .fdot4 _ _ _ _ => true
  | .fcvt _ _ df sf => fcvtPairOk df sf
  | .fdot2 _ _ _ m => m != 0
  | .rcp _ _ _ _ _ | .rsq _ _ _ _ _ | .sqrt _ _ _ _ _ | .div _ _ _ _ _ | .exp2 _ _ _ _ _ | .log2 _ _ _ _ _
  | .sin _ _ _ _ _ | .cos _ _ _ _ _ | .tanh _ _ _ _ _ => true
  | .mred _ _ _ m | .cred _ _ m => m != 3
  | .mscan _ _ _ | .shfl _ _ _ _ => true
  | .bcast _ _ m => decide (m.toNat ≤ 1)
  | .pdef d _ => decide (d.toNat ≤ 7)
  | .pace _ a _ _ => decide (a.toNat ≤ 59)
  | .ldl d _ _ _ m | .stl d _ _ _ m | .lds d _ _ _ m | .sts d _ _ _ m | .ldc d _ _ _ m | .stc d _ _ _ m
  | .ldk d _ _ _ m | .stk d _ _ _ m | .ld d _ _ _ m | .st d _ _ _ m => m == 0 || d != 63
  | .spres _ _ _ => true
  | .atomsAdd _ _ _ _ _ | .atomsMin _ _ _ _ _ | .atomsMax _ _ _ _ _ | .atomsAnd _ _ _ _ _ | .atomsOr _ _ _ _ _
  | .atomsXor _ _ _ _ _ | .atomsXchg _ _ _ _ _ => true
  | .atomsCas d _ _ _ _ | .atomCas d _ _ _ _ => d != 63
  | .pf _ _ | .red _ _ _ _ _ | .cwb _ _ | .hflush _ _ | .hinval _ _ => true
  | .cinval _ _ m => decide (m.toNat ≤ 1)
  | .atomAdd _ _ _ _ _ | .atomMin _ _ _ _ _ | .atomMax _ _ _ _ _ | .atomAnd _ _ _ _ _ | .atomOr _ _ _ _ _
  | .atomXor _ _ _ _ _ | .atomXchg _ _ _ _ _ | .hrel _ _ _ _ => true
  | .mmaD _ _ _ _ _ m | .mmaS _ _ _ _ _ m => m == 0
  | .mmaBf _ _ _ _ _ _ | .mmaH _ _ _ _ _ _ | .mmaE4 _ _ _ _ _ _ | .mmaE5 _ _ _ _ _ _ | .mmaF4 _ _ _ _ _ _
  | .mmg _ _ _ _ _ _ => true
  | .mres _ a b => a != 63 && decide (b.toNat ≤ 15)
  | .mrel _ h => decide (h.toNat ≤ 15)
  | .mobl _ _ _ _ _ => true
  | .mzero c _ _ m => m == 0 || c != 15
  | .mld d _ _ _ _ | .mst d _ _ _ _ => d &&& 3 == 0
  | .mepi _ a b m => m != 3 && a &&& 3 == 0 && decide (b.toNat ≤ 7)
  | .mcholD _ _ _ | .mluD _ _ _ _ => true
  | .mtrsmD _ _ b _ _ _ => decide (b.toNat ≤ 3)
  | .cpy _ _ _ _ | .cpyq _ _ _ _ | .gat _ _ _ _ => true
  | .stage d _ => decide (d.toNat ≤ 31) || d == 63
  | .vstep a m => m == 0 || (m == 1 && a == 0)
  | .ldv _ _ _ _ | .vbind _ _ _ | .vrel _ _ | .vpub _ _ _ _ => true
  | .vq _ a m => m != 3 && (m != 1 || a == 0)
  | .tex d a _ _ m => a != 63 && (m == 0 || d != 63)
  | .texl d a _ _ m | .texg d a _ _ m => decide (a.toNat ≤ 61) && (m == 0 || d != 63)
  | .rgen _ _ _ m => m != 3
  | .rt _ a _ _ => decide (a.toNat ≤ 58)
  | .rnext _ _ _ _ => true
  | .rhit d a b m => match m.toNat with
    | 0 | 1 => a == 0 && decide (b.toNat ≤ 7)
    | 2 => d == 0
    | _ => false
  | .fmarch d a _ _ => decide (a.toNat ≤ 59) && d != 63
  | .momAcc _ _ _ _ => true
  | .momRes _ _ _ _ m => m == 0
  | .rld d a _ _ _ | .rst d a _ _ _ => d &&& 3 == 0 && a != 63
  | .ratom _ a _ _ _ => a != 63
  | .cntAdd _ _ m => m != 3
  | .cwait _ _ _ _ | .coll _ _ _ _ => true
  | .sfuResultLand _ | .paceJobComplete _ | .matrixGenerationComplete _ | .timeTokenSend | .timeTokenArrival _
  | .timeEcho _ | .echoSilenceTimeout _ | .dieFenceTimeout _ | .guardWrite _ | .guardEffective _
  | .guardTransitionEnd | .leaseExpiry _ _ _ _ | .edgeReconcile _ | .crewActivate _ _ | .schedulerDecision _ _ _
  | .crewNotReadyTimeout _ | .crewResidencyTimeout _ | .binAgeDraw _ | .binIdleDraw _ _ _ | .strayTimeout _
  | .registerScrub _ _ | .dbarDieMessage _ _ _ | .teamSwap _ | .stolenContinuation _ _ | .memoryLoadLand _
  | .memoryWritePerformed _ | .lateFault _ | .handlerTimeout _ | .homeReadRequest _ | .homeOwnershipRequest _
  | .homeWriteArrival _ | .fillArrival _ | .cacheScrub _ | .scratchScrub _ | .copyLineLanding _ _ | .vpubJobRun _
  | .versionReclaim _ _ | .moblComplete _ | .routedTileComplete _ _ | .jobStart _ | .jobComplete _ | .wtLoad _
  | .wtDrop _ | .texComplete _ | .rayEvent _ | .fmarchComplete _ | .ringRecordRead _ | .queueDescriptorWrite _ _
  | .teamAdmit _ | .teamResume _ _ | .gridComplete _ | .cadenceTick _ _ | .cadenceWrite _ | .coreFail _
  | .laneFail _ _ _ | .hbmChannelFail _ _ | .quadFail _ | .faultRecordFree _ _ | .flitSend _ _
  | .berWindowEnd _ _ _ _ | .uncorrectableCodeword _ _ _ | .trainingWindowEnd _ _ _ _ | .retrainTimeout _ _ _
  | .remoteRequestArrival _ | .remoteAck _ _ | .linkTimeout _ | .counterAddArrival _ | .cwaitTimeout _
  | .collMessageArrival _ | .collWaitTimeout _ _ | .chunkComplete _ _ | .pageInval _ _ _ | .poolSet _ _ _
  | .route _ _ _ | .spareCore _ _ _ | .chanRemap _ _ | .release _ _ | .serviceCommandLost | .praAnswer _
  | .hostMailboxWrite _ _ | .hostApertureAccess _ _ _ | .mailboxMapWrite _ _ | .powerOnReset _ | .attestRequest _
  | .attestReportDone | .ethTailWrite _ _ _ | .ethTxFrame _ | .ethRxFrame _ _ _ | .serviceCounterWrite _ _
  | .registerWrite _ _ | .serviceCommandComplete | .backInvalidateAnswer _ | .snapshotCopyComplete _ _ => false

end Sys2Proof
end

