-- ==== Sys2Proof/Decode.lean ====
section
/-! DEFINITION. From words to instructions (spec/02_instruction_words.md): the fields of a word (R29, R31), the opcode map
(R60), the encoder, which modifier words each instruction takes (R48-R53 and the entries), and the four steps of
checks on a tied group (R44). Decoding is total; what it refuses it refuses by name. -/
namespace Sys2Proof

/-- Why a group is refused (R44). -/
inductive DecodeError where
  /-- ILLEGAL_OP. -/
  | illegalOp
  /-- ILLEGAL_PREFIX. -/
  | illegalPrefix
  /-- ILLEGAL_TIE. -/
  | illegalTie
  deriving DecidableEq, Repr

/-- A field of a word: `len` bits from bit `lo`. -/
abbrev bits (w : W32) (lo len : Nat) : BitVec len := w.extractLsb' lo len

/-- T, H and OP of a word (R29). -/
def wordT (w : W32) : Bool := w.getLsbD 31
def wordH (w : W32) : Nat := (bits w 29 2).toNat
def wordOp (w : W32) : Nat := (bits w 20 9).toNat

/-- A modifier word has format X with OP 0x030 (R47). -/
def isModifierOp (op : Nat) : Bool := op == 0x030

/-- An instruction where its reserved bits are zero. -/
def when (ok : Bool) (i : Instr) : Option Instr := if ok then some i else none

/-- The opcode map (R60): the instruction of a word whose reserved bits are zero. -/
def decodeOp (w : W32) : Option Instr :=
  match wordOp w with
  | 0x000 => when (bits w 0 20 == 0#20) .nop
  | 0x001 => when (bits w 16 4 == 0#4) (.br (bits w 0 16))
  | 0x002 => some (.bp (bits w 17 3) (bits w 16 1) (bits w 0 16))
  | 0x003 => when (bits w 14 6 == 0#6 && bits w 0 8 == 0#8) (.bx (bits w 8 6))
  | 0x004 => when (bits w 16 4 == 0#4) (.call (bits w 0 16))
  | 0x005 => when (bits w 0 20 == 0#20) .ret
  | 0x006 => when (bits w 0 20 == 0#20) .reform
  | 0x007 => when (bits w 0 20 == 0#20) .exit
  | 0x008 => some (.sbwait (bits w 14 6) (bits w 0 14))
  | 0x009 => when (bits w 0 20 == 0#20) .qsync
  | 0x00A => when (bits w 2 6 == 0#6) (.vote (bits w 14 6) (bits w 8 6) (bits w 0 2))
  | 0x00B => when (bits w 2 6 == 0#6) (.ballot (bits w 14 6) (bits w 8 6) (bits w 0 2))
  | 0x010 => when (bits w 0 2 == 0#2) (.spawn (bits w 14 6) (bits w 8 6) (bits w 2 6))
  | 0x011 => when (bits w 0 2 == 0#2) (.spawnn (bits w 14 6) (bits w 8 6) (bits w 2 6))
  | 0x012 => when (bits w 0 8 == 0#8) (.launch (bits w 14 6) (bits w 8 6))
  | 0x013 => when (bits w 0 20 == 0#20) .await
  | 0x014 => when (bits w 0 8 == 0#8) (.awaitp (bits w 14 6) (bits w 8 6))
  | 0x015 => some (.bar (bits w 14 6) (bits w 0 14))
  | 0x016 => some (.cbar (bits w 14 6) (bits w 0 14))
  | 0x017 => some (.dbar (bits w 14 6) (bits w 0 14))
  | 0x018 => some (.cvdecl (bits w 14 6) (bits w 8 6) (bits w 0 8))
  | 0x019 => when (bits w 0 14 == 0#14) (.sign (bits w 14 6))
  | 0x020 => when (bits w 14 6 == 0#6) (.trap (bits w 0 14))
  | 0x021 => when (bits w 0 20 == 0#20) .rtt
  | 0x022 => when (bits w 14 6 == 0#6) (.brk (bits w 0 14))
  | 0x030 => match (bits w 16 4).toNat with
    | 1 => some (.blk (bits w 0 16))
    | 2 => some (.ext (bits w 0 16))
    | 3 => some (.grd (bits w 0 16))
    | 4 => some (.ver (bits w 0 16))
    | 5 => some (.fmt (bits w 0 16))
    | _ => none
  | 0x040 => when (bits w 2 6 == 0#6) (.mov (bits w 14 6) (bits w 8 6) (bits w 0 2))
  | 0x041 => some (.movi (bits w 14 6) (bits w 0 14))
  | 0x042 => some (.movh (bits w 14 6) (bits w 0 14))
  | 0x043 => some (.vwset (bits w 14 6) (bits w 8 6) (bits w 7 1) (bits w 0 7))
  | 0x044 => some (.add (bits w 14 6) (bits w 8 6) (bits w 2 6) (bits w 0 2))
  | 0x045 => some (.sub (bits w 14 6) (bits w 8 6) (bits w 2 6) (bits w 0 2))
  | 0x046 => some (.mul (bits w 14 6) (bits w 8 6) (bits w 2 6) (bits w 0 2))
  | 0x047 => some (.mulhSigned (bits w 14 6) (bits w 8 6) (bits w 2 6) (bits w 0 2))
  | 0x048 => some (.mulhUnsigned (bits w 14 6) (bits w 8 6) (bits w 2 6) (bits w 0 2))
  | 0x049 => some (.mad (bits w 14 6) (bits w 8 6) (bits w 2 6) (bits w 0 2))
  | 0x04A => some (.addc (bits w 14 6) (bits w 8 6) (bits w 2 6) (bits w 0 2))
  | 0x04B => some (.subb (bits w 14 6) (bits w 8 6) (bits w 2 6) (bits w 0 2))
  | 0x04C => some (.and (bits w 14 6) (bits w 8 6) (bits w 2 6) (bits w 0 2))
  | 0x04D => some (.or (bits w 14 6) (bits w 8 6) (bits w 2 6) (bits w 0 2))
  | 0x04E => some (.xor (bits w 14 6) (bits w 8 6) (bits w 2 6) (bits w 0 2))
  | 0x04F => some (.andn (bits w 14 6) (bits w 8 6) (bits w 2 6) (bits w 0 2))
  | 0x050 => when (bits w 2 6 == 0#6) (.not (bits w 14 6) (bits w 8 6) (bits w 0 2))
  | 0x051 => some (.shl (bits w 14 6) (bits w 8 6) (bits w 2 6) (bits w 0 2))
  | 0x052 => some (.shr (bits w 14 6) (bits w 8 6) (bits w 2 6) (bits w 0 2))
  | 0x053 => some (.sar (bits w 14 6) (bits w 8 6) (bits w 2 6) (bits w 0 2))
  | 0x054 => some (.rol (bits w 14 6) (bits w 8 6) (bits w 2 6) (bits w 0 2))
  | 0x055 => some (.minSigned (bits w 14 6) (bits w 8 6) (bits w 2 6) (bits w 0 2))
  | 0x056 => some (.minUnsigned (bits w 14 6) (bits w 8 6) (bits w 2 6) (bits w 0 2))
  | 0x057 => some (.maxSigned (bits w 14 6) (bits w 8 6) (bits w 2 6) (bits w 0 2))
  | 0x058 => some (.maxUnsigned (bits w 14 6) (bits w 8 6) (bits w 2 6) (bits w 0 2))
  | 0x059 => when (bits w 2 6 == 0#6) (.abs (bits w 14 6) (bits w 8 6) (bits w 0 2))
  | 0x05A => when (bits w 2 6 == 0#6) (.neg (bits w 14 6) (bits w 8 6) (bits w 0 2))
  | 0x05B => some (.cmpSigned (bits w 17 3) (bits w 14 3) (bits w 8 6) (bits w 2 6) (bits w 0 2))
  | 0x05C => some (.cmpUnsigned (bits w 17 3) (bits w 14 3) (bits w 8 6) (bits w 2 6) (bits w 0 2))
  | 0x05D => some (.sel (bits w 14 6) (bits w 8 6) (bits w 2 6) (bits w 0 2))
  | 0x05E => when (bits w 2 6 == 0#6) (.popc (bits w 14 6) (bits w 8 6) (bits w 0 2))
  | 0x05F => when (bits w 2 6 == 0#6) (.clz (bits w 14 6) (bits w 8 6) (bits w 0 2))
  | 0x060 => when (bits w 2 6 == 0#6) (.ctz (bits w 14 6) (bits w 8 6) (bits w 0 2))
  | 0x061 => when (bits w 2 6 == 0#6) (.brev (bits w 14 6) (bits w 8 6) (bits w 0 2))
  | 0x062 => some (.bfxSigned (bits w 14 6) (bits w 8 6) (bits w 2 6) (bits w 0 2))
  | 0x063 => some (.bfxUnsigned (bits w 14 6) (bits w 8 6) (bits w 2 6) (bits w 0 2))
  | 0x064 => some (.bfi (bits w 14 6) (bits w 8 6) (bits w 2 6) (bits w 0 2))
  | 0x065 => some (.lea (bits w 14 6) (bits w 8 6) (bits w 2 6) (bits w 0 2))
  | 0x066 => when (bits w 17 3 == 0#3 && bits w 11 2 == 0#2 && bits w 5 2 == 0#2 && bits w 0 2 == 0#2) (.pand (bits w 14 3) (bits w 13 1) (bits w 8 3) (bits w 7 1) (bits w 2 3))
  | 0x067 => when (bits w 17 3 == 0#3 && bits w 11 2 == 0#2 && bits w 5 2 == 0#2 && bits w 0 2 == 0#2) (.por (bits w 14 3) (bits w 13 1) (bits w 8 3) (bits w 7 1) (bits w 2 3))
  | 0x068 => when (bits w 17 3 == 0#3 && bits w 11 2 == 0#2 && bits w 5 2 == 0#2 && bits w 0 2 == 0#2) (.pxor (bits w 14 3) (bits w 13 1) (bits w 8 3) (bits w 7 1) (bits w 2 3))
  | 0x069 => when (bits w 0 2 == 0#2) (.pmov (bits w 14 6) (bits w 8 6) (bits w 2 6))
  | 0x06A => some (.csrR (bits w 14 6) (bits w 0 14))
  | 0x06B => some (.csrW (bits w 14 6) (bits w 0 14))
  | 0x070 => some (.addImm (bits w 14 6) (bits w 8 6) (bits w 0 8))
  | 0x071 => some (.andImm (bits w 14 6) (bits w 8 6) (bits w 0 8))
  | 0x072 => some (.orImm (bits w 14 6) (bits w 8 6) (bits w 0 8))
  | 0x073 => some (.xorImm (bits w 14 6) (bits w 8 6) (bits w 0 8))
  | 0x074 => some (.shlImm (bits w 14 6) (bits w 8 6) (bits w 0 8))
  | 0x075 => some (.shrImm (bits w 14 6) (bits w 8 6) (bits w 0 8))
  | 0x076 => some (.sarImm (bits w 14 6) (bits w 8 6) (bits w 0 8))
  | 0x077 => some (.mulImm (bits w 14 6) (bits w 8 6) (bits w 0 8))
  | 0x078 => some (.cmpSignedImm (bits w 17 3) (bits w 14 3) (bits w 8 6) (bits w 0 8))
  | 0x079 => some (.cmpUnsignedImm (bits w 17 3) (bits w 14 3) (bits w 8 6) (bits w 0 8))
  | 0x080 => some (.fadd (bits w 14 6) (bits w 8 6) (bits w 2 6) (bits w 0 2))
  | 0x081 => some (.fsub (bits w 14 6) (bits w 8 6) (bits w 2 6) (bits w 0 2))
  | 0x082 => some (.fmul (bits w 14 6) (bits w 8 6) (bits w 2 6) (bits w 0 2))
  | 0x083 => some (.fma (bits w 14 6) (bits w 8 6) (bits w 2 6) (bits w 0 2))
  | 0x084 => some (.fnma (bits w 14 6) (bits w 8 6) (bits w 2 6) (bits w 0 2))
  | 0x085 => some (.fmin (bits w 14 6) (bits w 8 6) (bits w 2 6) (bits w 0 2))
  | 0x086 => some (.fmax (bits w 14 6) (bits w 8 6) (bits w 2 6) (bits w 0 2))
  | 0x087 => when (bits w 2 6 == 0#6) (.fabs (bits w 14 6) (bits w 8 6) (bits w 0 2))
  | 0x088 => when (bits w 2 6 == 0#6) (.fneg (bits w 14 6) (bits w 8 6) (bits w 0 2))
  | 0x089 => some (.fcmp (bits w 17 3) (bits w 14 3) (bits w 8 6) (bits w 2 6) (bits w 0 2))
  | 0x08A => when (bits w 2 6 == 0#6) (.fclass (bits w 14 6) (bits w 8 6) (bits w 0 2))
  | 0x08B => some (.fsel (bits w 14 6) (bits w 8 6) (bits w 2 6) (bits w 0 2))
  | 0x08C => when (bits w 2 6 == 0#6) (.frnd (bits w 14 6) (bits w 8 6) (bits w 0 2))
  | 0x08D => some (.fcvt (bits w 14 6) (bits w 8 6) (bits w 4 4) (bits w 0 4))
  | 0x08E => when (bits w 0 2 == 0#2) (.fpack (bits w 14 6) (bits w 8 6) (bits w 2 6))
  | 0x08F => when (bits w 3 5 == 0#5 && bits w 0 2 == 0#2) (.funpack (bits w 14 6) (bits w 8 6) (bits w 2 1))
  | 0x090 => some (.fscale (bits w 14 6) (bits w 8 6) (bits w 2 6) (bits w 0 2))
  | 0x091 => when (bits w 2 6 == 0#6) (.fexp (bits w 14 6) (bits w 8 6) (bits w 0 2))
  | 0x092 => some (.fdot2 (bits w 14 6) (bits w 8 6) (bits w 2 6) (bits w 0 2))
  | 0x093 => some (.fdot4 (bits w 14 6) (bits w 8 6) (bits w 2 6) (bits w 0 2))
  | 0x100 => some (.rcp (bits w 14 6) (bits w 8 6) (bits w 4 4) (bits w 1 3) (bits w 0 1))
  | 0x101 => some (.rsq (bits w 14 6) (bits w 8 6) (bits w 4 4) (bits w 1 3) (bits w 0 1))
  | 0x102 => some (.sqrt (bits w 14 6) (bits w 8 6) (bits w 4 4) (bits w 1 3) (bits w 0 1))
  | 0x103 => some (.div (bits w 14 6) (bits w 8 6) (bits w 4 4) (bits w 1 3) (bits w 0 1))
  | 0x104 => some (.exp2 (bits w 14 6) (bits w 8 6) (bits w 4 4) (bits w 1 3) (bits w 0 1))
  | 0x105 => some (.log2 (bits w 14 6) (bits w 8 6) (bits w 4 4) (bits w 1 3) (bits w 0 1))
  | 0x106 => some (.sin (bits w 14 6) (bits w 8 6) (bits w 4 4) (bits w 1 3) (bits w 0 1))
  | 0x107 => some (.cos (bits w 14 6) (bits w 8 6) (bits w 4 4) (bits w 1 3) (bits w 0 1))
  | 0x108 => some (.tanh (bits w 14 6) (bits w 8 6) (bits w 4 4) (bits w 1 3) (bits w 0 1))
  | 0x110 => some (.mred (bits w 14 6) (bits w 8 6) (bits w 2 6) (bits w 0 2))
  | 0x111 => when (bits w 2 6 == 0#6) (.mscan (bits w 14 6) (bits w 8 6) (bits w 0 2))
  | 0x112 => some (.shfl (bits w 14 6) (bits w 8 6) (bits w 2 6) (bits w 0 2))
  | 0x113 => when (bits w 2 6 == 0#6) (.bcast (bits w 14 6) (bits w 8 6) (bits w 0 2))
  | 0x114 => when (bits w 2 6 == 0#6) (.cred (bits w 14 6) (bits w 8 6) (bits w 0 2))
  | 0x120 => when (bits w 0 8 == 0#8) (.pdef (bits w 14 6) (bits w 8 6))
  | 0x121 => when (bits w 0 1 == 0#1) (.pace (bits w 14 6) (bits w 8 6) (bits w 4 4) (bits w 1 3))
  | 0x140 => some (.ldl (bits w 14 6) (bits w 8 6) (bits w 4 4) (bits w 1 3) (bits w 0 1))
  | 0x141 => some (.stl (bits w 14 6) (bits w 8 6) (bits w 4 4) (bits w 1 3) (bits w 0 1))
  | 0x142 => some (.lds (bits w 14 6) (bits w 8 6) (bits w 4 4) (bits w 1 3) (bits w 0 1))
  | 0x143 => some (.sts (bits w 14 6) (bits w 8 6) (bits w 4 4) (bits w 1 3) (bits w 0 1))
  | 0x144 => some (.ldc (bits w 14 6) (bits w 8 6) (bits w 4 4) (bits w 1 3) (bits w 0 1))
  | 0x145 => some (.stc (bits w 14 6) (bits w 8 6) (bits w 4 4) (bits w 1 3) (bits w 0 1))
  | 0x146 => some (.ldk (bits w 14 6) (bits w 8 6) (bits w 4 4) (bits w 1 3) (bits w 0 1))
  | 0x147 => some (.stk (bits w 14 6) (bits w 8 6) (bits w 4 4) (bits w 1 3) (bits w 0 1))
  | 0x148 => when (bits w 15 5 == 0#5) (.spres (bits w 14 1) (bits w 8 6) (bits w 0 8))
  | 0x149 => when (bits w 0 20 == 0#20) .swf
  | 0x150 => some (.atomsAdd (bits w 14 6) (bits w 8 6) (bits w 4 4) (bits w 1 3) (bits w 0 1))
  | 0x151 => some (.atomsMin (bits w 14 6) (bits w 8 6) (bits w 4 4) (bits w 1 3) (bits w 0 1))
  | 0x152 => some (.atomsMax (bits w 14 6) (bits w 8 6) (bits w 4 4) (bits w 1 3) (bits w 0 1))
  | 0x153 => some (.atomsAnd (bits w 14 6) (bits w 8 6) (bits w 4 4) (bits w 1 3) (bits w 0 1))
  | 0x154 => some (.atomsOr (bits w 14 6) (bits w 8 6) (bits w 4 4) (bits w 1 3) (bits w 0 1))
  | 0x155 => some (.atomsXor (bits w 14 6) (bits w 8 6) (bits w 4 4) (bits w 1 3) (bits w 0 1))
  | 0x156 => some (.atomsXchg (bits w 14 6) (bits w 8 6) (bits w 4 4) (bits w 1 3) (bits w 0 1))
  | 0x157 => some (.atomsCas (bits w 14 6) (bits w 8 6) (bits w 4 4) (bits w 1 3) (bits w 0 1))
  | 0x158 => some (.ld (bits w 14 6) (bits w 8 6) (bits w 4 4) (bits w 1 3) (bits w 0 1))
  | 0x159 => some (.st (bits w 14 6) (bits w 8 6) (bits w 4 4) (bits w 1 3) (bits w 0 1))
  | 0x15A => when (bits w 14 6 == 0#6 && bits w 1 7 == 0#7) (.pf (bits w 8 6) (bits w 0 1))
  | 0x15B => some (.red (bits w 14 6) (bits w 8 6) (bits w 4 4) (bits w 1 3) (bits w 0 1))
  | 0x15C => when (bits w 14 6 == 0#6) (.cinval (bits w 8 6) (bits w 2 6) (bits w 0 2))
  | 0x15D => when (bits w 14 6 == 0#6 && bits w 0 2 == 0#2) (.cwb (bits w 8 6) (bits w 2 6))
  | 0x15E => when (bits w 14 6 == 0#6 && bits w 0 2 == 0#2) (.hflush (bits w 8 6) (bits w 2 6))
  | 0x15F => when (bits w 14 6 == 0#6 && bits w 0 2 == 0#2) (.hinval (bits w 8 6) (bits w 2 6))
  | 0x160 => some (.atomAdd (bits w 14 6) (bits w 8 6) (bits w 4 4) (bits w 1 3) (bits w 0 1))
  | 0x161 => some (.atomMin (bits w 14 6) (bits w 8 6) (bits w 4 4) (bits w 1 3) (bits w 0 1))
  | 0x162 => some (.atomMax (bits w 14 6) (bits w 8 6) (bits w 4 4) (bits w 1 3) (bits w 0 1))
  | 0x163 => some (.atomAnd (bits w 14 6) (bits w 8 6) (bits w 4 4) (bits w 1 3) (bits w 0 1))
  | 0x164 => some (.atomOr (bits w 14 6) (bits w 8 6) (bits w 4 4) (bits w 1 3) (bits w 0 1))
  | 0x165 => some (.atomXor (bits w 14 6) (bits w 8 6) (bits w 4 4) (bits w 1 3) (bits w 0 1))
  | 0x166 => some (.atomXchg (bits w 14 6) (bits w 8 6) (bits w 4 4) (bits w 1 3) (bits w 0 1))
  | 0x167 => some (.atomCas (bits w 14 6) (bits w 8 6) (bits w 4 4) (bits w 1 3) (bits w 0 1))
  | 0x168 => when (bits w 0 1 == 0#1) (.hrel (bits w 14 6) (bits w 8 6) (bits w 4 4) (bits w 1 3))
  | 0x180 => some (.mmaD (bits w 16 4) (bits w 12 4) (bits w 8 4) (bits w 4 4) (bits w 1 3) (bits w 0 1))
  | 0x181 => some (.mmaS (bits w 16 4) (bits w 12 4) (bits w 8 4) (bits w 4 4) (bits w 1 3) (bits w 0 1))
  | 0x182 => some (.mmaBf (bits w 16 4) (bits w 12 4) (bits w 8 4) (bits w 4 4) (bits w 1 3) (bits w 0 1))
  | 0x183 => some (.mmaH (bits w 16 4) (bits w 12 4) (bits w 8 4) (bits w 4 4) (bits w 1 3) (bits w 0 1))
  | 0x184 => some (.mmaE4 (bits w 16 4) (bits w 12 4) (bits w 8 4) (bits w 4 4) (bits w 1 3) (bits w 0 1))
  | 0x185 => some (.mmaE5 (bits w 16 4) (bits w 12 4) (bits w 8 4) (bits w 4 4) (bits w 1 3) (bits w 0 1))
  | 0x186 => some (.mmaF4 (bits w 16 4) (bits w 12 4) (bits w 8 4) (bits w 4 4) (bits w 1 3) (bits w 0 1))
  | 0x187 => some (.mmg (bits w 16 4) (bits w 12 4) (bits w 8 4) (bits w 4 4) (bits w 1 3) (bits w 0 1))
  | 0x188 => when (bits w 0 2 == 0#2) (.mres (bits w 14 6) (bits w 8 6) (bits w 2 6))
  | 0x189 => when (bits w 8 6 == 0#6) (.mrel (bits w 14 6) (bits w 0 8))
  | 0x18A => some (.mobl (bits w 14 6) (bits w 8 6) (bits w 4 4) (bits w 1 3) (bits w 0 1))
  | 0x18B => when (bits w 8 8 == 0#8) (.mzero (bits w 16 4) (bits w 4 4) (bits w 1 3) (bits w 0 1))
  | 0x18C => some (.mld (bits w 14 6) (bits w 8 6) (bits w 4 4) (bits w 1 3) (bits w 0 1))
  | 0x18D => some (.mst (bits w 14 6) (bits w 8 6) (bits w 4 4) (bits w 1 3) (bits w 0 1))
  | 0x18E => some (.mepi (bits w 14 6) (bits w 8 6) (bits w 2 6) (bits w 0 2))
  | 0x190 => when (bits w 8 8 == 0#8 && bits w 0 1 == 0#1) (.mcholD (bits w 16 4) (bits w 4 4) (bits w 1 3))
  | 0x191 => when (bits w 8 4 == 0#4 && bits w 0 1 == 0#1) (.mluD (bits w 16 4) (bits w 12 4) (bits w 4 4) (bits w 1 3))
  | 0x192 => some (.mtrsmD (bits w 16 4) (bits w 12 4) (bits w 8 4) (bits w 4 4) (bits w 1 3) (bits w 0 1))
  | 0x1C0 => when (bits w 0 1 == 0#1) (.cpy (bits w 14 6) (bits w 8 6) (bits w 4 4) (bits w 1 3))
  | 0x1C1 => some (.stage (bits w 14 6) (bits w 0 14))
  | 0x1C2 => when (bits w 0 1 == 0#1) (.cpyq (bits w 14 6) (bits w 8 6) (bits w 4 4) (bits w 1 3))
  | 0x1C3 => when (bits w 0 1 == 0#1) (.gat (bits w 14 6) (bits w 8 6) (bits w 4 4) (bits w 1 3))
  | 0x1C8 => when (bits w 14 6 == 0#6 && bits w 2 6 == 0#6) (.vstep (bits w 8 6) (bits w 0 2))
  | 0x1C9 => when (bits w 0 1 == 0#1) (.ldv (bits w 14 6) (bits w 8 6) (bits w 4 4) (bits w 1 3))
  | 0x1CA => when (bits w 0 2 == 0#2) (.vbind (bits w 14 6) (bits w 8 6) (bits w 2 6))
  | 0x1CB => when (bits w 0 8 == 0#8) (.vrel (bits w 14 6) (bits w 8 6))
  | 0x1CC => when (bits w 0 1 == 0#1) (.vpub (bits w 14 6) (bits w 8 6) (bits w 4 4) (bits w 1 3))
  | 0x1CD => when (bits w 2 6 == 0#6) (.vq (bits w 14 6) (bits w 8 6) (bits w 0 2))
  | 0x1E0 => some (.tex (bits w 14 6) (bits w 8 6) (bits w 4 4) (bits w 1 3) (bits w 0 1))
  | 0x1E1 => some (.texl (bits w 14 6) (bits w 8 6) (bits w 4 4) (bits w 1 3) (bits w 0 1))
  | 0x1E2 => some (.texg (bits w 14 6) (bits w 8 6) (bits w 4 4) (bits w 1 3) (bits w 0 1))
  | 0x1E3 => some (.rgen (bits w 14 6) (bits w 8 6) (bits w 2 6) (bits w 0 2))
  | 0x1E4 => when (bits w 0 1 == 0#1) (.rt (bits w 14 6) (bits w 8 6) (bits w 4 4) (bits w 1 3))
  | 0x1E5 => when (bits w 0 1 == 0#1) (.rnext (bits w 14 6) (bits w 8 6) (bits w 4 4) (bits w 1 3))
  | 0x1E6 => some (.rhit (bits w 14 6) (bits w 8 6) (bits w 2 6) (bits w 0 2))
  | 0x1E7 => when (bits w 0 1 == 0#1) (.fmarch (bits w 14 6) (bits w 8 6) (bits w 4 4) (bits w 1 3))
  | 0x1E8 => when (bits w 0 1 == 0#1) (.momAcc (bits w 14 6) (bits w 8 6) (bits w 4 4) (bits w 1 3))
  | 0x1E9 => some (.momRes (bits w 14 6) (bits w 8 6) (bits w 4 4) (bits w 1 3) (bits w 0 1))
  | 0x1F0 => some (.rld (bits w 14 6) (bits w 8 6) (bits w 4 4) (bits w 1 3) (bits w 0 1))
  | 0x1F1 => some (.rst (bits w 14 6) (bits w 8 6) (bits w 4 4) (bits w 1 3) (bits w 0 1))
  | 0x1F2 => some (.ratom (bits w 14 6) (bits w 8 6) (bits w 4 4) (bits w 1 3) (bits w 0 1))
  | 0x1F3 => when (bits w 14 6 == 0#6) (.cntAdd (bits w 8 6) (bits w 2 6) (bits w 0 2))
  | 0x1F4 => when (bits w 0 1 == 0#1) (.cwait (bits w 14 6) (bits w 8 6) (bits w 4 4) (bits w 1 3))
  | 0x1F5 => when (bits w 0 1 == 0#1) (.coll (bits w 14 6) (bits w 8 6) (bits w 4 4) (bits w 1 3))
  | _ => none

/-- Decoding of one word, step 1 of R44: an unassigned OP, a nonzero reserved bit, a field value its entry
refuses, or a hint in a modifier word (R58) is ILLEGAL_OP. -/
def decodeWord (w : W32) : Except DecodeError Instr :=
  match decodeOp w with
  | some i => if i.wf && (!(isModifierOp (wordOp w)) || wordH w == 0) then .ok i else .error .illegalOp
  | none => .error .illegalOp

/-- Bits [28:0] of the word of an instruction (R29, R31, R60); an event has none. -/
def encodeBody : Instr → Option (BitVec 29)
  | .nop => some (0#9 ++ 0#20)
  | .br x0 => some (1#9 ++ 0#4 ++ x0)
  | .bp x17 x16 x0 => some (2#9 ++ x17 ++ x16 ++ x0)
  | .bx x8 => some (3#9 ++ 0#6 ++ x8 ++ 0#8)
  | .call x0 => some (4#9 ++ 0#4 ++ x0)
  | .ret => some (5#9 ++ 0#20)
  | .reform => some (6#9 ++ 0#20)
  | .exit => some (7#9 ++ 0#20)
  | .sbwait x14 x0 => some (8#9 ++ x14 ++ x0)
  | .qsync => some (9#9 ++ 0#20)
  | .vote x14 x8 x0 => some (10#9 ++ x14 ++ x8 ++ 0#6 ++ x0)
  | .ballot x14 x8 x0 => some (11#9 ++ x14 ++ x8 ++ 0#6 ++ x0)
  | .spawn x14 x8 x2 => some (16#9 ++ x14 ++ x8 ++ x2 ++ 0#2)
  | .spawnn x14 x8 x2 => some (17#9 ++ x14 ++ x8 ++ x2 ++ 0#2)
  | .launch x14 x8 => some (18#9 ++ x14 ++ x8 ++ 0#8)
  | .await => some (19#9 ++ 0#20)
  | .awaitp x14 x8 => some (20#9 ++ x14 ++ x8 ++ 0#8)
  | .bar x14 x0 => some (21#9 ++ x14 ++ x0)
  | .cbar x14 x0 => some (22#9 ++ x14 ++ x0)
  | .dbar x14 x0 => some (23#9 ++ x14 ++ x0)
  | .cvdecl x14 x8 x0 => some (24#9 ++ x14 ++ x8 ++ x0)
  | .sign x14 => some (25#9 ++ x14 ++ 0#14)
  | .trap x0 => some (32#9 ++ 0#6 ++ x0)
  | .rtt => some (33#9 ++ 0#20)
  | .brk x0 => some (34#9 ++ 0#6 ++ x0)
  | .blk x0 => some (48#9 ++ 1#4 ++ x0)
  | .ext x0 => some (48#9 ++ 2#4 ++ x0)
  | .grd x0 => some (48#9 ++ 3#4 ++ x0)
  | .ver x0 => some (48#9 ++ 4#4 ++ x0)
  | .fmt x0 => some (48#9 ++ 5#4 ++ x0)
  | .mov x14 x8 x0 => some (64#9 ++ x14 ++ x8 ++ 0#6 ++ x0)
  | .movi x14 x0 => some (65#9 ++ x14 ++ x0)
  | .movh x14 x0 => some (66#9 ++ x14 ++ x0)
  | .vwset x14 x8 x7 x0 => some (67#9 ++ x14 ++ x8 ++ x7 ++ x0)
  | .add x14 x8 x2 x0 => some (68#9 ++ x14 ++ x8 ++ x2 ++ x0)
  | .sub x14 x8 x2 x0 => some (69#9 ++ x14 ++ x8 ++ x2 ++ x0)
  | .mul x14 x8 x2 x0 => some (70#9 ++ x14 ++ x8 ++ x2 ++ x0)
  | .mulhSigned x14 x8 x2 x0 => some (71#9 ++ x14 ++ x8 ++ x2 ++ x0)
  | .mulhUnsigned x14 x8 x2 x0 => some (72#9 ++ x14 ++ x8 ++ x2 ++ x0)
  | .mad x14 x8 x2 x0 => some (73#9 ++ x14 ++ x8 ++ x2 ++ x0)
  | .addc x14 x8 x2 x0 => some (74#9 ++ x14 ++ x8 ++ x2 ++ x0)
  | .subb x14 x8 x2 x0 => some (75#9 ++ x14 ++ x8 ++ x2 ++ x0)
  | .and x14 x8 x2 x0 => some (76#9 ++ x14 ++ x8 ++ x2 ++ x0)
  | .or x14 x8 x2 x0 => some (77#9 ++ x14 ++ x8 ++ x2 ++ x0)
  | .xor x14 x8 x2 x0 => some (78#9 ++ x14 ++ x8 ++ x2 ++ x0)
  | .andn x14 x8 x2 x0 => some (79#9 ++ x14 ++ x8 ++ x2 ++ x0)
  | .not x14 x8 x0 => some (80#9 ++ x14 ++ x8 ++ 0#6 ++ x0)
  | .shl x14 x8 x2 x0 => some (81#9 ++ x14 ++ x8 ++ x2 ++ x0)
  | .shr x14 x8 x2 x0 => some (82#9 ++ x14 ++ x8 ++ x2 ++ x0)
  | .sar x14 x8 x2 x0 => some (83#9 ++ x14 ++ x8 ++ x2 ++ x0)
  | .rol x14 x8 x2 x0 => some (84#9 ++ x14 ++ x8 ++ x2 ++ x0)
  | .minSigned x14 x8 x2 x0 => some (85#9 ++ x14 ++ x8 ++ x2 ++ x0)
  | .minUnsigned x14 x8 x2 x0 => some (86#9 ++ x14 ++ x8 ++ x2 ++ x0)
  | .maxSigned x14 x8 x2 x0 => some (87#9 ++ x14 ++ x8 ++ x2 ++ x0)
  | .maxUnsigned x14 x8 x2 x0 => some (88#9 ++ x14 ++ x8 ++ x2 ++ x0)
  | .abs x14 x8 x0 => some (89#9 ++ x14 ++ x8 ++ 0#6 ++ x0)
  | .neg x14 x8 x0 => some (90#9 ++ x14 ++ x8 ++ 0#6 ++ x0)
  | .cmpSigned x17 x14 x8 x2 x0 => some (91#9 ++ x17 ++ x14 ++ x8 ++ x2 ++ x0)
  | .cmpUnsigned x17 x14 x8 x2 x0 => some (92#9 ++ x17 ++ x14 ++ x8 ++ x2 ++ x0)
  | .sel x14 x8 x2 x0 => some (93#9 ++ x14 ++ x8 ++ x2 ++ x0)
  | .popc x14 x8 x0 => some (94#9 ++ x14 ++ x8 ++ 0#6 ++ x0)
  | .clz x14 x8 x0 => some (95#9 ++ x14 ++ x8 ++ 0#6 ++ x0)
  | .ctz x14 x8 x0 => some (96#9 ++ x14 ++ x8 ++ 0#6 ++ x0)
  | .brev x14 x8 x0 => some (97#9 ++ x14 ++ x8 ++ 0#6 ++ x0)
  | .bfxSigned x14 x8 x2 x0 => some (98#9 ++ x14 ++ x8 ++ x2 ++ x0)
  | .bfxUnsigned x14 x8 x2 x0 => some (99#9 ++ x14 ++ x8 ++ x2 ++ x0)
  | .bfi x14 x8 x2 x0 => some (100#9 ++ x14 ++ x8 ++ x2 ++ x0)
  | .lea x14 x8 x2 x0 => some (101#9 ++ x14 ++ x8 ++ x2 ++ x0)
  | .pand x14 x13 x8 x7 x2 => some (102#9 ++ 0#3 ++ x14 ++ x13 ++ 0#2 ++ x8 ++ x7 ++ 0#2 ++ x2 ++ 0#2)
  | .por x14 x13 x8 x7 x2 => some (103#9 ++ 0#3 ++ x14 ++ x13 ++ 0#2 ++ x8 ++ x7 ++ 0#2 ++ x2 ++ 0#2)
  | .pxor x14 x13 x8 x7 x2 => some (104#9 ++ 0#3 ++ x14 ++ x13 ++ 0#2 ++ x8 ++ x7 ++ 0#2 ++ x2 ++ 0#2)
  | .pmov x14 x8 x2 => some (105#9 ++ x14 ++ x8 ++ x2 ++ 0#2)
  | .csrR x14 x0 => some (106#9 ++ x14 ++ x0)
  | .csrW x14 x0 => some (107#9 ++ x14 ++ x0)
  | .addImm x14 x8 x0 => some (112#9 ++ x14 ++ x8 ++ x0)
  | .andImm x14 x8 x0 => some (113#9 ++ x14 ++ x8 ++ x0)
  | .orImm x14 x8 x0 => some (114#9 ++ x14 ++ x8 ++ x0)
  | .xorImm x14 x8 x0 => some (115#9 ++ x14 ++ x8 ++ x0)
  | .shlImm x14 x8 x0 => some (116#9 ++ x14 ++ x8 ++ x0)
  | .shrImm x14 x8 x0 => some (117#9 ++ x14 ++ x8 ++ x0)
  | .sarImm x14 x8 x0 => some (118#9 ++ x14 ++ x8 ++ x0)
  | .mulImm x14 x8 x0 => some (119#9 ++ x14 ++ x8 ++ x0)
  | .cmpSignedImm x17 x14 x8 x0 => some (120#9 ++ x17 ++ x14 ++ x8 ++ x0)
  | .cmpUnsignedImm x17 x14 x8 x0 => some (121#9 ++ x17 ++ x14 ++ x8 ++ x0)
  | .fadd x14 x8 x2 x0 => some (128#9 ++ x14 ++ x8 ++ x2 ++ x0)
  | .fsub x14 x8 x2 x0 => some (129#9 ++ x14 ++ x8 ++ x2 ++ x0)
  | .fmul x14 x8 x2 x0 => some (130#9 ++ x14 ++ x8 ++ x2 ++ x0)
  | .fma x14 x8 x2 x0 => some (131#9 ++ x14 ++ x8 ++ x2 ++ x0)
  | .fnma x14 x8 x2 x0 => some (132#9 ++ x14 ++ x8 ++ x2 ++ x0)
  | .fmin x14 x8 x2 x0 => some (133#9 ++ x14 ++ x8 ++ x2 ++ x0)
  | .fmax x14 x8 x2 x0 => some (134#9 ++ x14 ++ x8 ++ x2 ++ x0)
  | .fabs x14 x8 x0 => some (135#9 ++ x14 ++ x8 ++ 0#6 ++ x0)
  | .fneg x14 x8 x0 => some (136#9 ++ x14 ++ x8 ++ 0#6 ++ x0)
  | .fcmp x17 x14 x8 x2 x0 => some (137#9 ++ x17 ++ x14 ++ x8 ++ x2 ++ x0)
  | .fclass x14 x8 x0 => some (138#9 ++ x14 ++ x8 ++ 0#6 ++ x0)
  | .fsel x14 x8 x2 x0 => some (139#9 ++ x14 ++ x8 ++ x2 ++ x0)
  | .frnd x14 x8 x0 => some (140#9 ++ x14 ++ x8 ++ 0#6 ++ x0)
  | .fcvt x14 x8 x4 x0 => some (141#9 ++ x14 ++ x8 ++ x4 ++ x0)
  | .fpack x14 x8 x2 => some (142#9 ++ x14 ++ x8 ++ x2 ++ 0#2)
  | .funpack x14 x8 x2 => some (143#9 ++ x14 ++ x8 ++ 0#5 ++ x2 ++ 0#2)
  | .fscale x14 x8 x2 x0 => some (144#9 ++ x14 ++ x8 ++ x2 ++ x0)
  | .fexp x14 x8 x0 => some (145#9 ++ x14 ++ x8 ++ 0#6 ++ x0)
  | .fdot2 x14 x8 x2 x0 => some (146#9 ++ x14 ++ x8 ++ x2 ++ x0)
  | .fdot4 x14 x8 x2 x0 => some (147#9 ++ x14 ++ x8 ++ x2 ++ x0)
  | .rcp x14 x8 x4 x1 x0 => some (256#9 ++ x14 ++ x8 ++ x4 ++ x1 ++ x0)
  | .rsq x14 x8 x4 x1 x0 => some (257#9 ++ x14 ++ x8 ++ x4 ++ x1 ++ x0)
  | .sqrt x14 x8 x4 x1 x0 => some (258#9 ++ x14 ++ x8 ++ x4 ++ x1 ++ x0)
  | .div x14 x8 x4 x1 x0 => some (259#9 ++ x14 ++ x8 ++ x4 ++ x1 ++ x0)
  | .exp2 x14 x8 x4 x1 x0 => some (260#9 ++ x14 ++ x8 ++ x4 ++ x1 ++ x0)
  | .log2 x14 x8 x4 x1 x0 => some (261#9 ++ x14 ++ x8 ++ x4 ++ x1 ++ x0)
  | .sin x14 x8 x4 x1 x0 => some (262#9 ++ x14 ++ x8 ++ x4 ++ x1 ++ x0)
  | .cos x14 x8 x4 x1 x0 => some (263#9 ++ x14 ++ x8 ++ x4 ++ x1 ++ x0)
  | .tanh x14 x8 x4 x1 x0 => some (264#9 ++ x14 ++ x8 ++ x4 ++ x1 ++ x0)
  | .mred x14 x8 x2 x0 => some (272#9 ++ x14 ++ x8 ++ x2 ++ x0)
  | .mscan x14 x8 x0 => some (273#9 ++ x14 ++ x8 ++ 0#6 ++ x0)
  | .shfl x14 x8 x2 x0 => some (274#9 ++ x14 ++ x8 ++ x2 ++ x0)
  | .bcast x14 x8 x0 => some (275#9 ++ x14 ++ x8 ++ 0#6 ++ x0)
  | .cred x14 x8 x0 => some (276#9 ++ x14 ++ x8 ++ 0#6 ++ x0)
  | .pdef x14 x8 => some (288#9 ++ x14 ++ x8 ++ 0#8)
  | .pace x14 x8 x4 x1 => some (289#9 ++ x14 ++ x8 ++ x4 ++ x1 ++ 0#1)
  | .ldl x14 x8 x4 x1 x0 => some (320#9 ++ x14 ++ x8 ++ x4 ++ x1 ++ x0)
  | .stl x14 x8 x4 x1 x0 => some (321#9 ++ x14 ++ x8 ++ x4 ++ x1 ++ x0)
  | .lds x14 x8 x4 x1 x0 => some (322#9 ++ x14 ++ x8 ++ x4 ++ x1 ++ x0)
  | .sts x14 x8 x4 x1 x0 => some (323#9 ++ x14 ++ x8 ++ x4 ++ x1 ++ x0)
  | .ldc x14 x8 x4 x1 x0 => some (324#9 ++ x14 ++ x8 ++ x4 ++ x1 ++ x0)
  | .stc x14 x8 x4 x1 x0 => some (325#9 ++ x14 ++ x8 ++ x4 ++ x1 ++ x0)
  | .ldk x14 x8 x4 x1 x0 => some (326#9 ++ x14 ++ x8 ++ x4 ++ x1 ++ x0)
  | .stk x14 x8 x4 x1 x0 => some (327#9 ++ x14 ++ x8 ++ x4 ++ x1 ++ x0)
  | .spres x14 x8 x0 => some (328#9 ++ 0#5 ++ x14 ++ x8 ++ x0)
  | .swf => some (329#9 ++ 0#20)
  | .atomsAdd x14 x8 x4 x1 x0 => some (336#9 ++ x14 ++ x8 ++ x4 ++ x1 ++ x0)
  | .atomsMin x14 x8 x4 x1 x0 => some (337#9 ++ x14 ++ x8 ++ x4 ++ x1 ++ x0)
  | .atomsMax x14 x8 x4 x1 x0 => some (338#9 ++ x14 ++ x8 ++ x4 ++ x1 ++ x0)
  | .atomsAnd x14 x8 x4 x1 x0 => some (339#9 ++ x14 ++ x8 ++ x4 ++ x1 ++ x0)
  | .atomsOr x14 x8 x4 x1 x0 => some (340#9 ++ x14 ++ x8 ++ x4 ++ x1 ++ x0)
  | .atomsXor x14 x8 x4 x1 x0 => some (341#9 ++ x14 ++ x8 ++ x4 ++ x1 ++ x0)
  | .atomsXchg x14 x8 x4 x1 x0 => some (342#9 ++ x14 ++ x8 ++ x4 ++ x1 ++ x0)
  | .atomsCas x14 x8 x4 x1 x0 => some (343#9 ++ x14 ++ x8 ++ x4 ++ x1 ++ x0)
  | .ld x14 x8 x4 x1 x0 => some (344#9 ++ x14 ++ x8 ++ x4 ++ x1 ++ x0)
  | .st x14 x8 x4 x1 x0 => some (345#9 ++ x14 ++ x8 ++ x4 ++ x1 ++ x0)
  | .pf x8 x0 => some (346#9 ++ 0#6 ++ x8 ++ 0#7 ++ x0)
  | .red x14 x8 x4 x1 x0 => some (347#9 ++ x14 ++ x8 ++ x4 ++ x1 ++ x0)
  | .cinval x8 x2 x0 => some (348#9 ++ 0#6 ++ x8 ++ x2 ++ x0)
  | .cwb x8 x2 => some (349#9 ++ 0#6 ++ x8 ++ x2 ++ 0#2)
  | .hflush x8 x2 => some (350#9 ++ 0#6 ++ x8 ++ x2 ++ 0#2)
  | .hinval x8 x2 => some (351#9 ++ 0#6 ++ x8 ++ x2 ++ 0#2)
  | .atomAdd x14 x8 x4 x1 x0 => some (352#9 ++ x14 ++ x8 ++ x4 ++ x1 ++ x0)
  | .atomMin x14 x8 x4 x1 x0 => some (353#9 ++ x14 ++ x8 ++ x4 ++ x1 ++ x0)
  | .atomMax x14 x8 x4 x1 x0 => some (354#9 ++ x14 ++ x8 ++ x4 ++ x1 ++ x0)
  | .atomAnd x14 x8 x4 x1 x0 => some (355#9 ++ x14 ++ x8 ++ x4 ++ x1 ++ x0)
  | .atomOr x14 x8 x4 x1 x0 => some (356#9 ++ x14 ++ x8 ++ x4 ++ x1 ++ x0)
  | .atomXor x14 x8 x4 x1 x0 => some (357#9 ++ x14 ++ x8 ++ x4 ++ x1 ++ x0)
  | .atomXchg x14 x8 x4 x1 x0 => some (358#9 ++ x14 ++ x8 ++ x4 ++ x1 ++ x0)
  | .atomCas x14 x8 x4 x1 x0 => some (359#9 ++ x14 ++ x8 ++ x4 ++ x1 ++ x0)
  | .hrel x14 x8 x4 x1 => some (360#9 ++ x14 ++ x8 ++ x4 ++ x1 ++ 0#1)
  | .mmaD x16 x12 x8 x4 x1 x0 => some (384#9 ++ x16 ++ x12 ++ x8 ++ x4 ++ x1 ++ x0)
  | .mmaS x16 x12 x8 x4 x1 x0 => some (385#9 ++ x16 ++ x12 ++ x8 ++ x4 ++ x1 ++ x0)
  | .mmaBf x16 x12 x8 x4 x1 x0 => some (386#9 ++ x16 ++ x12 ++ x8 ++ x4 ++ x1 ++ x0)
  | .mmaH x16 x12 x8 x4 x1 x0 => some (387#9 ++ x16 ++ x12 ++ x8 ++ x4 ++ x1 ++ x0)
  | .mmaE4 x16 x12 x8 x4 x1 x0 => some (388#9 ++ x16 ++ x12 ++ x8 ++ x4 ++ x1 ++ x0)
  | .mmaE5 x16 x12 x8 x4 x1 x0 => some (389#9 ++ x16 ++ x12 ++ x8 ++ x4 ++ x1 ++ x0)
  | .mmaF4 x16 x12 x8 x4 x1 x0 => some (390#9 ++ x16 ++ x12 ++ x8 ++ x4 ++ x1 ++ x0)
  | .mmg x16 x12 x8 x4 x1 x0 => some (391#9 ++ x16 ++ x12 ++ x8 ++ x4 ++ x1 ++ x0)
  | .mres x14 x8 x2 => some (392#9 ++ x14 ++ x8 ++ x2 ++ 0#2)
  | .mrel x14 x0 => some (393#9 ++ x14 ++ 0#6 ++ x0)
  | .mobl x14 x8 x4 x1 x0 => some (394#9 ++ x14 ++ x8 ++ x4 ++ x1 ++ x0)
  | .mzero x16 x4 x1 x0 => some (395#9 ++ x16 ++ 0#8 ++ x4 ++ x1 ++ x0)
  | .mld x14 x8 x4 x1 x0 => some (396#9 ++ x14 ++ x8 ++ x4 ++ x1 ++ x0)
  | .mst x14 x8 x4 x1 x0 => some (397#9 ++ x14 ++ x8 ++ x4 ++ x1 ++ x0)
  | .mepi x14 x8 x2 x0 => some (398#9 ++ x14 ++ x8 ++ x2 ++ x0)
  | .mcholD x16 x4 x1 => some (400#9 ++ x16 ++ 0#8 ++ x4 ++ x1 ++ 0#1)
  | .mluD x16 x12 x4 x1 => some (401#9 ++ x16 ++ x12 ++ 0#4 ++ x4 ++ x1 ++ 0#1)
  | .mtrsmD x16 x12 x8 x4 x1 x0 => some (402#9 ++ x16 ++ x12 ++ x8 ++ x4 ++ x1 ++ x0)
  | .cpy x14 x8 x4 x1 => some (448#9 ++ x14 ++ x8 ++ x4 ++ x1 ++ 0#1)
  | .stage x14 x0 => some (449#9 ++ x14 ++ x0)
  | .cpyq x14 x8 x4 x1 => some (450#9 ++ x14 ++ x8 ++ x4 ++ x1 ++ 0#1)
  | .gat x14 x8 x4 x1 => some (451#9 ++ x14 ++ x8 ++ x4 ++ x1 ++ 0#1)
  | .vstep x8 x0 => some (456#9 ++ 0#6 ++ x8 ++ 0#6 ++ x0)
  | .ldv x14 x8 x4 x1 => some (457#9 ++ x14 ++ x8 ++ x4 ++ x1 ++ 0#1)
  | .vbind x14 x8 x2 => some (458#9 ++ x14 ++ x8 ++ x2 ++ 0#2)
  | .vrel x14 x8 => some (459#9 ++ x14 ++ x8 ++ 0#8)
  | .vpub x14 x8 x4 x1 => some (460#9 ++ x14 ++ x8 ++ x4 ++ x1 ++ 0#1)
  | .vq x14 x8 x0 => some (461#9 ++ x14 ++ x8 ++ 0#6 ++ x0)
  | .tex x14 x8 x4 x1 x0 => some (480#9 ++ x14 ++ x8 ++ x4 ++ x1 ++ x0)
  | .texl x14 x8 x4 x1 x0 => some (481#9 ++ x14 ++ x8 ++ x4 ++ x1 ++ x0)
  | .texg x14 x8 x4 x1 x0 => some (482#9 ++ x14 ++ x8 ++ x4 ++ x1 ++ x0)
  | .rgen x14 x8 x2 x0 => some (483#9 ++ x14 ++ x8 ++ x2 ++ x0)
  | .rt x14 x8 x4 x1 => some (484#9 ++ x14 ++ x8 ++ x4 ++ x1 ++ 0#1)
  | .rnext x14 x8 x4 x1 => some (485#9 ++ x14 ++ x8 ++ x4 ++ x1 ++ 0#1)
  | .rhit x14 x8 x2 x0 => some (486#9 ++ x14 ++ x8 ++ x2 ++ x0)
  | .fmarch x14 x8 x4 x1 => some (487#9 ++ x14 ++ x8 ++ x4 ++ x1 ++ 0#1)
  | .momAcc x14 x8 x4 x1 => some (488#9 ++ x14 ++ x8 ++ x4 ++ x1 ++ 0#1)
  | .momRes x14 x8 x4 x1 x0 => some (489#9 ++ x14 ++ x8 ++ x4 ++ x1 ++ x0)
  | .rld x14 x8 x4 x1 x0 => some (496#9 ++ x14 ++ x8 ++ x4 ++ x1 ++ x0)
  | .rst x14 x8 x4 x1 x0 => some (497#9 ++ x14 ++ x8 ++ x4 ++ x1 ++ x0)
  | .ratom x14 x8 x4 x1 x0 => some (498#9 ++ x14 ++ x8 ++ x4 ++ x1 ++ x0)
  | .cntAdd x8 x2 x0 => some (499#9 ++ 0#6 ++ x8 ++ x2 ++ x0)
  | .cwait x14 x8 x4 x1 => some (500#9 ++ x14 ++ x8 ++ x4 ++ x1 ++ 0#1)
  | .coll x14 x8 x4 x1 => some (501#9 ++ x14 ++ x8 ++ x4 ++ x1 ++ 0#1)
  | .sfuResultLand _ | .paceJobComplete _ | .matrixGenerationComplete _ | .timeTokenSend | .timeTokenArrival _
  | .timeEcho _ | .echoSilenceTimeout _ | .dieFenceTimeout _ | .guardWrite _ | .guardEffective _
  | .guardTransitionEnd | .leaseExpiry _ _ _ _ | .edgeReconcile _ | .crewActivate _ _ | .schedulerDecision _ _ _
  | .crewNotReadyTimeout _ | .crewResidencyTimeout _ | .binAgeDraw _ | .binIdleDraw _ _ _ | .strayTimeout _
  | .registerScrub _ _ | .dbarDieMessage _ _ _ | .teamSwap _ | .stolenContinuation _ _ | .memoryLoadLand _
  | .memoryWritePerformed _ | .lateFault _ | .handlerTimeout _ | .homeReadRequest _ | .homeOwnershipRequest _
  | .homeWriteArrival _ | .fillArrival _ | .cacheScrub _ | .scratchScrub _ | .copyLineLanding _ _ | .vpubJobRun _
  | .versionReclaim _ _ | .moblComplete _ | .routedTileComplete _ _ | .jobStart _ | .jobComplete _ | .wtLoad _
  | .wtDrop _ | .texComplete _ | .rayEvent _ | .fmarchComplete _ | .ringRecordRead _ | .queueDescriptorWrite _ _
  | .teamAdmit _ | .teamResume _ _ | .gridComplete _ | .cadenceTick _ _ | .cadenceWrite _ | .coreFail _
  | .laneFail _ _ _ | .hbmChannelFail _ _ | .quadFail _ | .faultRecordFree _ _ | .flitSend _ _
  | .berWindowEnd _ _ _ _ | .uncorrectableCodeword _ _ _ | .trainingWindowEnd _ _ _ _ | .retrainTimeout _ _ _
  | .remoteRequestArrival _ | .remoteAck _ _ | .linkTimeout _ | .counterAddArrival _ | .cwaitTimeout _
  | .collMessageArrival _ | .collWaitTimeout _ _ | .chunkComplete _ _ | .pageInval _ _ _ | .poolSet _ _ _
  | .route _ _ _ | .spareCore _ _ _ | .chanRemap _ _ | .release _ _ | .serviceCommandLost | .praAnswer _
  | .hostMailboxWrite _ _ | .hostApertureAccess _ _ _ | .mailboxMapWrite _ _ | .powerOnReset _ | .attestRequest _
  | .attestReportDone | .ethTailWrite _ _ _ | .ethTxFrame _ | .ethRxFrame _ _ _ | .serviceCounterWrite _ _
  | .registerWrite _ _ | .serviceCommandComplete | .backInvalidateAnswer _ | .snapshotCopyComplete _ _ => none

/-- The word of an instruction with tie T and hint H (R29). -/
def encodeWith (t : Bool) (h : BitVec 2) (i : Instr) : Option W32 :=
  (encodeBody i).map (fun b => (BitVec.ofBool t ++ h ++ b : BitVec 32))

/-- The word of an instruction, untied and without a hint. -/
def encode (i : Instr) : Option W32 := encodeWith false 0 i

/-- The pipes of R59. -/
inductive Pipe where
  | alu | fpu | sfu | lsu | mxu | ctl | gfx | eng
  deriving DecidableEq, Repr

/-- A pipe's code in fault records (R59). -/
def Pipe.code : Pipe → Nat
  | .alu => 0 | .fpu => 1 | .sfu => 2 | .lsu => 3 | .mxu => 4 | .ctl => 5 | .gfx => 6 | .eng => 7

/-- The pipe of an OP value (R59, R60); `nop` and the modifier words have none. -/
def pipeOfOp (op : Nat) : Option Pipe :=
  if op = 0 ∨ op = 0x030 then none
  else if op < 0x030 then some .ctl
  else if op = 0x06A ∨ op = 0x06B then some .ctl
  else if op < 0x080 then some .alu
  else if op < 0x100 then some .fpu
  else if op < 0x110 then some .sfu
  else if op = 0x112 ∨ op = 0x113 then some .alu
  else if op < 0x120 then some .fpu
  else if op < 0x140 then some .eng
  else if op < 0x180 then some .lsu
  else if op < 0x1C0 then some .mxu
  else if op < 0x1C4 then some .eng
  else if op = 0x1C8 then some .ctl
  else if op = 0x1C9 then some .lsu
  else if op < 0x1E0 then some .eng
  else if op < 0x1F0 then some .gfx
  else if op < 0x1F4 then some .lsu
  else if op = 0x1F4 then some .ctl
  else some .eng

/-- The OP values that R60 assigns to instructions. -/
def opAssigned (op : Nat) : Bool :=
  [(0x000, 0x00B), (0x010, 0x019), (0x020, 0x022), (0x030, 0x030), (0x040, 0x06B), (0x070, 0x079), (0x080, 0x093), (0x100, 0x108),
   (0x110, 0x114), (0x120, 0x121), (0x140, 0x149), (0x150, 0x168), (0x180, 0x18E), (0x190, 0x192), (0x1C0, 0x1C3), (0x1C8, 0x1CD),
   (0x1E0, 0x1E9), (0x1F0, 0x1F5)].any (fun r => decide (r.1 ≤ op) && decide (op ≤ r.2))

/-- The pipe of a word as it stands, whether or not it decodes (R59). -/
def pipeOfWord (w : W32) : Option Pipe :=
  if opAssigned (wordOp w) then pipeOfOp (wordOp w) else none

/-- The pipe of an instruction. -/
def Instr.pipe (i : Instr) : Option Pipe := (encodeBody i).bind (fun b => pipeOfOp (b >>> 20).toNat)

/-- The payloads of the modifier words that stand before one instruction (R47). -/
structure Pfx where
  blk : Option (BitVec 16) := none
  ext : Option (BitVec 16) := none
  grd : Option (BitVec 16) := none
  ver : Option (BitVec 16) := none
  fmt : Option (BitVec 16) := none
  deriving DecidableEq, Repr

/-- Fields of `blk` (R49). -/
def Pfx.rows (x : Pfx) : Nat := match x.blk with | some y => (y >>> 13).toNat + 1 | none => 1
def Pfx.cols (x : Pfx) : Nat := match x.blk with | some y => ((y >>> 10) &&& 7).toNat + 1 | none => 1
def Pfx.bd (x : Pfx) : Bool := match x.blk with | some y => y.getLsbD 9 | none => false
def Pfx.ba (x : Pfx) : Bool := match x.blk with | some y => y.getLsbD 8 | none => false
def Pfx.bb (x : Pfx) : Bool := match x.blk with | some y => y.getLsbD 7 | none => false

/-- Fields of `ext` (R50). -/
def Pfx.ud (x : Pfx) : Bool := match x.ext with | some y => y.getLsbD 15 | none => false
def Pfx.ua (x : Pfx) : Bool := match x.ext with | some y => y.getLsbD 14 | none => false
def Pfx.ub (x : Pfx) : Bool := match x.ext with | some y => y.getLsbD 13 | none => false
def Pfx.immx (x : Pfx) : Nat := match x.ext with | some y => (y &&& 0x1FFF).toNat | none => 0

/-- Fields of `fmt` (R53). -/
def Pfx.rm (x : Pfx) : Nat := match x.fmt with | some y => (y >>> 13).toNat | none => 0
def Pfx.sat (x : Pfx) : Bool := match x.fmt with | some y => y.getLsbD 12 | none => false
def Pfx.dfmt (x : Pfx) : Nat := match x.fmt with | some y => ((y >>> 8) &&& 15).toNat | none => 0
def Pfx.sfmt (x : Pfx) : Nat := match x.fmt with | some y => ((y >>> 4) &&& 15).toNat | none => 0

/-- Fields of `ver` (R52). -/
def Pfx.verMode (x : Pfx) : Nat := match x.ver with | some y => (y >>> 14).toNat | none => 0
def Pfx.verOld (x : Pfx) : Bool := match x.ver with | some y => y.getLsbD 13 | none => false
def Pfx.verP (x : Pfx) : Nat := match x.ver with | some y => ((y >>> 10) &&& 7).toNat | none => 0
def Pfx.verSel (x : Pfx) : Nat := match x.ver with | some y => (y &&& 31).toNat | none => 0

/-- Fields of `grd` (R51): predicate and sense. -/
def Pfx.guardP (x : Pfx) : Nat := match x.grd with | some y => (y >>> 13).toNat | none => 0
def Pfx.guardSense (x : Pfx) : Bool := match x.grd with | some y => y.getLsbD 12 | none => false

/-- What an `ext` bit does to one field of a word: it is refused, or makes the field a `q` register of at most a
given number, or is ignored because the field is no operand (R50, R183, R196). -/
inductive Use where
  | refused
  | upTo (max : Nat)
  | ignored
  deriving DecidableEq, Repr

/-- A plain `q` register, 0 to 31. -/
def Use.q : Use := .upTo 31

/-- Which modifier words an instruction takes: `grd`; `blk` with which step bits (d, a, b); `ext` with what
use of d, a and b, and whether IMMX extends an immediate; `ver`. -/
structure Takes where
  grd : Bool := true
  blk : Option (Bool × Bool × Bool) := none
  ext : Option (Use × Use × Use) := none
  immx : Bool := false
  ver : Bool := false
  deriving DecidableEq, Repr

/-- A word that takes `grd` only. -/
def Takes.guardOnly : Takes := {}
/-- A word that takes no modifier (R48). -/
def Takes.nothing : Takes := { grd := false }
/-- A word of R183 or R196 with operands d, a and b. -/
def Takes.dab : Takes := { blk := some (true, true, true), ext := some (.q, .q, .q) }
/-- A word of R183 or R196 with operands d and a. -/
def Takes.da : Takes := { blk := some (true, true, false), ext := some (.q, .q, .ignored) }
/-- An immediate form of R193. -/
def Takes.imm (immx : Bool) : Takes := { blk := some (true, true, false), ext := some (.q, .q, .ignored), immx }
/-- A word of format M that takes `ext` with UA alone. -/
def Takes.addr : Takes := { ext := some (.refused, .q, .refused) }
/-- A load that UD makes uniform; a pair ends at q31 (R241, R269). -/
def Takes.load (pair : Bool) (ver : Bool) : Takes := { ext := some (.upTo (if pair then 30 else 31), .q, .refused), ver }
/-- An SFU word (R205). -/
def Takes.sfu : Takes := { blk := some (true, true, false), ext := some (.refused, .q, .refused) }

/-- The modifier words each instruction takes (R48 and the entries). Where an entry outside R183 and R196 says
nothing of an `ext` bit on a field it does not use, the bit is refused (DEDUCED, log 11). -/
def Instr.takes : Instr → Takes
  | .br _ | .bp _ _ _ | .call _ | .reform | .bar _ _ | .cbar _ _ | .dbar _ _ | .cvdecl _ _ _ | .sign _ | .stage _ _
  | .blk _ | .ext _ | .grd _ | .ver _ | .fmt _ => .nothing
  | .nop | .ret | .exit | .sbwait _ _ | .qsync | .vote _ _ _ | .await | .trap _ | .rtt | .brk _ | .swf => .guardOnly
  | .ballot _ _ _ => { ext := some (.q, .refused, .refused) }
  | .spawn _ _ _ | .spawnn _ _ _ => { ext := some (.refused, .q, .q) }
  | .bx _ | .launch _ _ | .awaitp _ _ => .addr
  | .mov _ _ m => { Takes.da with ext := some (if m == 0 then (.q, .q, .ignored) else (.refused, .refused, .ignored)) }
  | .movi _ _ => { blk := some (true, false, false), ext := some (.q, .ignored, .ignored), immx := true }
  | .movh _ _ => { blk := some (true, false, false), ext := some (.q, .ignored, .ignored) }
  | .vwset _ _ mode _ => { ext := some (.refused, if mode == 0 then .q else .ignored, .ignored) }
  | .add _ _ _ _ | .sub _ _ _ _ | .mul _ _ _ _ | .mulhSigned _ _ _ _ | .mulhUnsigned _ _ _ _ | .mad _ _ _ _
  | .and _ _ _ _ | .or _ _ _ _ | .xor _ _ _ _ | .andn _ _ _ _ | .shl _ _ _ _ | .shr _ _ _ _ | .sar _ _ _ _
  | .rol _ _ _ _ | .minSigned _ _ _ _ | .minUnsigned _ _ _ _ | .maxSigned _ _ _ _ | .maxUnsigned _ _ _ _
  | .sel _ _ _ _ | .bfxSigned _ _ _ _ | .bfxUnsigned _ _ _ _ | .bfi _ _ _ _ | .lea _ _ _ _ => .dab
  | .not _ _ _ | .abs _ _ _ | .neg _ _ _ | .popc _ _ _ | .clz _ _ _ | .ctz _ _ _ | .brev _ _ _ => .da
  | .addc _ _ _ _ | .subb _ _ _ _ => { ext := some (.refused, .q, .q) }
  | .cmpSigned _ _ _ _ _ | .cmpUnsigned _ _ _ _ _ | .fcmp _ _ _ _ _ =>
    { blk := some (false, true, true), ext := some (.refused, .q, .q) }
  | .pand _ _ _ _ _ | .por _ _ _ _ _ | .pxor _ _ _ _ _ => .guardOnly
  | .pmov _ _ b => { ext := some (if b == 1 then .q else .refused, if b == 2 then .q else .refused, .ignored) }
  | .csrR _ _ | .csrW _ _ => { ext := some (.q, .refused, .refused) }
  | .addImm _ _ _ | .andImm _ _ _ | .orImm _ _ _ | .xorImm _ _ _ | .mulImm _ _ _ => .imm true
  | .shlImm _ _ _ | .shrImm _ _ _ | .sarImm _ _ _ => .imm false
  | .cmpSignedImm _ _ _ _ | .cmpUnsignedImm _ _ _ _ =>
    { blk := some (false, true, false), ext := some (.refused, .q, .ignored), immx := true }
  | .fadd _ _ _ _ | .fsub _ _ _ _ | .fmul _ _ _ _ | .fma _ _ _ _ | .fnma _ _ _ _ | .fmin _ _ _ _ | .fmax _ _ _ _
  | .fsel _ _ _ _ | .fpack _ _ _ | .fscale _ _ _ _ | .fdot2 _ _ _ _ | .fdot4 _ _ _ _ => .dab
  | .fabs _ _ _ | .fneg _ _ _ | .fclass _ _ _ | .frnd _ _ _ | .fcvt _ _ _ _ | .funpack _ _ _ | .fexp _ _ _ => .da
  | .rcp _ _ _ _ _ | .rsq _ _ _ _ _ | .sqrt _ _ _ _ _ | .div _ _ _ _ _ | .exp2 _ _ _ _ _ | .log2 _ _ _ _ _
  | .sin _ _ _ _ _ | .cos _ _ _ _ _ | .tanh _ _ _ _ _ => .sfu
  | .shfl _ _ _ _ | .mred _ _ _ _ => { Takes.dab with ext := some (.refused, .q, .q) }
  | .mscan _ _ _ | .cred _ _ _ => { Takes.da with ext := some (.refused, .q, .ignored) }
  | .bcast _ _ m => { Takes.da with ext := some (if m == 0 then .q else .refused, .q, .ignored) }
  | .pdef _ _ | .spres _ _ _ => .addr
  | .pace _ _ _ _ | .mres _ _ _ | .mrel _ _ => .guardOnly
  | .ldl _ _ _ _ m | .lds _ _ _ _ m | .ldc _ _ _ _ m | .ldk _ _ _ _ m => .load (m == 1) false
  | .ld _ _ _ _ m => .load (m == 1) true
  | .ldv _ _ _ _ => .load false true
  | .stl _ _ _ _ _ | .sts _ _ _ _ _ | .stc _ _ _ _ _ | .stk _ _ _ _ _ | .st _ _ _ _ _
  | .atomsAdd _ _ _ _ _ | .atomsMin _ _ _ _ _ | .atomsMax _ _ _ _ _ | .atomsAnd _ _ _ _ _ | .atomsOr _ _ _ _ _
  | .atomsXor _ _ _ _ _ | .atomsXchg _ _ _ _ _ | .atomsCas _ _ _ _ _
  | .atomAdd _ _ _ _ _ | .atomMin _ _ _ _ _ | .atomMax _ _ _ _ _ | .atomAnd _ _ _ _ _ | .atomOr _ _ _ _ _
  | .atomXor _ _ _ _ _ | .atomXchg _ _ _ _ _ | .atomCas _ _ _ _ _ | .red _ _ _ _ _ => .addr
  | .hrel _ _ _ _ => .load false false
  | .pf _ _ => { ext := some (.ignored, .q, .refused), ver := true }
  | .cinval _ _ _ | .cwb _ _ | .hflush _ _ | .hinval _ _ => { ext := some (.refused, .q, .q) }
  | .mmaD _ _ _ _ _ _ | .mmaS _ _ _ _ _ _ | .mmaBf _ _ _ _ _ _ | .mmaH _ _ _ _ _ _ | .mmaE4 _ _ _ _ _ _
  | .mmaE5 _ _ _ _ _ _ | .mmaF4 _ _ _ _ _ _ | .mmg _ _ _ _ _ _ | .mzero _ _ _ _ | .mepi _ _ _ _
  | .mcholD _ _ _ | .mluD _ _ _ _ | .mtrsmD _ _ _ _ _ _ => .guardOnly
  | .mobl _ _ _ _ _ | .mst _ _ _ _ _ => .addr
  | .mld _ _ _ _ _ => { Takes.addr with ver := true }
  | .cpy _ _ _ _ | .gat _ _ _ _ => { Takes.addr with ver := true }
  | .cpyq _ _ _ _ => .addr
  | .vstep _ m => { ext := some (.refused, if m == 0 then .q else .ignored, .refused) }
  | .vbind _ _ _ => { ext := some (.refused, .q, .q) }
  | .vrel _ _ | .vpub _ _ _ _ => .addr
  | .vq _ _ m => { ext := some (.q, if m == 1 then .ignored else .q, .ignored) }
  | .tex _ _ _ _ _ | .texl _ _ _ _ _ | .texg _ _ _ _ _ | .rgen _ _ _ _ | .rt _ _ _ _ | .rnext _ _ _ _
  | .rhit _ _ _ _ | .fmarch _ _ _ _ | .momRes _ _ _ _ _ => .guardOnly
  | .momAcc _ _ _ _ => .addr
  | .rld _ _ _ _ _ | .rst _ _ _ _ _ | .ratom _ _ _ _ _ => { ext := some (.refused, .upTo 30, .refused) }
  | .cntAdd _ _ _ => { ext := some (.refused, .q, .q) }
  | .cwait _ _ _ _ | .coll _ _ _ _ => .addr
  | .sfuResultLand _ | .paceJobComplete _ | .matrixGenerationComplete _ | .timeTokenSend | .timeTokenArrival _
  | .timeEcho _ | .echoSilenceTimeout _ | .dieFenceTimeout _ | .guardWrite _ | .guardEffective _
  | .guardTransitionEnd | .leaseExpiry _ _ _ _ | .edgeReconcile _ | .crewActivate _ _ | .schedulerDecision _ _ _
  | .crewNotReadyTimeout _ | .crewResidencyTimeout _ | .binAgeDraw _ | .binIdleDraw _ _ _ | .strayTimeout _
  | .registerScrub _ _ | .dbarDieMessage _ _ _ | .teamSwap _ | .stolenContinuation _ _ | .memoryLoadLand _
  | .memoryWritePerformed _ | .lateFault _ | .handlerTimeout _ | .homeReadRequest _ | .homeOwnershipRequest _
  | .homeWriteArrival _ | .fillArrival _ | .cacheScrub _ | .scratchScrub _ | .copyLineLanding _ _ | .vpubJobRun _
  | .versionReclaim _ _ | .moblComplete _ | .routedTileComplete _ _ | .jobStart _ | .jobComplete _ | .wtLoad _
  | .wtDrop _ | .texComplete _ | .rayEvent _ | .fmarchComplete _ | .ringRecordRead _ | .queueDescriptorWrite _ _
  | .teamAdmit _ | .teamResume _ _ | .gridComplete _ | .cadenceTick _ _ | .cadenceWrite _ | .coreFail _
  | .laneFail _ _ _ | .hbmChannelFail _ _ | .quadFail _ | .faultRecordFree _ _ | .flitSend _ _
  | .berWindowEnd _ _ _ _ | .uncorrectableCodeword _ _ _ | .trainingWindowEnd _ _ _ _ | .retrainTimeout _ _ _
  | .remoteRequestArrival _ | .remoteAck _ _ | .linkTimeout _ | .counterAddArrival _ | .cwaitTimeout _
  | .collMessageArrival _ | .collWaitTimeout _ _ | .chunkComplete _ _ | .pageInval _ _ _ | .poolSet _ _ _
  | .route _ _ _ | .spareCore _ _ _ | .chanRemap _ _ | .release _ _ | .serviceCommandLost | .praAnswer _
  | .hostMailboxWrite _ _ | .hostApertureAccess _ _ _ | .mailboxMapWrite _ _ | .powerOnReset _ | .attestRequest _
  | .attestReportDone | .ethTailWrite _ _ _ | .ethTxFrame _ | .ethRxFrame _ _ _ | .serviceCounterWrite _ _
  | .registerWrite _ _ | .serviceCommandComplete | .backInvalidateAnswer _ | .snapshotCopyComplete _ _ => .nothing

/-- The operations of the atomic families, in the order of R242. -/
inductive AtomOp where
  | add | min | max | and | or | xor | xchg | cas
  deriving DecidableEq, Repr

/-- The operation of a code of R443. -/
def atomOpOf : Nat → AtomOp
  | 0 => .add | 1 => .min | 2 => .max | 3 => .and | 4 => .or | 5 => .xor | 6 => .xchg | _ => .cas

/-- The types an atomic accepts (R242); code 0 is `.n64`. -/
def atomTypeOk (op : AtomOp) (dfmt : Nat) : Bool :=
  match op with
  | .and | .or | .xor => [0, 10, 11, 14, 15].contains dfmt
  | _ => [0, 1, 2, 10, 11, 14, 15].contains dfmt

/-- Modes 4 and 5 stand only before a narrow destination (R53). -/
def rmOk (rm : Nat) (narrow : Bool) : Bool := decide (rm ≤ 3) || narrow

/-- `fmt` before a word with RM and SAT (R196, R197): no format field, and modes 4 and 5 for `.h` and `.bf`. -/
def fmtRound (x : Pfx) (narrow : Bool) : Option Bool := some (rmOk x.rm narrow && x.dfmt == 0 && x.sfmt == 0)

/-- `fmt` before a reduction or scan (R212, R213). -/
def fmtReduce (x : Pfx) : Option Bool := some (rmOk x.rm false && !x.sat && decide (x.dfmt ≤ 4) && x.sfmt == 0)

/-- `fmt` that gives only a type, SAT refused (R241, R242). -/
def fmtType (x : Pfx) (ok : Bool) : Option Bool := some (x.rm == 0 && !x.sat && x.sfmt == 0 && ok)

/-- `fmt` before `ld` or `st` (R268, R269). -/
def fmtMem (x : Pfx) (pair : Bool) : Option Bool :=
  some (x.rm == 0 && x.sfmt == 0 && (if pair then x.dfmt == 0 && x.sat else x.dfmt != 7))

/-- The pairs (source, destination) that `fpack` accepts (R204). -/
def fpackPairs : List (Nat × Nat) := [(1, 2), (2, 3), (2, 4), (3, 5), (3, 6), (4, 5), (4, 6), (5, 7), (6, 7)]

/-- A code, or the default of a field that is 0. -/
def orDefault (code default : Nat) : Nat := if code = 0 then default else code

/-- Whether an instruction takes `fmt` at all, and if so whether it accepts this payload (R53 and the entries). -/
def Instr.fmtOk (i : Instr) (x : Pfx) : Option Bool :=
  match i with
  | .fadd _ _ _ m | .fsub _ _ _ m | .fmul _ _ _ m | .fma _ _ _ m | .fnma _ _ _ m | .fscale _ _ _ m =>
    fmtRound x (decide (2 ≤ m.toNat))
  | .fdot2 _ _ _ _ | .fdot4 _ _ _ _ => fmtRound x false
  | .frnd _ _ _ => (fmtRound x false).map (· && !x.sat)
  | .fcvt _ _ df sf =>
    some ((x.dfmt == 0 || x.dfmt == df.toNat) && (x.sfmt == 0 || x.sfmt == sf.toNat)
      && rmOk x.rm (decide (3 ≤ df.toNat) && decide (df.toNat ≤ 7)))
  | .fpack _ _ _ =>
    let df := orDefault x.dfmt 4
    some (fpackPairs.contains (orDefault x.sfmt 2, df) && rmOk x.rm (decide (3 ≤ df)))
  | .funpack _ _ _ =>
    some (fpackPairs.contains (orDefault x.dfmt 2, orDefault x.sfmt 4) && x.rm == 0 && !x.sat)
  | .mred _ _ _ _ | .mscan _ _ _ | .cred _ _ _ => fmtReduce x
  | .ldl _ _ _ _ m | .stl _ _ _ _ m | .lds _ _ _ _ m | .sts _ _ _ _ m | .ldc _ _ _ _ m | .stc _ _ _ _ m
  | .ldk _ _ _ _ m | .stk _ _ _ _ m => if m == 1 then none else fmtType x (x.dfmt != 7)
  | .atomsAdd _ _ _ _ _ | .atomAdd _ _ _ _ _ | .atomsMin _ _ _ _ _ | .atomMin _ _ _ _ _ | .atomsMax _ _ _ _ _
  | .atomMax _ _ _ _ _ | .atomsXchg _ _ _ _ _ | .atomXchg _ _ _ _ _ | .atomsCas _ _ _ _ _ | .atomCas _ _ _ _ _
  | .red _ _ _ _ _ => fmtType x (atomTypeOk .add x.dfmt)
  | .atomsAnd _ _ _ _ _ | .atomAnd _ _ _ _ _ | .atomsOr _ _ _ _ _ | .atomOr _ _ _ _ _ | .atomsXor _ _ _ _ _
  | .atomXor _ _ _ _ _ => fmtType x (atomTypeOk .and x.dfmt)
  | .ld _ _ _ _ m | .st _ _ _ _ m => fmtMem x (m == 1)
  | .mmg _ _ _ _ _ _ => some (x.rm == 0 && !x.sat && x.dfmt == 0 && [0, 3, 4, 5, 6, 7].contains x.sfmt)
  | .ratom d _ _ _ _ =>
    some (x.rm == 0 && !x.sat && decide (x.sfmt ≤ 7) && atomTypeOk (atomOpOf x.sfmt) x.dfmt
      && (x.sfmt != 7 || d != 63))
  | _ => none

/-- The set-level words of the matrix unit (R343). -/
def Instr.isSetLevel : Instr → Bool
  | .mmaD _ _ _ _ _ _ | .mmaS _ _ _ _ _ _ | .mmaBf _ _ _ _ _ _ | .mmaH _ _ _ _ _ _ | .mmaE4 _ _ _ _ _ _
  | .mmaE5 _ _ _ _ _ _ | .mmaF4 _ _ _ _ _ _ | .mmg _ _ _ _ _ _ | .mzero _ _ _ _ | .mepi _ _ _ _
  | .mcholD _ _ _ | .mluD _ _ _ _ | .mtrsmD _ _ _ _ _ _ => true
  | _ => false

/-- The modifier an instruction is, with its place among the kinds of R47. -/
def Instr.modifier? : Instr → Option (Nat × BitVec 16)
  | .blk y => some (1, y)
  | .ext y => some (2, y)
  | .grd y => some (3, y)
  | .ver y => some (4, y)
  | .fmt y => some (5, y)
  | _ => none

/-- A modifier word put among the others of its instruction; `none` where one of its kind is there. -/
def Pfx.add? (x : Pfx) : Nat × BitVec 16 → Option Pfx
  | (1, y) => if x.blk.isNone then some { x with blk := some y } else none
  | (2, y) => if x.ext.isNone then some { x with ext := some y } else none
  | (3, y) => if x.grd.isNone then some { x with grd := some y } else none
  | (4, y) => if x.ver.isNone then some { x with ver := some y } else none
  | (_, y) => if x.fmt.isNone then some { x with fmt := some y } else none

/-- A word of a tied group: its index in the packet, its bits and the instruction they are. -/
structure GroupWord where
  idx : Nat
  word : W32
  instr : Instr
  deriving DecidableEq, Repr

/-- An instruction of a tied group with its modifiers. -/
structure GroupUnit where
  idx : Nat
  word : W32
  instr : Instr
  pfx : Pfx
  deriving DecidableEq, Repr

/-- A decoded tied group: its instructions in word order, the index of its last word, the hint's gap in beats
and whether it gives way (R58). -/
structure Group where
  entry : Nat
  words : List GroupWord
  units : List GroupUnit
  last : Nat
  gap : Nat
  giveWay : Bool
  deriving DecidableEq, Repr

/-- The cause of a refused group and the index of the word it names (R44). -/
structure GroupError where
  cause : DecodeError
  idx : Nat
  deriving DecidableEq, Repr

/-- The words of a tied group entered at a word: each following word while the one before has T = 1 (R39). -/
def groupWords (entry : Nat) : List W32 → List (Nat × W32)
  | [] => []
  | w :: rest => (entry, w) :: (if wordT w then groupWords (entry + 1) rest else [])

/-- Step 1 of R44 over a group. -/
def stepOne : List (Nat × W32) → Except GroupError (List GroupWord)
  | [] => .ok []
  | (k, w) :: rest =>
    match decodeWord w with
    | .error c => .error ⟨c, k⟩
    | .ok i => match stepOne rest with
      | .ok l => .ok (⟨k, w, i⟩ :: l)
      | .error e => .error e

/-- The instruction that the modifiers at the head of a list modify, with all of them and whether one kind is
there twice. -/
def modified : List GroupWord → Pfx → Option (GroupUnit)
  | [], _ => none
  | g :: rest, x => match g.instr.modifier? with
    | none => some ⟨g.idx, g.word, g.instr, x⟩
    | some k => modified rest ((x.add? k).getD x)

/-- Whether `ext` makes a word uniform: UD = 1 on a destination (R50). DESIGN CHOICE (log 31): a word whose entry refuses UD counts as
uniform at step 2 of R44, so that `grd` before it raises ILLEGAL_PREFIX ahead of the ILLEGAL_OP of step 3. -/
def GroupUnit.uniform (u : GroupUnit) : Bool :=
  u.pfx.ud && (match u.instr.takes.ext with | some (.ignored, _, _) => false | some _ => true | none => false)

/-- Whether an instruction accepts a modifier of a kind (R48); `signed`: a `sign` stands before it in the group. -/
def GroupUnit.accepts (u : GroupUnit) (signed : Bool) : Nat → Bool
  | 1 => u.instr.takes.blk.isSome
  | 2 => u.instr.takes.ext.isSome
  | 3 => u.instr.takes.grd && !u.uniform && !(signed && u.instr.isSetLevel)
  | 4 => u.instr.takes.ver
  | _ => (u.instr.fmtOk u.pfx).isSome

/-- Step 2 of R44 over a group: `seen` holds the modifiers of the running instruction met so far, `run` all of
them; `later` says whether a word of the packet after the group is no modifier. -/
def stepTwo : List GroupWord → Pfx → Pfx → Bool → Bool → Option GroupError
  | [], _, _, _, _ => none
  | g :: rest, seen, run, signed, later =>
    match g.instr.modifier? with
    | none => stepTwo rest {} {} (signed || (match g.instr with | .sign _ => true | _ => false)) later
    | some k =>
      let fail : Option GroupError := some ⟨.illegalPrefix, g.idx⟩
      if g.idx = 2 ∨ !wordT g.word ∨ (!later && rest.all (fun r => r.instr.modifier?.isSome)) then fail
      else
        let run' := (run.add? k).getD run
        match seen.add? k, modified rest run' with
        | none, _ => fail
        | some _, none => stepTwo rest run' run' signed later
        | some seen', some u => if u.accepts signed k.1 then stepTwo rest seen' run' signed later else fail

/-- Whether a use bit of `ext` is right for a field's value (R44 step 3). -/
def useOk (on : Bool) (u : Use) (v : Nat) : Bool :=
  !on || (match u with | .refused => false | .upTo m => decide (v ≤ m) | .ignored => true)

/-- `ext` before an instruction (R44 step 3): no refused bit, no `q` register out of range, IMMX only where an
immediate takes it. -/
def GroupUnit.extOk (u : GroupUnit) : Bool :=
  match u.instr.takes.ext with
  | some (d, a, b) =>
    useOk u.pfx.ud d (bits u.word 14 6).toNat && useOk u.pfx.ua a (bits u.word 8 6).toNat
      && useOk u.pfx.ub b (bits u.word 2 6).toNat && (u.pfx.immx == 0 || u.instr.takes.immx)
  | none => true

/-- Whether a bit of `ext` makes an operand a `q` register. -/
def Use.makesQ (on : Bool) : Use → Bool
  | .upTo _ => on
  | _ => false

/-- No step bit of `blk` stands on an operand that `ext` makes a `q` register (R183). DEDUCED (log 31): the float and lane words of R196
refuse it as the integer words of R183 do. -/
def GroupUnit.stepsOffQ (u : GroupUnit) : Bool :=
  match u.instr.takes.ext with
  | some (d, a, b) =>
    !(u.pfx.bd && d.makesQ u.pfx.ud) && !(u.pfx.ba && a.makesQ u.pfx.ua) && !(u.pfx.bb && b.makesQ u.pfx.ub)
  | none => true

/-- `blk` before an instruction (R44 step 3): a step bit only for an operand the instruction has. -/
def GroupUnit.blkOk (u : GroupUnit) : Bool :=
  match u.instr.takes.blk with
  | some (d, a, b) => (!u.pfx.bd || d) && (!u.pfx.ba || a) && (!u.pfx.bb || b)
  | none => true

/-- Step 3 of R44 over a group: at each modifier, in order, the failures that turn on it. -/
def stepThree : List GroupWord → Pfx → Option GroupError
  | [], _ => none
  | g :: rest, run =>
    match g.instr.modifier? with
    | none => stepThree rest {}
    | some k =>
      let run' := (run.add? k).getD run
      match modified rest run' with
      | none => stepThree rest run'
      | some u =>
        let ok := match k.1 with
          | 1 => u.blkOk && u.stepsOffQ
          | 2 => u.extOk && u.stepsOffQ
          | 5 => (u.instr.fmtOk u.pfx).getD true
          | _ => true
        if ok then stepThree rest run' else some ⟨.illegalOp, g.idx⟩

/-- Whether a word of the group after `sign` is an MXU word, and a set-level one (R159, R343). -/
def signFollowed : List GroupWord → Bool
  | [] => false
  | g :: rest => if g.instr.pipe = some .mxu then g.instr.isSetLevel else signFollowed rest

/-- Step 4 of R44 over a group: T of word 2, two words of one pipe, a `sign` without its set-level word. -/
def stepFour : List GroupWord → List Pipe → Option GroupError
  | [], _ => none
  | g :: rest, pipes =>
    let fail : Option GroupError := some ⟨.illegalTie, g.idx⟩
    if g.idx = 2 ∧ wordT g.word then fail
    else match g.instr.pipe with
      | none => stepFour rest pipes
      | some p =>
        if pipes.contains p then fail
        else if (match g.instr with | .sign _ => !signFollowed rest | _ => false) then fail
        else stepFour rest (p :: pipes)

/-- The instructions of a group with their modifiers, in word order. -/
def unitsOf : List GroupWord → Pfx → List GroupUnit
  | [], _ => []
  | g :: rest, run => match g.instr.modifier? with
    | some k => unitsOf rest ((run.add? k).getD run)
    | none => ⟨g.idx, g.word, g.instr, run⟩ :: unitsOf rest {}

/-- The gap in beats of a hint (R58). -/
def hintGap : Nat → Nat
  | 1 => 2 | 2 => 4 | _ => 0

/-- A tied group of a packet entered at a word: decoded, or refused with the word it names (R44). -/
def decodeGroup (packet : List W32) (entry : Nat) : Except GroupError Group :=
  let ws := groupWords entry (packet.drop entry)
  match stepOne ws with
  | .error e => .error e
  | .ok gs =>
    let after := packet.drop (entry + ws.length)
    let later := after.any (fun w => !isModifierOp (wordOp w))
    match stepTwo gs {} {} false later with
    | some e => .error e
    | none => match stepThree gs {} with
      | some e => .error e
      | none => match stepFour gs [] with
        | some e => .error e
        | none => .ok
          { entry, words := gs, units := unitsOf gs {}, last := entry + ws.length - 1
            gap := (ws.map (fun w => hintGap (wordH w.2))).foldl max 0
            giveWay := ws.any (fun w => wordH w.2 == 3) }

/-- The three words of a packet from its twelve bytes (R30). -/
def wordsOfBytes : List Byte → List W32
  | b0 :: b1 :: b2 :: b3 :: rest => (b3 ++ b2 ++ b1 ++ b0 : BitVec 32) :: wordsOfBytes rest
  | _ => []

/-- The bytes of a word, lowest address first (R30). -/
def bytesOfWord (w : W32) : List Byte := [bits w 0 8, bits w 8 8, bits w 16 8, bits w 24 8]

/-- The instruction the decoder reads from a word whose bits the opcode table numbers as `w`. Every word is 32
bits, so the bits above `nbits` are none. -/
def decodeTableWord (nbits w : Nat) : Option Instr :=
  match wordsOfBytes (bytesOfWord (BitVec.ofNat 32 (w % 2 ^ nbits))) with
  | [x] => match decodeWord x with | .ok i => some i | .error _ => none
  | _ => none

end Sys2Proof
end

