-- ==== Sys2Proof/Machine/Mem.lean ====
section
/-! DEFINITION. Byte memory as plain data: (address, byte) pairs with strictly rising addresses and no byte equal to what an
unlisted address reads as. One type serves device memory (R247), host memory, register windows (R161), scratchpads
(R222) and operand-buffer ranges (R349), all of which are zero-filled where the spec gives their contents. -/
namespace Sys2Proof.Machine

/-- Byte memory in canonical form. -/
abbrev Mem := List Host.Cell

/-- What an unlisted address reads as: R161, R224 and R349 give zero for windows, allotments and ranges; for
device and host memory after power-on the spec gives nothing. DESIGN CHOICE (log 1), unsafe. -/
def unlistedByte : Byte := 0

/-- The byte at an address. -/
def Mem.read : Mem → Nat → Byte
  | [], _ => unlistedByte
  | (k, v) :: rest, a => if a < k then unlistedByte else if a = k then v else Mem.read rest a

/-- The memory without an entry at an address. -/
def Mem.erase : Mem → Nat → Mem
  | [], _ => []
  | (k, v) :: rest, a => if a < k then (k, v) :: rest else if a = k then rest else (k, v) :: Mem.erase rest a

/-- The memory with an entry put in its place. -/
def Mem.insert : Mem → Nat → Byte → Mem
  | [], a, b => [(a, b)]
  | (k, v) :: rest, a, b =>
    if a < k then (a, b) :: (k, v) :: rest else if a = k then (a, b) :: rest else (k, v) :: Mem.insert rest a b

/-- The memory after a write of one byte. -/
def Mem.write (m : Mem) (a : Nat) (b : Byte) : Mem := if b = unlistedByte then m.erase a else m.insert a b

/-- n bytes from an address upward. -/
def Mem.readN (m : Mem) (a : Nat) : Nat → List Byte
  | 0 => []
  | n + 1 => m.read a :: Mem.readN m (a + 1) n

/-- The memory after a write of bytes from an address upward. -/
def Mem.writeN (m : Mem) (a : Nat) : List Byte → Mem
  | [] => m
  | b :: bs => Mem.writeN (m.write a b) (a + 1) bs

/-- n little-endian bytes as a number (R3). -/
def Mem.readNat (m : Mem) (a n : Nat) : Nat := bytesToNat (m.readN a n)

/-- The memory after a little-endian write of n bytes (R3). -/
def Mem.writeNat (m : Mem) (a n v : Nat) : Mem := m.writeN a (natToBytes n v)

/-- An 8-byte little-endian read. -/
def Mem.read64 (m : Mem) (a : Nat) : W64 := BitVec.ofNat 64 (m.readNat a 8)

/-- n bytes copied from one place to another: what stood at the destination is gone. -/
def Mem.copy (m : Mem) (src dst n : Nat) : Mem :=
  let out := m.filter (fun c => !(decide (dst ≤ c.1) && decide (c.1 < dst + n)))
  (m.filter (fun c => decide (src ≤ c.1) && decide (c.1 < src + n))).foldl (fun acc c => Mem.write acc (c.1 - src + dst) c.2) out

/-- Every address below a bound and no byte equal to the unlisted one, addresses rising from `lo`. -/
def Mem.wfFrom : Nat → Mem → Bool
  | _, [] => true
  | lo, (k, v) :: rest => decide (lo ≤ k) && decide (v ≠ unlistedByte) && Mem.wfFrom (k + 1) rest

/-- The canonical form: addresses strictly rising, no entry equal to what an unlisted address reads as. -/
def Mem.wf (m : Mem) : Bool := Mem.wfFrom 0 m

/-- A set of 8-byte granules (poison, R180) or of lines (absence, R233) as an ascending list of numbers. -/
abbrev Marks := List Nat

/-- The granules that n bytes from an address touch. -/
def granulesOf (a n : Nat) : List Nat := if n = 0 then [] else (List.range ((a + n - 1) / 8 - a / 8 + 1)).map (· + a / 8)

/-- The lowest byte of [a, a + n) that lies in a marked granule. -/
def lowestMarked (p : Marks) (a n : Nat) : Option Nat := ((List.range n).map (· + a)).find? (fun x => p.contains (x / 8))

/-- The marks after a write of [a, a + n): a granule written whole is cleared, a partial write leaves it marked
(memory and scratchpads: R240, R263). -/
def clearWhole (p : Marks) (a n : Nat) : Marks := p.filter (fun g => !(decide (a ≤ 8 * g) && decide (8 * g + 8 ≤ a + n)))

end Sys2Proof.Machine
end

