-- ==== Sys2Proof/Machine/State.lean ====
section
/-! DEFINITION. The state of the part: everything the spec names, as plain data. Agents and records that come and go (threads,
crews, bins, teams, grids, words in flight, cache lines) stand in lists and are named by numbers of the model's own;
each field's docstring names the rule it comes from. INVENTORY.md lists every piece with its reset value. -/
namespace Sys2Proof.Machine

/-- Why the machine stops without a next state. -/
inductive Fault where
  /-- An event named in the agenda whose condition does not hold, or that names nothing that exists: the part takes no
  such step. Raised by the events of spec/95. Safe: the model stops where the part would do something else. -/
  | notEnabled (event : String)
  deriving DecidableEq, Repr

/-- Why the model refuses a step. -/
inductive Refusal where
  /-- The instruction's meaning is not written yet. Raised by the arms of `exec`. Safe. -/
  | notModelled (mnemonic : String)
  deriving DecidableEq, Repr

/-! ### Package time (spec/01) -/

/-- A receiver of time tokens: compute die 0-3, then quadrant 0-3 as 4-7 (R19-R22, R26, R315). -/
structure Receiver where
  /-- Local copy of package time (R19). -/
  copy : Nat := 0
  /-- Guard band the receiver applies, as the GUARD field, and the changes the hub has sent it: effective time, value (R26). -/
  guard : Nat := 4
  changes : List (Nat × Nat) := []
  /-- Every lease with an expiry at most this has been given up (R23): the latest copy plus guard band. -/
  horizon : Nat := 0
  /-- Tokens on their way, oldest first (R19). -/
  tokens : List Nat := []
  /-- Echoes on their way back, oldest first, each with the hub time at which it left (R21, R480). -/
  echoes : List (Nat × Nat) := []
  /-- Hub time of the latest echo (R21). -/
  echoAt : Nat := 0
  /-- Fenced under R22, since this hub time, and low echoes in a row since (R315). -/
  fenced : Bool := false
  fencedAt : Nat := 0
  lowEchoes : Nat := 0
  deriving DecidableEq, Repr

/-- A scheduled change of GUARD (R26): effective time T, old and new value, a write held until T + 256. -/
structure GuardChange where
  at_ : Nat
  old : Nat
  new : Nat
  held : Option Nat
  deriving DecidableEq, Repr

/-- Package time and the clocks (R18, R25, R26, R27, R5). -/
structure TimeState where
  hub : Nat := 0
  guard : Nat := 4
  gberr : Bool := false
  change : Option GuardChange := none
  receivers : List Receiver := List.replicate 8 {}
  /-- Clock of each compute die in kHz (R27, R432). Reset value DESIGN CHOICE (log 2). -/
  khz : List Nat := [2400000, 2400000, 2400000, 2400000]
  /-- dclk count of each compute die (R5) in millionths. -/
  dclk : List Nat := [0, 0, 0, 0]
  deriving DecidableEq, Repr

/-! ### Registers of a thread (spec/02 to 06) -/

/-- A view of the window (R165). -/
structure View where
  base : Nat
  stride : Nat
  deriving DecidableEq, Repr

/-- A copy of `q0`-`q31` as 256 bytes with its poisoned bytes (R105, R182). -/
structure QCopy where
  regs : Mem := []
  poison : List Nat := []
  deriving DecidableEq, Repr

/-- What a thread has twice, once in each context (R103, R300). -/
structure Ctx where
  /-- Code address (R37). -/
  pkt : Nat := 0
  word : Nat := 0
  /-- `p0`-`p7` (R169). -/
  preds : BitVec 8 := 0
  /-- `sb0`-`sb7` (R54). -/
  slots : List Nat := [0, 0, 0, 0, 0, 0, 0, 0]
  /-- `cr.fflags` (R89). -/
  fflags : BitVec 5 := 0
  /-- `cr.link` (R127). -/
  link : W64 := BitVec.allOnes 64
  /-- `cr.srseed` (R83). -/
  srseed : BitVec 32 := 0
  /-- A hold of `sbwait`: slot and count (R132). -/
  hold : Option (Nat × Nat) := none
  /-- Open lookahead windows: word in flight, instructions left (R55). -/
  windows : List (Nat × Nat) := []
  /-- Completed jobs whose edge waits for the thread's own wait (R288): slot, word in flight, mark. -/
  marks : List (Nat × Nat × Nat) := []
  deriving DecidableEq, Repr

/-- Where a result lands, resolved at issue (R167). -/
inductive Dst where
  | none
  /-- Window bytes from an offset. -/
  | win (off : Nat)
  /-- `q` register of a crew (R108). -/
  | q (crew reg : Nat)
  deriving DecidableEq, Repr

/-- The version a read asks for (R52, R334): slot, or a version number, with `.old` and its predicate. -/
structure VerSel where
  byVersion : Bool := false
  sel : Nat := 0
  old : Bool := false
  pred : Nat := 0
  deriving DecidableEq, Repr

/-- Operations of memory and scratchpad accesses. -/
inductive MemOp where
  | load
  /-- `pf` (R271), into L1 or not. -/
  | pf (l1 : Bool)
  | store
  | atom (op : AtomOp)
  /-- `red` and `mom.acc`: nothing returns (R273, R411). -/
  | red (op : AtomOp)
  | momAcc
  | momRes (z : BitVec 32)
  | hrel
  | ldv
  deriving DecidableEq, Repr

/-- A translated page: where its leaf lies, the leaf's bits, its level, its first address (R250, R251). -/
structure Page where
  entry : Nat
  leaf : Nat
  level : Nat
  base : Nat
  deriving DecidableEq, Repr

/-- The half of a 16-byte access that has been made (R238, R283): which of the two, the bytes it read, and the page through which it was
translated, which the other half goes through as well (R254). -/
structure HalfDone where
  k : Nat
  bytes : List Byte := []
  page : Option Page := none
  deriving DecidableEq, Repr

/-- A virtual-memory access as issued (R268-R274, R337, R359, R411, R412), with its core and address space. -/
structure MemAcc where
  op : MemOp
  place : Place
  asid : Nat
  va : Nat
  size : Nat
  dfmt : Nat
  vol : Bool
  ver : VerSel
  dst : Dst
  /-- Data of a store; operand (and second operand) of an atomic, low bytes first. -/
  data : List Byte
  noReturn : Bool
  half : Option HalfDone := none
  deriving DecidableEq, Repr

/-- A scratchpad access as issued (R241, R242): level as R242 codes it. -/
structure ScrAcc where
  op : MemOp
  level : Nat
  off : Nat
  size : Nat
  dfmt : Nat
  dst : Dst
  data : List Byte
  noReturn : Bool
  /-- Passes of its word in the core scratchpad (R230, R231). -/
  passes : Nat := 0
  half : Option HalfDone := none
  deriving DecidableEq, Repr

/-- How a message leaves for a peer (R437, R470): compute die, port of its optical die, the die's time when it was issued. -/
structure Via where
  die : Nat
  port : Nat
  since : Nat
  deriving DecidableEq, Repr

/-- A remote access (R442, R443): load, store or atomic at a peer. -/
structure RemoteAcc where
  op : MemOp
  peer : Nat
  va : Nat
  size : Nat
  dfmt : Nat
  dst : Dst
  data : List Byte
  noReturn : Bool
  via : Via
  deriving DecidableEq, Repr

/-- A stream job of the paceline (R218): its slot's record bytes, element count, base addresses S0, S1, S2, D0. -/
structure PaceJob where
  record : List Byte
  count : Nat
  bases : List Nat
  out : Nat
  dst : Dst
  deriving DecidableEq, Repr

/-- The set-level words of R343. -/
inductive SetOp where
  | mma | mmg | mzero | mepi | chol | lu | trsm
  deriving DecidableEq, Repr

/-- A set-level word: its element format (R341, R357), the fields of format MX; for `mepi` c is d, b the slot. -/
structure SetWord where
  op : SetOp
  efmt : Nat := 1
  c : Nat := 0
  a : Nat := 0
  b : Nat := 0
  m : Nat := 0
  deriving DecidableEq, Repr

/-- What a word in flight is. -/
inductive FlightKind where
  /-- An SFU entry (R205, R208): operation code 0-8, `.s` or `.d`, x and (for `div`) the dividend. -/
  | sfu (op : Nat) (single : Bool) (x y : W64) (dst : Dst)
  | mem (a : MemAcc)
  | scr (a : ScrAcc)
  /-- A member's part in a matrix generation (R346). -/
  | matrix (gen : Nat)
  /-- A routed tile on its way (R361, R457): generation and its members, peer, address at the peer, its bytes, the counter. -/
  | tile (gen : Nat) (members : List Nat) (peer va : Nat) (data : List Byte) (count : Option Nat) (via : Via)
  /-- A copy job (R374). -/
  | job (j : Nat)
  | pace (p : PaceJob)
  /-- `mobl` (R354): handle, byte offset in the range, lines, source address, from a scratchpad. -/
  | mobl (handle off lines src : Nat) (scratch : Bool)
  /-- `vpub` (R329): version, region, status register. -/
  | vpub (v region : Nat) (dst : Dst)
  /-- A sampling word (R398): 0 `tex`, 1 `texl`, 2 `texg`; wide form; coordinates, descriptor, third operand; BASE of
  `cr.wtbase` at issue (R396); the table that it uses, its address and the bytes of its entry (R397, R414). -/
  | tex (op : Nat) (wide : Bool) (uv : W64) (desc : Nat) (third : W64) (base : Nat) (dst : Dst) (table : Option (Nat × List Byte))
  /-- `rt` and `rnext` (R405): the decision of `rnext`, the status register. -/
  | ray (next : Option Nat) (dst : Dst)
  /-- `fmarch` (R410): its operand registers and the result register. -/
  | fmarch (regs : List W64) (dst : Dst)
  | remote (a : RemoteAcc)
  /-- `cwait` (R448): counter and target, the time it began, COUNT and MARK when the target was reached, the result register. -/
  | cwait (counter target since : Nat) (reached : Option (Nat × Nat)) (dst : Dst)
  /-- `coll` (R455). -/
  | coll (chunk : Nat) (dst : Dst)
  /-- A posted counter add (R447): m, counter index, value, peer, TM or H, the a operand. -/
  | cntAdd (mode index : Nat) (value : BitVec 32) (peer : Nat) (mark : Int) (a : W64) (via : Via)
  /-- A message of a collective on its way to a rank, at its package by the rank table (R450, R452): it is acknowledged as a write is
  (R437, R454). -/
  | send (grid chunk rank peer : Nat) (msg : CollMessage) (via : Option Via)
  deriving DecidableEq, Repr

/-- Coherence states of an L2 line (R258). -/
inductive L2State where
  | m | o | e | s
  deriving DecidableEq, Repr

/-- What the home sends with a line (R258, R259, R323, R335): the line's place in the L2 of a die, its bytes and poisoned
granules, the state granted (none: the line is not held), the lease's expiry (0: no lease), EXP, LV, SF, the fill
time (R257), and whether the requesting core's L1 takes it. -/
structure Grant where
  die : Nat
  slot : Nat
  line : Nat
  pa : Nat
  data : Mem
  poison : Marks
  state : Option L2State
  expiry : Nat := 0
  exp : Nat := 0
  lv : Nat := 0
  sf : Nat := 0
  versioned : Bool := false
  ft : Nat
  l1 : Bool := true
  /-- What the predicate of `.old` becomes (R336). -/
  pred : Option Bool := none
  /-- Number of the home's message: messages of one home to one die arrive in order (R16), and one serves every participant of a word
  that touches the line (R268). -/
  msg : Nat := 0
  deriving DecidableEq, Repr

/-- How far a word in flight has come: `start` is issued; `fill` has its line on the way; `data` holds what lands and the
predicate's value; `granted` has the line owned or the owner recalled; `copying` waits for a copy-on-write;
`waiting` waits for the driver's answer to a page request (R253); `faulted` waits to be recorded (cause, value, R296). -/
inductive FlightStage where
  | start
  | fill (g : Grant)
  | data (bytes : List Byte) (pred : Option Bool)
  | granted
  | copying
  | waiting
  | faulted (cause val : Nat)
  deriving DecidableEq, Repr

/-- A word in flight: the members whose slot counts it, the scoreboard slot, the context it issued in, the word it is,
the step it carries (R317). -/
structure Flight where
  id : Nat
  tids : List Nat
  sb : Option Nat
  trapCtx : Bool
  pkt : Nat
  word : Nat
  pipe : Nat
  /-- The crew that issued it (R208). -/
  crew : Nat := 0
  /-- The issue it belongs to, the same for every participant of one word (R268): the number its first flight has. -/
  group : Nat := 0
  step : Nat
  kind : FlightKind
  stage : FlightStage
  /-- Re-performed by `rtt`: the return point at which a new fault is taken at once (R304). -/
  again : Option (Nat × Nat) := none
  deriving DecidableEq, Repr

/-- The interrupted context and the trap registers (R299-R304). -/
structure TrapCtx where
  saved : Ctx
  /-- `cr.tcause`, `cr.tval`, `cr.tret` (R303). -/
  cause : W64
  val : W64
  tret : W64
  /-- Package time of entry (R302). -/
  entered : Nat
  /-- The pending faulted access this trap took (R304). -/
  fault : Option Flight
  /-- The q copy and step kept at entry (R299). -/
  q : QCopy
  step : Nat
  /-- The crew that it interrupted, and the number that the next record had at entry: the crew's entries in the SFU queue have
  lower ones (R209). -/
  crew : Option Nat := none
  mark : Nat := 0
  deriving DecidableEq, Repr

/-- A frame record (R139); parents are named by thread. -/
structure Frame where
  mark : Nat := 0
  arg : W64 := 0
  entry : Nat := 0
  /-- Pool index of the record; none for a launched thread (R136). -/
  index : Option Nat := none
  /-- The parent thread; none for a launched thread. -/
  parent : Option Nat := none
  /-- PARENT and PTHREAD as the record holds them. -/
  parentIndex : Nat := 0xFFFF
  pthread : Nat := 0
  children : Nat := 0
  depth : Nat := 0
  /-- 0 free, 1 running, 2 awaiting, 3 retiring. -/
  state : Nat := 1
  nrp : Bool := false
  replay : Nat := 0
  deriving DecidableEq, Repr

/-- Where a thread stands in its life. -/
inductive ThreadStatus where
  | binned
  | crewed
  /-- Threshold, predicate set at release, package time of the await (R152, R153). -/
  | awaiting (threshold : Nat) (pred : Option Nat) (since : Nat)
  /-- Masked off at `exit` until its words complete (R130). -/
  | exiting
  /-- Retired, its frame not yet credited (R145). -/
  | retired
  | halted
  /-- Halted for the host under DBG; the record's index once written, the record's bits without its time (R299). -/
  | haltedDbg (record : Option Nat) (bits : Nat)
  /-- At `rtt` until the words it issued in trap context have completed (R304). -/
  | returning
  deriving DecidableEq, Repr

/-- Work that a ray still has to do (R403): an inner node (0) or the records of a leaf by TYPE, the address, how many records,
the instance it lies in. -/
structure RayWork where
  kind : Nat
  addr : Nat
  count : Nat
  inst : Nat
  deriving DecidableEq, Repr

/-- A space that a ray is traced in (R401): origin and direction as FP32, INSTID, whether it forces opaque. -/
structure RaySpace where
  origin : List Nat
  dir : List Nat
  id : Nat
  opaque_ : Bool
  deriving DecidableEq, Repr

/-- The ray of a thread (R402-R407): its operands, the area's offset, whether it is live, the outstanding event (0 none, else
R405's code), whether a report has made the candidate passing, the work in hand, the stack, the world and the instances
entered. -/
structure RayState where
  regs : List W64
  area : Nat
  live : Bool := true
  event : Nat := 0
  passing : Bool := false
  current : Option RayWork := none
  stack : List RayWork := []
  spaces : List RaySpace := []
  /-- The area as the part left it, the hit records apart (R402). -/
  image : List Byte := []
  deriving DecidableEq, Repr

/-- A scratchpad allotment (R222-R240): size, bytes, poisoned granules, absent lines. -/
structure Scratch where
  size : Nat := 0
  bytes : Mem := []
  poison : Marks := []
  absent : Marks := []
  deriving DecidableEq, Repr

/-- A command of `cr.wtcmd` (R396): LOAD or DROP, the table's address, whether it has ended and with what fault. -/
structure WtCmd where
  load : Bool
  table : Nat
  ended : Bool := false
  fault : Option (Nat × Nat) := none
  deriving DecidableEq, Repr

/-- A thread (R103). -/
structure Thread where
  id : Nat
  team : Nat
  /-- `cr.tid`: thread index and SPAWNED (R141). -/
  index : Nat
  spawned : Bool
  slice : Nat
  status : ThreadStatus
  ctx : Ctx
  trap : Option TrapCtx := none
  /-- Register window (R161): bytes, SIZE, poisoned bytes (R180, R182). -/
  win : Mem := []
  winSize : Nat
  winPoison : List Nat := []
  views : List View
  /-- `cr.icarry` (R170). -/
  icarry : BitVec 8 := 0
  /-- `cr.vmark` (R142). -/
  tm : Nat := 0
  /-- `cr.mstat` (R347), `cr.cpyerr` (R377), `cr.lksel` (R441), `cr.rfault` (R458). -/
  mstat : W64 := 0
  cpyerr : W64 := 0
  lksel : W64 := 0
  rfault : W64 := 0
  /-- Window bytes pending for matrix results, each with its word in flight (R345). -/
  pending : List (Nat × Nat) := []
  /-- Faulted accesses not yet taken, oldest first (R297). -/
  faults : List Flight := []
  /-- The q copy and step carried while no crew holds the thread (R115, R318). -/
  q : QCopy := {}
  step : Nat := 0
  /-- The step it was created with (R318, R340). -/
  born : Nat := 0
  /-- The mark of an edge still to be reconciled (R147). -/
  edge : Option Nat := none
  /-- The model's own: the latest mark it has been reconciled against, whose writes are ancestors of its own (R282). -/
  joined : Nat := 0
  /-- Own slice allotment (R222, R224, R240). -/
  priv : Scratch := {}
  frame : Frame := {}
  ray : Option RayState := none
  /-- H per peer (R447). -/
  high : List (Nat × Int) := []
  /-- A command of `cr.wtcmd` that has not ended, or a LOAD that has, for the `csr.w` that waits for it (R396). -/
  wt : Option WtCmd := none
  deriving DecidableEq, Repr

/-! ### Crews, bins (spec/04) -/

/-- A member of a crew: slot, thread, dclk since which it is off-path (R105, R117, R120). -/
structure Member where
  slot : Nat
  tid : Nat
  offSince : Option Nat := none
  deriving DecidableEq, Repr

/-- A scratchpad line (R233): level as R242 codes it, owner (team, cluster or address space), line number. -/
structure ScrLine where
  level : Nat
  owner : Nat
  line : Nat
  deriving DecidableEq, Repr

/-- A crew (R105). Times are dclk of its die. -/
structure Crew where
  id : Nat
  team : Nat
  slice : Nat
  members : List Member
  q : QCopy
  /-- `cr.step` (R317). -/
  step : Nat
  qdiv : Bool := false
  loss : Nat := 0
  /-- The crew runs handlers (R301). -/
  handler : Bool := false
  /-- Lane of the active set, and time of entry (R110). -/
  lane : Option Nat := none
  entered : Nat := 0
  /-- Place in the slice's crew queue: lower is nearer the head (R110). -/
  ticket : Nat := 0
  queuedAt : Nat := 0
  lastIssue : Option Nat := none
  /-- Not ready before this beat (R112), and whether the last group gave way. -/
  gapUntil : Nat := 0
  gaveWay : Bool := false
  /-- Not ready since this dclk (R114); chosen then, its group waited for words under way (R57). -/
  notReadySince : Option Nat := none
  stalled : Bool := false
  /-- Absent lines the crew is parked on (R234). -/
  parked : List ScrLine := []
  /-- The 64 KiB span that the driver has refused to this crew's next group (R253). -/
  refused : Option Nat := none
  deriving DecidableEq, Repr

/-- A bin of a cassette (R115, R301): key and threads with the dclk of filing. -/
structure Bin where
  id : Nat
  place : Place
  trap : Bool
  team : Nat
  pkt : Nat
  word : Nat
  threads : List (Nat × Nat)
  deriving DecidableEq, Repr

/-- A lane: busy until this dclk; taken out of service (R111, R312). -/
structure Lane where
  place : Place
  slice : Nat
  lane : Nat
  busyUntil : Nat := 0
  failed : Bool := false
  deriving DecidableEq, Repr

/-! ### Teams, clusters, grids -/

/-- An arrival at a barrier (R156): the thread, the count it gave, its TM. -/
structure Arrival where
  tid : Nat
  count : Nat
  tm : Nat
  deriving DecidableEq, Repr

/-- A team's or a cluster's barrier (R156): the arrivals of the generation, in order; the first fixes its count. -/
structure Barrier where
  arrived : List Arrival := []
  deriving DecidableEq, Repr

/-- A grid's barrier (R156): the generation's count, the arrivals that each die has not yet reported, those that the master
die has. -/
structure GridBarrier where
  count : Nat := 0
  dies : List (Nat × Arrival) := []
  reported : List Arrival := []
  deriving DecidableEq, Repr

/-- What a member gave at its capture (R344): its rank, thread and word in flight, the slices read (numbered as the matrix
unit's operations name them), the window ranges (offset, length) that results land in. -/
structure Capture where
  rank : Nat
  tid : Nat
  flight : Nat
  slices : List (Nat × List Byte)
  dsts : List (Nat × Nat)
  /-- ROUTE read at the capture of `mepi` (R362). -/
  route : Bool
  deriving DecidableEq, Repr

/-- A convergence register (R157) with the captures of a partly signed generation. -/
structure Cv where
  mask : BitVec 32 := 0
  signed : BitVec 32 := 0
  base : Nat := 0
  decl : Bool := false
  word : W32 := 0
  captures : List Capture := []
  deriving DecidableEq, Repr

/-- An operand-buffer range (R349-R353): the reservation record, bytes, poisoned granules, cursor. -/
structure Handle where
  rec0 : W64
  rec1 : W64
  bytes : Mem := []
  poison : Marks := []
  cursor : Nat := 0
  deriving DecidableEq, Repr

/-- An operand-cache entry (R355): level, line, handle, generation of the team, bytes. -/
structure OpCacheLine where
  level : Nat
  owner : Nat
  line : Nat
  handle : Nat
  gen : Nat
  bytes : List Byte
  deriving DecidableEq, Repr

/-- Registers that belong to a team. -/
structure TeamRegs where
  /-- `cr.binctl` (R119): STRAY, AGE. -/
  binctl : W64 := 0x10000100
  /-- `cr.frmctl` (R143). -/
  frmctl : W64 := 20
  /-- `cr.spcnt` (R231). -/
  spcnt : W64 := 0
  /-- `cr.tvec`, `cr.tctl` (R303). -/
  tvec : W64 := 0
  tctl : W64 := 0
  /-- `cr.mepi0`-`cr.mepi7` (R360), `cr.mroute`, `cr.mrcnt` (R361), `cr.mgrp` (R356). -/
  mepi : List W64 := List.replicate 8 0x3F80000000000000
  mroute : W64 := 0
  mrcnt : W64 := 0
  mgrp : W64 := 0x0001000000000000
  /-- `cr.sched` (R383). -/
  sched : W64 := 0
  /-- `cr.wtbase`, `cr.wtctl` (R396), `cr.rgtime` (R408). -/
  wtbase : W64 := 0
  wtctl : W64 := 1
  rgtime : W64 := 0x3F00000000000000
  /-- `cr.cwto` (R458). -/
  cwto : W64 := 0
  deriving DecidableEq, Repr

/-- Where a team stands. -/
inductive TeamStatus where
  | resident
  | halted
  | swapped
  | preempted
  | retired
  deriving DecidableEq, Repr

/-- A part of a team's state in its save area: its registers, those of a thread, a window, a private allotment, the core scratchpad
allotment, its core's contribution to its cluster's memory (R175, R177, R236, R308-R310). -/
inductive SaveKind where
  | team
  | thread (tid : Nat)
  | window (tid : Nat)
  | priv (tid : Nat)
  | scratch
  | cluster
  deriving DecidableEq, Repr

/-- A run of bytes in a save area, as the part wrote it. -/
structure SaveRun where
  kind : SaveKind
  addr : Nat
  bytes : List Byte
  deriving DecidableEq, Repr

/-- A team (R103). -/
structure Team where
  id : Nat
  /-- Event number of its grid. -/
  grid : Nat
  index : Nat
  place : Place
  /-- Its static cluster (R222). -/
  cluster : Nat := 0
  status : TeamStatus := .resident
  regs : TeamRegs := {}
  /-- Bank-hash key (R228). -/
  hkey : Nat := 0
  scratch : Scratch := {}
  cvs : List Cv := List.replicate 8 {}
  /-- Paceline slots (R214): 128 bytes each. -/
  pace : List (Option (List Byte)) := List.replicate 8 none
  handles : List (Option Handle) := List.replicate 16 none
  opcache : List OpCacheLine := []
  opgen : Nat := 0
  bars : List Barrier := List.replicate 16 {}
  /-- Schedule entries not yet released, by index (R384), and the stage counter (R385). -/
  unreleased : List Nat := []
  /-- Owner tag (R174), package time of the start (R433), energy charged and attributed (R431), issue beats
  since the last whole microsecond. -/
  tag : Nat := 0
  started : Nat := 0
  est : Nat := 0
  energy : Nat := 0
  beats : Nat := 0
  /-- Package time since which it has left its core, and what of it is still parked there (R174-R177, R235): slices 0-15, 16 the core
  scratchpad allotment, 17 the operand-buffer ranges. -/
  parkedAt : Nat := 0
  parkedIn : List Nat := []
  /-- What its save area holds of it (R309). -/
  saved : List SaveRun := []
  /-- A request to pre-empt it is pending (R308). -/
  evict : Bool := false
  /-- Admitted with its static cluster and not started yet (R424, R433). -/
  held : Bool := false
  /-- Retired or halted at a whole microsecond whose step of the energy account is still to come (R431). -/
  settling : Bool := false
  deriving DecidableEq, Repr

/-- A static cluster (R222, R225). -/
structure Cluster where
  id : Nat
  grid : Nat
  index : Nat
  mem : Scratch := {}
  deriving DecidableEq, Repr

/-- A peloton binding's 1,024 bits (R450). -/
abbrev Binding := Nat

/-- A piece of a chunk: its bytes and the ranks that have contributed (R452). -/
structure Piece where
  bytes : List Byte
  have_ : List Nat
  deriving DecidableEq, Repr

/-- A chunk of a collective at this rank (R450-R456): held messages before it is fired and while it waits; the pieces; the
segment (first piece, pieces) it works on; what was sent at each halving step; the exchanges still to come and those
whose wait has ended; since when it waits; whether it lands; the word in flight that fired it. -/
structure Chunk where
  index : Nat
  fired : Bool := false
  flight : Option Nat := none
  pieces : List Piece := []
  seg : Nat × Nat := (0, 0)
  sent : List (Nat × List Piece) := []
  todo : List CollPhase := []
  ended : List CollPhase := []
  since : Nat := 0
  held : List CollMessage := []
  landing : Bool := false
  /-- Its result is written and its add made (R454). -/
  added : Bool := false
  done : Bool := false
  dropped : Nat := 0
  /-- The compute die whose traffic its messages are (R437), and the number under which it waits for the driver with no word in flight. -/
  die : Nat := 0
  engine : Nat := 0
  deriving DecidableEq, Repr

/-- Where a grid stands: waiting for its dependences or ready, running, complete. -/
inductive GridStatus where
  | queued
  | complete
  deriving DecidableEq, Repr

/-- The 16 barriers of a grid's teams on one hardware cluster (R156): its die and cluster number. -/
structure ClusterBars where
  die : Nat
  cluster : Nat
  bars : List Barrier := List.replicate 16 {}
  deriving DecidableEq, Repr

/-- A grid (R415-R429). -/
structure Grid where
  /-- Event number (R418), `cr.event`, in the low 64 bits. -/
  event : Nat
  queue : Nat
  asid : Nat
  /-- The launch record's 2,048 bits (R419). -/
  record : Nat
  status : GridStatus := .queued
  /-- Ready since (R423), in order of readiness. -/
  ready : Option Nat := none
  /-- Next team to start, teams retired, teams halted. -/
  nextTeam : Nat := 0
  retired : Nat := 0
  haltedTeams : Nat := 0
  tstart : Nat := 0
  lastStart : Option Nat := none
  depth : Nat := 0
  /-- The launching thread, and its TM at the launch (R147). -/
  parent : Option Nat := none
  launchTm : Nat := 0
  /-- Largest credited mark of its threads (R145), NRP of any. -/
  mark : Nat := 0
  nrp : Bool := false
  /-- Pool records in use (R137). -/
  pool : List Nat := []
  bars : List GridBarrier := List.replicate 16 {}
  /-- The barriers of its teams on one hardware cluster (R156). -/
  cbars : List ClusterBars := []
  masterDie : Option Nat := none
  energy : Nat := 0
  /-- Cause of the error that ends it (R428). -/
  error : Option Nat := none
  depFailed : Bool := false
  refused : Nat := 0
  /-- Its record is copied and not yet checked: a page of what it names waits (R417). -/
  unchecked : Bool := false
  chunks : List Chunk := []
  /-- The schedule as read at the launch (R382): its header, its entries as (card, layout record). -/
  schedHeader : Nat := 0
  sched : List (Nat × Nat) := []
  /-- The peloton binding as read at the launch (R450); none without one; the package indexes of the ranks it exchanges with. -/
  peloton : Option Binding := none
  ranks : List (Nat × Nat) := []
  /-- The number under which the queue engine waits for the driver on its behalf (R253). -/
  engine : Nat := 0
  /-- Chunks done fully, partially and dropped (R456). -/
  full : Nat := 0
  part : Nat := 0
  drop : Nat := 0
  deriving DecidableEq, Repr

/-- The outcome of a completed event, for dependences (R423). -/
structure EventDone where
  event : Nat
  failed : Bool
  deriving DecidableEq, Repr

/-- A queue (R415-R418): the descriptor's 128 bits, records read, child grids accepted. -/
structure Queue where
  desc : BitVec 128 := 16
  head : Nat := 0
  childCount : Nat := 0
  deriving DecidableEq, Repr

/-! ### Address spaces and memory (spec/08, 09, 12) -/

/-- A view slot of an address space (R330). -/
structure ViewSlot where
  bound : Bool
  readers : Nat
  version : Nat
  deriving DecidableEq, Repr

/-- A loaded kernel (R69): its first packet, its packets, the views of its descriptor. -/
structure KernelDesc where
  first : Nat
  packets : Nat
  views : List View
  deriving DecidableEq, Repr

/-- An address-space block (R469, with R227, R229, R250, R255, R325, R327, R330, R446). -/
structure Asid where
  id : Nat
  root : W64 := 0
  asctl : W64 := 7
  hkey : W64 := 0
  pkwin : W64 := 0
  vpool : W64 := 0
  vctl : W64 := 0x1
  vrgnb : List W64 := List.replicate 8 0
  vrgns : List W64 := List.replicate 8 0
  vslots : List ViewSlot := { bound := true, readers := 0, version := 0xFFFFFF } :: List.replicate 15 { bound := false, readers := 0, version := 0 }
  cntwin : W64 := 0
  /-- Package scratchpad window (R222, R227). -/
  pk : Scratch := {}
  /-- Kernels that the driver has loaded (R69), for the views of spawned threads (R166). -/
  kernels : List KernelDesc := []
  deriving DecidableEq, Repr

/-- An L1 line (R256, R257): core, address space, view slot, line address, 128 bytes, fill time. -/
structure L1Line where
  place : Place
  asid : Nat
  slot : Nat
  line : Nat
  data : Mem
  poison : Marks := []
  ft : Nat
  deriving DecidableEq, Repr

/-- An L2 line (R258, R323). -/
structure L2Line where
  die : Nat
  asid : Nat
  slot : Nat
  line : Nat
  pa : Nat
  data : Mem
  poison : Marks := []
  state : L2State
  /-- Lease expiry of an S copy; EXP known to an owner (R258, R260). -/
  expiry : Nat := 0
  exp : Nat := 0
  /-- LV and SF of a versioned page's line (R323). -/
  lv : Nat := 0
  sf : Nat := 0
  versioned : Bool := false
  deriving DecidableEq, Repr

/-- A directory entry (R258, R261): physical line, owner die, latest lease expiry. -/
structure DirEntry where
  pa : Nat
  owner : Option Nat
  exp : Nat
  deriving DecidableEq, Repr

/-- A copy-on-write in progress (R322): address space, the page's first byte, the pool entry, the new step. -/
structure CopyOnWrite where
  asid : Nat
  page : Nat
  entry : Nat
  step : Nat
  deriving DecidableEq, Repr

/-- A page-request entry (R253, R471): use count, kind of the first access, whether it holds an unanswered request,
the words in flight and the crews (instruction fetches) that wait on it. -/
structure PageRequest where
  index : Nat
  uses : Nat := 0
  valid : Bool := false
  asid : Nat := 0
  kind : Nat := 0
  va : Nat := 0
  time : Nat := 0
  waiting : List Nat := []
  fetchers : List Nat := []
  /-- Engines that wait with no word in flight: jobs and threads by number, 0 for an AUTO chunk. -/
  engines : List Nat := []
  deriving DecidableEq, Repr

/-- Memory and its translation. -/
structure MemoryState where
  /-- Device memory by physical address (R247), poisoned granules (R263). -/
  dram : Mem := []
  poison : Marks := []
  /-- Host memory behind MT 2 and 3 (R264). -/
  host : Mem := []
  l1 : List L1Line := []
  l2 : List L2Line := []
  dir : List DirEntry := []
  /-- Expiry floors of directory sets (R261): the slice's quadrant and the set (R13), the time. -/
  floors : List ((Nat × Nat) × Nat) := []
  /-- The model's own: the latest visibility time of what has been written at a home (R260, R290). -/
  homeVt : Nat := 0
  cows : List CopyOnWrite := []
  /-- Mailbox map (R469). -/
  mailbox : List W64 := []
  /-- Mailbox lines that wait for a back-invalidate answer, and those answered whose write is still to be performed (R266). -/
  backInval : List Nat := []
  snooped : List Nat := []
  requests : List PageRequest := []
  /-- Spans refused to engines with no word in flight (R253): the engine, address space, first byte. -/
  refused : List (Nat × Nat × Nat) := []
  requestsPosted : Nat := 0
  requestsAnswered : Nat := 0
  /-- Failed channels (stack, channel) not remapped (R312, R477). -/
  failedChannels : List (Nat × Nat) := []
  /-- Stacks whose spare channel is in use (R477). -/
  spareChannels : List Nat := []
  failedQuads : List Nat := []
  /-- Grids with an engine that waits for a fenced quadrant (R312): (quadrant, grid). -/
  quadWaits : List (Nat × Nat) := []
  /-- Records of the part on their way to a home that is fenced, or to a mailbox line that the host must answer for (R266, R312), in order:
  address space, address, bytes. -/
  heldRecords : List (Nat × Nat × List Byte) := []
  /-- Lost threads whose frame record stands at a fenced home: they are replayed once it can be read (R312, R313). -/
  heldReplays : List Nat := []
  deriving DecidableEq, Repr

/-! ### Engines, links, host -/

/-- A range of a footprint (R373, R380): the scratchpad level (4: virtual memory) and its owner (an address space there), the
first byte, the length, whether it may be written. -/
structure JobRange where
  level : Nat
  owner : Nat
  base : Nat
  len : Nat
  write : Bool
  deriving DecidableEq, Repr

/-- A job that a grid's task scheduler has accepted (R368-R384), in acceptance order. -/
structure Job where
  id : Nat
  grid : Nat
  team : Nat
  /-- The die that issues it. -/
  die : Nat
  /-- 0 `cpy`, 1 `cpyq`, 2 `gat`, 3 `pace`, 4 a schedule entry. -/
  word : Nat
  /-- The issuing word in flight and the register of its status; the index of a schedule entry. -/
  flight : Option Nat := none
  dst : Dst := .none
  entry : Option Nat := none
  /-- Card and layout record as copied at issue (R375). -/
  card : Nat := 0
  record : Nat := 0
  step : Nat := 0
  /-- The `ver` of the word, if it had one (R378). -/
  ver : Option VerSel := none
  foot : List JobRange := []
  /-- Scratch lines whose presence bits it cleared. -/
  cleared : List ScrLine := []
  started : Bool := false
  /-- Destination lines landed, the latest visibility time of its writes, a substituted read. -/
  landed : List Nat := []
  vt : Nat := 0
  sub : Bool := false
  deriving DecidableEq, Repr

/-- A matrix generation (R346): its word and captures; while its bias lines are absent it waits to issue (R362); then its
results: window bytes to write (thread, offset, bytes), status, configuration failure, tiles to send (index, bytes), handles
whose cursors advance; the members whose results have landed wait for the tiles' acknowledgements. -/
structure Gen where
  id : Nat
  team : Nat
  word : SetWord
  captures : List Capture
  waiting : Bool := true
  writes : List (Nat × Nat × List Byte) := []
  status : Nat := 0
  merr : Option Nat := none
  tiles : List (Nat × List Byte) := []
  /-- `cr.mroute` and `cr.mrcnt` as they stood at its issue (R346, R361). -/
  mroute : W64 := 0
  mrcnt : W64 := 0
  handles : List Nat := []
  landed : Bool := false
  deriving DecidableEq, Repr

/-- An arrival counter (R446). -/
structure Counter where
  index : Nat
  count : BitVec 32
  mark : Nat
  deriving DecidableEq, Repr

/-- A weight table held by a core (R397). -/
structure WeightTable where
  place : Place
  asid : Nat
  va : Nat
  bytes : List Byte
  used : Nat
  deriving DecidableEq, Repr

/-- A fault record (R311). -/
structure FaultRecord where
  die : Nat
  index : Nat
  bits : Nat
  deriving DecidableEq, Repr

/-- A slot of a link port (R438-R441): STATE, PHYS, EVFLIT, WDRAW, CBE of `cr.lkerr`; the hub time at which the training in
hand began, its windows so far, the spare that trains in place of the slot's own wavelength. -/
structure LinkSlot where
  state : Nat := 0
  phys : Nat := 0
  evflit : Nat := 0
  wdraw : Nat := 0
  cbe : Nat := 0
  since : Nat := 0
  windows : Nat := 0
  spare : Option Nat := none
  deriving DecidableEq, Repr

/-- A link port (R437-R441): FLITS, its slots, the spare wavelengths of its fibre that its slots have taken. -/
structure Port where
  die : Nat
  port : Nat
  flits : Nat := 0
  slots : List LinkSlot
  spares : List Nat := []
  deriving DecidableEq, Repr

/-- Links and counters. -/
structure LinkState where
  ports : List Port := []
  /-- Route table: (peer, die, port) (R469, R470). -/
  routes : List (Nat × Nat × Nat) := []
  thresh : Nat := 4096
  pkidx : Nat := 0
  rto : Nat := 1000
  counters : List Counter := []
  /-- Collective messages sent, newest first, with the rank each goes to. -/
  sent : List (Nat × CollMessage) := []
  /-- Remote requests that wait for the driver, by a number of their own (R253, R442). -/
  waiting : List (Nat × RemoteRequest) := []
  /-- Answers sent to peers, newest first (R442, R447). -/
  answers : List (Nat × RemoteAnswer) := []
  deriving DecidableEq, Repr

/-- The energy account (R430, R431). -/
structure EnergyState where
  account : Int := 4200000
  capus : Nat := 1000
  limit : Nat := 4200
  limerr : Bool := false
  /-- Values in force since the last whole microsecond, and that time. -/
  capusNow : Nat := 1000
  limitNow : Nat := 4200
  lastTick : Nat := 0
  deriving DecidableEq, Repr

/-- An Ethernet port's register block (R476). -/
structure EthPort where
  regs : List (Nat × W64) := []
  /-- The frame of the transmit descriptor at HEAD has been sent: its FLAGS are still to be written. -/
  sent : Bool := false
  /-- A received frame that has taken its descriptor and is still to be written. -/
  held : Option (List Byte) := none
  deriving DecidableEq, Repr

/-- Host interface and service processor (R468-R479). -/
structure HostState where
  /-- Bring-up stage and failure (R472). -/
  stage : Nat := 0
  fail : Nat := 0
  /-- The running firmware, and an image staged for the next reset (R473); the identity keys follow the first (R474). -/
  firmware : Firmware := {}
  staged : Option Firmware := none
  /-- Service command block: arguments, command, status, busy, lost (R470). -/
  margs : List W64 := [0, 0, 0, 0]
  mcmd : W64 := 0
  /-- The command in progress and the STATUS that it will leave. -/
  busy : Option (Nat × Nat) := none
  /-- What the command in progress acts on. -/
  busyArgs : List Nat := []
  status : Nat := 0
  lost : Bool := false
  aperture : W64 := 0
  nonce : List Byte := []
  atst : Nat := 0
  report : List Byte := []
  eth : List EthPort := List.replicate 4 {}
  spareCores : List Nat := [8, 8, 8, 8]
  lostCores : List Place := []
  coresLost : Nat := 0
  counters : List (Nat × W64) := []
  /-- MSI-X vectors raised, newest first (R471). -/
  msix : List Nat := []
  /-- The bytes of the host's latest aperture read (R468). -/
  lastRead : List Byte := []
  /-- Ethernet frames sent, newest first (R475). -/
  framesOut : List (Nat × List Byte) := []
  deriving DecidableEq, Repr

/-! ### Issue -/

/-- A participant's cause at issue: thread, cause, value (R46). -/
structure Raised where
  tid : Nat
  cause : Nat
  val : Nat
  /-- Index of the word. -/
  word : Nat := 0
  late : Bool := false
  pipe : Nat := 0
  fault : Option Flight := none
  deriving DecidableEq, Repr

/-- What the word at issue has come to. -/
inductive IssueStatus where
  | ran
  /-- A condition of readiness does not hold (R109): nothing has issued. -/
  | stalled
  /-- The crew is parked on absent lines (R234). -/
  | parked
  /-- Pending faults have been taken at their holding point (R296). -/
  | late
  | raised (causes : List Raised)
  deriving DecidableEq, Repr

/-- The tied group at issue (R39, R46): the crew, the group's address, the word at issue, the last word's index,
the active members in compacted order, the modifiers met, the `sign` met, the registers before the group (R40),
and what became of it. -/
structure IssueCtx where
  crew : Nat
  pkt : Nat
  entry : Nat
  last : Nat
  /-- Number of this issue: that of the first record it may make. -/
  num : Nat := 0
  word : Nat
  bits : W32
  /-- Words of the group, for `sign` (R159). -/
  words : List W32
  active : List Nat
  pfx : Pfx := {}
  signed : Option Nat := none
  /-- Threads and q copy before the group. -/
  before : List Thread
  beforeQ : QCopy
  /-- `cr.step` and the team's registers before the group. -/
  beforeStep : Nat := 0
  beforeRegs : TeamRegs := {}
  status : IssueStatus := .ran
  /-- Every word of the group has passed its checks: its effects are being made (R46). -/
  checked : Bool := false
  /-- Members whose next address a word of the group has set (R41). -/
  jumped : List Nat := []
  /-- Words in flight the group has started: flight, index of the word, its LA. -/
  born : List (Nat × Nat × Nat) := []
  deriving DecidableEq, Repr

/-- The model's own fields: no part of the machine (log 3, log 4). -/
structure Control where
  /-- Events and inputs still to happen, in order. -/
  agenda : List Instr := []
  /-- Which enabled event comes next when the agenda is empty. -/
  turn : Nat := 0
  /-- The crew whose group issues next. -/
  focus : Option Nat := none
  issue : Option IssueCtx := none
  /-- Next number for a thread, crew, bin, team, cluster, flight, generation, job, ticket, tag. -/
  nextId : Nat := 1
  /-- Counter of free values. -/
  fresh : Nat := 0
  deriving DecidableEq, Repr

/-- The state of the part. -/
structure State where
  time : TimeState := {}
  threads : List Thread := []
  crews : List Crew := []
  bins : List Bin := []
  lanes : List Lane := []
  teams : List Team := []
  clusters : List Cluster := []
  grids : List Grid := []
  events : List EventDone := []
  queues : List Queue := List.replicate 256 {}
  asids : List Asid := []
  flights : List Flight := []
  gens : List Gen := []
  jobs : List Job := []
  tables : List WeightTable := []
  mem : MemoryState := {}
  links : LinkState := {}
  energy : EnergyState := {}
  host : HostState := {}
  records : List FaultRecord := []
  /-- Fault records lost per die (R311, R479). -/
  recordsLost : List Nat := [0, 0, 0, 0]
  ctl : Control := {}
  deriving DecidableEq, Repr

/-- The part after power-on (R472): stage 0, nothing loaded, every register at its reset value. -/
def State.reset : State := {}

end Sys2Proof.Machine
end

