-- ==== Sys2Proof/Machine/Access.lean ====
section
/-! DEFINITION. What loads, atomics, reductions and moment words compute (spec/08 R241, R242; spec/09 R272, R273; spec/15
R411, R412). -/
namespace Sys2Proof.Machine

/-- Bytes of an access type: the DFMT field, 0 meaning `.n64` (R241, R268). -/
def accBytes (dfmt : Nat) : Nat := fmtBits (orDefault dfmt 15) / 8

/-- The result of a load of a type (R241): `.i` types sign-extended, the rest zero-extended. -/
def loadExtend (dfmt v : Nat) : W64 :=
  let f := orDefault dfmt 15
  if isSignedFmt f then sext64 (fmtBits f) v else BitVec.ofNat 64 (v % 2 ^ fmtBits f)

/-- The sum of two floats rounded to nearest-even (R242, R273). -/
def floatAdd (f a b : Nat) : Nat := (roundTo f 0 false 0 (exactSum false [(fpDecode f a).exact, (fpDecode f b).exact])).bits

/-- What an atomic stores (the table of R242): old value, operand d, second operand of `cas`. -/
def atomResult (op : AtomOp) (dfmt old d d2 : Nat) : Nat :=
  let f := orDefault dfmt 15
  let w := fmtBits f
  match op with
  | .add => if isFloatFmt f then floatAdd f old d else (old + d) % 2 ^ w
  | .min => if isFloatFmt f then (fpMinMax f false old d).bits
    else if isSignedFmt f then (if toSigned w d < toSigned w old then d else old) else min old d
  | .max => if isFloatFmt f then (fpMinMax f true old d).bits
    else if isSignedFmt f then (if toSigned w old < toSigned w d then d else old) else max old d
  | .and => old &&& d
  | .or => old ||| d
  | .xor => old ^^^ d
  | .xchg => d
  | .cas => if old = d then d2 else old

/-- A float element as an exact dyadic, if finite. -/
def finOf : FpVal → Option (Int × Int)
  | .fin neg m e => some (if neg then -(m : Int) else m, e)
  | _ => none

/-- An exact value as a datum. -/
def Exact.toVal : Exact → FpVal
  | .num n m e _ => .fin n m e
  | .inf n => .inf n
  | .nan i => .nan i

/-- A value clamped to [-1, 1]; a NaN stays. -/
def clampUnit (x : FpVal) : FpVal :=
  let one := FpVal.fin false 1 0
  if x.isNaN then x else if fpLess one x then one else if fpLess x (.fin true 1 0) then .fin true 1 0 else x

/-- `mom.acc` (R411) on the five FP32 numbers of a record: alpha and z from the operand. -/
def momentAdd (record operand : Nat) : Nat :=
  let alpha := fpDecode 2 (fld operand 0 32)
  let alpha := if !alpha.isNaN && fpLess alpha (.fin false 0 0) then .fin false 0 0 else alpha
  let z := clampUnit (fpDecode 2 (fld operand 32 32))
  let term := fun k => (List.range k).foldl (fun acc _ => (fpMul acc z).toVal) alpha
  pack 32 ((List.range 5).map (fun k =>
    (roundTo 2 0 false 0 (exactSum false [(fpDecode 2 (elem 32 k record)).exact, (term k).exact])).bits))

/-! ### `mom.res` (R412): a chain of FP32 values, each assignment rounded once -/

/-- A rounded FP32 value. -/
def r32 (x : Exact) : Nat := (roundTo 2 0 false 0 x).bits
/-- An FP32 value as a datum. -/
def v32 (b : Nat) : FpVal := fpDecode 2 b
/-- An exact product of data. -/
def mulV (x y : FpVal) : FpVal := (fpMul x y).toVal
/-- An exact sum of data. -/
def addV (xs : List FpVal) : FpVal := (exactSum false (xs.map FpVal.exact)).toVal
/-- A quotient rounded once to a format: IEEE 754 for the special operands. -/
def divF (f : Nat) (x y : FpVal) : Nat :=
  match x, y with
  | .fin n m e, .fin k j d =>
    if j = 0 then (if m = 0 then fpNaN f else fpSign f (xor n k) + fpInfBits f)
    else if m = 0 then fpSign f (xor n k) else (roundTo f 0 false 0 (exactQuot (xor n k) m e j d)).bits
  | .inf n, .fin k _ _ => fpSign f (xor n k) + fpInfBits f
  | .fin n _ _, .inf k => fpSign f (xor n k)
  | _, _ => fpNaN f
/-- A square root rounded once to a format. -/
def sqrtF (f : Nat) (x : FpVal) : Nat :=
  match x with
  | .fin n m e => if m = 0 then fpSign f n else if n then fpNaN f else (roundTo f 0 false 0 (exactSqrt m e)).bits
  | .inf n => if n then fpNaN f else fpInfBits f
  | .nan _ => fpNaN f
/-- FP32 quotient and root. -/
def divR (x y : FpVal) : Nat := divF 2 x y
def sqrtR (x : FpVal) : Nat := sqrtF 2 x
/-- Whether bits of FP32 are NaN or infinite. -/
def badF32 (b : Nat) : Bool := fld b 23 8 == 255
/-- A rational constant n 2^e. -/
def cV (n : Int) (e : Int) : FpVal := .fin (decide (n < 0)) n.natAbs e

/-- `mom.res` (R412): T from the moments b and z, both FP32 bits. -/
def momentRes (record zb : Nat) : Nat :=
  let b := fun k => v32 (elem 32 k record)
  let b0 := b 0
  let z0 := v32 zb
  if b0.isNaN || z0.isNaN then fpNaN 2
  else if !fpLess (cV 0 0) b0 then 0x3F800000
  else
    let z := clampUnit z0
    let neg := FpVal.negate
    let m := fun k => v32 (divR (b k) b0)
    let keep := cV (2 ^ 21 - 1) (-21)
    let m1 := v32 (r32 (fpMul keep (m 1)))
    let m2 := v32 (r32 (addV [mulV keep (m 2), cV 3 (-24)]).exact)
    let m3 := v32 (r32 (fpMul keep (m 3)))
    let m4 := v32 (r32 (addV [mulV keep (m 4), cV 3 (-24)]).exact)
    let l := v32 (r32 (addV [m3, neg (mulV m1 m2)]).exact)
    let d1 := v32 (r32 (addV [m2, neg (mulV m1 m1)]).exact)
    let l21 := v32 (divR l d1)
    let br := v32 (r32 (addV [m4, neg (mulV m2 m2)]).exact)
    let d2 := v32 (r32 (addV [br, neg (mulV l l21)]).exact)
    let c1 := v32 (r32 (addV [z, neg m1]).exact)
    let c2 := v32 (r32 (addV [mulV z z, neg m2, neg (mulV l21 c1)]).exact)
    let c1 := v32 (divR c1 d1)
    let c2 := v32 (divR c2 d2)
    let c1 := v32 (r32 (addV [c1, neg (mulV l21 c2)]).exact)
    let c0 := v32 (r32 (addV [cV 1 0, neg (mulV c1 m1), neg (mulV c2 m2)]).exact)
    let p := v32 (divR c1 c2)
    let q := v32 (divR c0 c2)
    let r := v32 (sqrtR (addV [mulV (mulV p p) (cV 1 (-2)), neg q]))
    let z1 := v32 (r32 (addV [neg (mulV p (cV 1 (-1))), neg r]).exact)
    let z2 := v32 (r32 (addV [neg (mulV p (cV 1 (-1))), r]).exact)
    let f1 := if !z1.isNaN && fpLess z1 z then cV 1 0 else cV 0 0
    let f2 := if !z2.isNaN && fpLess z2 z then cV 1 0 else cV 0 0
    let f01 := v32 (divR (addV [f1, cV (-1) (-2)]) (addV [z1, neg z]))
    let f12 := v32 (divR (addV [f2, neg f1]) (addV [z2, neg z1]))
    let f012 := v32 (divR (addV [f12, neg f01]) (addV [z2, neg z]))
    let q0 := v32 (r32 (addV [f01, neg (mulV f012 z1)]).exact)
    let q1 := v32 (r32 (addV [q0, neg (mulV f012 z)]).exact)
    let ab := v32 (r32 (addV [cV 1 (-2), neg (mulV q0 z), mulV m1 q1, mulV m2 f012]).exact)
    let isBad := fun (x : FpVal) => match x with | .fin _ _ _ => false | _ => true
    let anyBad := [b0, m 1, m 2, m 3, m 4, m1, m2, m3, m4, l, d1, l21, br, d2, c1, c2, c0, p, q, r, z1, z2, f01, f12, f012, q0, q1, ab].any isBad
    let ab := if anyBad then (if !m1.isNaN && !fpLess z m1 then cV 1 0 else cV 0 0) else ab
    let ab := if fpLess ab (cV 0 0) then cV 0 0 else if fpLess (cV 1 0) ab then cV 1 0 else ab
    let x := r32 (addV [mulV (mulV b0 ab) (v32 0x3FB8AA3B)]).exact
    (sfuElem 4 2 (x ^^^ 0x80000000) 0).bits

/-- What a completed load gives, from the bytes it read (R241, R269, R412): 8 bytes for a datum, the bytes
themselves for wider forms. -/
def loadResult (op : MemOp) (size dfmt : Nat) (bs : List Byte) : List Byte :=
  match op with
  | .momRes z => natToBytes 8 (fld (bytesToNat bs) 0 32 * 2 ^ 32 + momentRes (bytesToNat bs) z.toNat)
  | _ => if size ≤ 8 then natToBytes 8 (loadExtend dfmt (bytesToNat bs)).toNat else bs

end Sys2Proof.Machine
end

