-- ==== Sys2Proof/Machine/Ops.lean ====
section
/-! DEFINITION. The named operations every meaning is written with: records found and changed by number, window and `q`
bytes, scoreboard slots, filing and drawing (spec/04 R115-R120), fault records (spec/11 R311), taking a trap
(R299-R302) and its companions. -/
namespace Sys2Proof.Machine

/-! ### Records -/

/-- The outcome of a step of this machine. -/
abbrev Result := Host.Outcome State Fault Refusal

/-- The first element that satisfies p, changed. -/
def modFirst {α : Type} (p : α → Bool) (f : α → α) : List α → List α
  | [] => []
  | x :: xs => if p x then f x :: xs else x :: modFirst p f xs

/-- Element n of a list changed. -/
def modAt {α : Type} (f : α → α) : Nat → List α → List α
  | _, [] => []
  | 0, x :: xs => f x :: xs
  | n + 1, x :: xs => x :: modAt f n xs

def State.thread? (s : State) (t : Nat) : Option Thread := s.threads.find? (fun x => x.id == t)
def State.modThread (s : State) (t : Nat) (f : Thread → Thread) : State :=
  { s with threads := modFirst (fun x => x.id == t) f s.threads }
def State.crew? (s : State) (c : Nat) : Option Crew := s.crews.find? (fun x => x.id == c)
def State.modCrew (s : State) (c : Nat) (f : Crew → Crew) : State :=
  { s with crews := modFirst (fun x => x.id == c) f s.crews }
def State.team? (s : State) (t : Nat) : Option Team := s.teams.find? (fun x => x.id == t)
def State.modTeam (s : State) (t : Nat) (f : Team → Team) : State :=
  { s with teams := modFirst (fun x => x.id == t) f s.teams }
def State.grid? (s : State) (e : Nat) : Option Grid := s.grids.find? (fun x => x.event == e)
def State.modGrid (s : State) (e : Nat) (f : Grid → Grid) : State :=
  { s with grids := modFirst (fun x => x.event == e) f s.grids }
def State.cluster? (s : State) (g i : Nat) : Option Cluster := s.clusters.find? (fun x => x.grid == g && x.index == i)
def State.modCluster (s : State) (c : Nat) (f : Cluster → Cluster) : State :=
  { s with clusters := modFirst (fun x => x.id == c) f s.clusters }
def State.asid? (s : State) (a : Nat) : Option Asid := s.asids.find? (fun x => x.id == a)
def State.flight? (s : State) (f : Nat) : Option Flight := s.flights.find? (fun x => x.id == f)
def State.modFlight (s : State) (f : Nat) (g : Flight → Flight) : State :=
  { s with flights := modFirst (fun x => x.id == f) g s.flights }
def State.dropFlight (s : State) (f : Nat) : State := { s with flights := s.flights.filter (fun x => x.id != f) }
def State.job? (s : State) (j : Nat) : Option Job := s.jobs.find? (fun x => x.id == j)
def State.modJob (s : State) (j : Nat) (f : Job → Job) : State :=
  { s with jobs := modFirst (fun x => x.id == j) f s.jobs }
def State.gen? (s : State) (g : Nat) : Option Gen := s.gens.find? (fun x => x.id == g)
def State.bin? (s : State) (b : Nat) : Option Bin := s.bins.find? (fun x => x.id == b)

/-- The block of an address space, at its reset values where none has been written (R469). -/
def State.asidBlock (s : State) (a : Nat) : Asid := (s.asid? a).getD { id := a }

/-- An address-space block changed. -/
def State.modAsid (s : State) (a : Nat) (f : Asid → Asid) : State :=
  if (s.asid? a).isSome then { s with asids := modFirst (fun x => x.id == a) f s.asids }
  else { s with asids := s.asids ++ [f { id := a }] }

/-- The model's own fields changed. -/
def State.modCtl (s : State) (f : Control → Control) : State := { s with ctl := f s.ctl }
/-- The host interface changed. -/
def State.modHost (s : State) (f : HostState → HostState) : State := { s with host := f s.host }
/-- Memory changed. -/
def State.modMem (s : State) (f : MemoryState → MemoryState) : State := { s with mem := f s.mem }
/-- Links changed. -/
def State.modLinks (s : State) (f : LinkState → LinkState) : State := { s with links := f s.links }

/-- The next number for a record, and the state that has used it. -/
def State.newId (s : State) : Nat × State := (s.ctl.nextId, s.modCtl (fun c => { c with nextId := c.nextId + 1 }))

/-- A free choice among n candidates, the only one where there is one: log 7. -/
def State.choose (s : State) (n : Nat) : Nat × State :=
  (if n ≤ 1 then 0 else Config.pick s.ctl.fresh % n, s.modCtl (fun c => { c with fresh := c.fresh + 1 }))

/-! ### Time and place -/

/-- Whether a thread holds its place, window and allotment on its team's core. -/
def Thread.resident (t : Thread) : Bool :=
  match t.status with
  | .retired | .halted => false
  | _ => true

/-- The place of a thread: that of its team (R103, R104). -/
def State.placeOf (s : State) (t : Thread) : Place := match s.team? t.team with | some m => m.place | none => ⟨0, 0, 0⟩

/-- The grid of a thread's team. -/
def State.gridOf (s : State) (t : Thread) : Option Grid := (s.team? t.team).bind (fun m => s.grid? m.grid)

/-- The address space of a thread. -/
def State.asidOf (s : State) (t : Thread) : Nat := match s.gridOf t with | some g => g.asid | none => 0

/-- The local copy of package time of compute die 0-3 or of quadrant 0-3 as receiver 4-7 (R19). -/
def State.localTime (s : State) (r : Nat) : Nat := (s.time.receivers.getD r {}).copy

/-- The guard band a receiver applies, in ns (R25): a change the hub has sent applies from the moment at which the local copy reaches its
effective time (R26). -/
def Receiver.band (x : Receiver) : Nat := 8 * x.changes.foldl (fun g c => if c.1 ≤ x.copy then c.2 else g) x.guard
def State.guardBand (s : State) (r : Nat) : Nat := (s.time.receivers.getD r {}).band

/-- The expiry up to which a receiver has given up its leases (R23): its copy plus the guard band, the largest that has been. -/
def Receiver.reach (x : Receiver) : Nat := max x.horizon (x.copy + x.band)
def State.leaseReach (s : State) (r : Nat) : Nat := (s.time.receivers.getD r {}).reach

/-- The dclk count of a compute die (R5). -/
def State.dclk (s : State) (die : Nat) : Nat := s.time.dclk.getD die 0 / 1000000

/-- A compute die's count of dclk raised by n beats. -/
def State.addBeats (s : State) (die n : Nat) : State :=
  { s with time := { s.time with dclk := modAt (· + n * 1000000) die s.time.dclk } }

/-- Compute die d is fenced (R22, R315). -/
def State.dieFenced (s : State) (d : Nat) : Bool := (s.time.receivers.getD d {}).fenced

/-! ### Window and q bytes (spec/06 R161-R168, R182) -/

/-- A window after a write: the bytes change and lose their poison (R182). -/
def Thread.write (t : Thread) (off : Nat) (bs : List Byte) : Thread :=
  { t with win := t.win.writeN off bs
           winPoison := t.winPoison.filter (fun p => !(decide (off ≤ p) && decide (p < off + bs.length))) }

/-- A q copy after a write. -/
def QCopy.write (q : QCopy) (off : Nat) (bs : List Byte) : QCopy :=
  { regs := q.regs.writeN off bs
    poison := q.poison.filter (fun p => !(decide (off ≤ p) && decide (p < off + bs.length))) }

/-- Register n of a q copy. -/
def QCopy.get (q : QCopy) (n : Nat) : W64 := q.regs.read64 (8 * n)

/-- A q copy with register n set. -/
def QCopy.set (q : QCopy) (n : Nat) (v : W64) : QCopy := q.write (8 * n) (natToBytes 8 v.toNat)

/-- A result landing where it was resolved at issue (R167, R108); a crew that has ended has no q copy. -/
def State.land (s : State) (tid : Nat) (d : Dst) (bs : List Byte) : State :=
  match d with
  | .none => s
  | .win off => s.modThread tid (·.write off bs)
  | .q c r => s.modCrew c (fun x => { x with q := x.q.write (8 * r) bs })

/-- An 8-byte result landing. -/
def State.land64 (s : State) (tid : Nat) (d : Dst) (v : W64) : State := s.land tid d (natToBytes 8 v.toNat)

/-- The context that runs: its fields change through this. -/
def Thread.modCtx (t : Thread) (f : Ctx → Ctx) : Thread := { t with ctx := f t.ctx }

/-- A thread's code address set (R37). -/
def Thread.goto (t : Thread) (pkt word : Nat) : Thread := t.modCtx (fun c => { c with pkt := pkt, word := word })

/-- A predicate. -/
def Ctx.pred (c : Ctx) (p : Nat) : Bool := c.preds.getLsbD p

/-- The eight predicates with one set. -/
def setPredBits (v : BitVec 8) (p : Nat) (b : Bool) : BitVec 8 :=
  if b then v ||| BitVec.ofNat 8 (2 ^ p) else v &&& ~~~(BitVec.ofNat 8 (2 ^ p))

/-- A predicate set in the running context. -/
def Thread.setPred (t : Thread) (p : Nat) (b : Bool) : Thread := t.modCtx (fun c => { c with preds := setPredBits c.preds p b })

/-- The context of a thread that a word issued in (R300): the word's slot counts there. -/
def Thread.modWordCtx (t : Thread) (trapCtx : Bool) (f : Ctx → Ctx) : Thread :=
  match t.trap with
  | some x => if trapCtx then t.modCtx f else { t with trap := some { x with saved := f x.saved } }
  | none => if trapCtx then t else t.modCtx f

/-- A slot raised by one at issue (R54). -/
def Thread.slotUp (t : Thread) (sb : Nat) : Thread := t.modCtx (fun c => { c with slots := modAt (· + 1) sb c.slots })

/-- A slot lowered by one at completion, in the context the word issued in (R54, R300). -/
def Thread.slotDown (t : Thread) (trapCtx : Bool) (sb : Nat) : Thread :=
  t.modWordCtx trapCtx (fun c => { c with slots := modAt (· - 1) sb c.slots })

/-- A completed flight leaves, and its slot falls in every thread that counts it (R54). -/
def State.completeFlight (s : State) (f : Flight) : State :=
  let s := match f.sb with
    | none => s
    | some sb => f.tids.foldl (fun s t => s.modThread t (·.slotDown f.trapCtx sb)) s
  s.dropFlight f.id

/-- TM rises to a visibility time (R144). -/
def Thread.raiseTm (t : Thread) (vt : Nat) : Thread := { t with tm := max t.tm vt }

/-- NRP set in a thread's frame (R146). -/
def Thread.setNrp (t : Thread) : Thread := { t with frame := { t.frame with nrp := true } }

/-- `setflag`: flags ORed into the running context or, for a word that completes later, into the context it
issued in (R91). -/
def Thread.orFlags (t : Thread) (trapCtx : Bool) (f : BitVec 5) : Thread :=
  t.modWordCtx trapCtx (fun c => { c with fflags := c.fflags ||| f })

/-! ### Crews -/

/-- Whether code address (p, w) comes before (p', w') (R106). -/
def addrLt (p w p' w' : Nat) : Bool := p < p' || (p == p' && w < w')

/-- The threads of a crew in slot order. -/
def State.crewThreads (s : State) (c : Crew) : List (Nat × Thread) :=
  c.members.filterMap (fun m => (s.thread? m.tid).map (fun t => (m.slot, t)))

/-- The crew address (R106): the lowest code address of its members. -/
def State.crewAddr (s : State) (c : Crew) : Option (Nat × Nat) :=
  (s.crewThreads c).foldl (fun acc x =>
    match acc with
    | none => some (x.2.ctx.pkt, x.2.ctx.word)
    | some (p, w) => if addrLt x.2.ctx.pkt x.2.ctx.word p w then some (x.2.ctx.pkt, x.2.ctx.word) else acc) none

/-- The active members in compacted thread order (R106); members stand in slot order. -/
def State.activeOf (s : State) (c : Crew) : List Nat :=
  match s.crewAddr c with
  | none => []
  | some (p, w) => ((s.crewThreads c).filter (fun x => x.2.ctx.pkt == p && x.2.ctx.word == w)).map (fun x => x.2.id)

/-- The crew of a thread. -/
def State.crewOf (s : State) (tid : Nat) : Option Crew := s.crews.find? (fun c => c.members.any (fun m => m.tid == tid))

/-- A thread leaves its crew, taking the crew's q copy and step; a crew without members ends (R105, R115). -/
def State.leaveCrew (s : State) (tid : Nat) : State :=
  match s.crewOf tid with
  | none => s
  | some c =>
    let s := s.modThread tid (fun t => { t with q := c.q, step := c.step })
    let s := s.modCrew c.id (fun c => { c with members := c.members.filter (fun m => m.tid != tid) })
    { s with crews := s.crews.filter (fun c => !c.members.isEmpty) }

/-! ### Bins (R115-R118) -/

/-- The key order of the threads of a bin: ascending thread index. -/
def insertByIndex (x : Nat × Nat) : List (Nat × Nat) → List (Nat × Nat)
  | [] => [x]
  | y :: ys => if x.1 ≤ y.1 then x :: y :: ys else y :: insertByIndex x ys

/-- (thread index, thread) pairs in ascending index. -/
def byIndex (l : List (Nat × Nat)) : List (Nat × Nat) := l.foldl (fun acc x => insertByIndex x acc) []

/-- The threads of a bin that lie in a slice, as (index, thread) in ascending index. -/
def State.binSlice (s : State) (b : Bin) (slice : Nat) : List (Nat × Nat) :=
  byIndex ((b.threads.filterMap (fun x => s.thread? x.1)).filter (fun t => t.slice == slice) |>.map (fun t => (t.index, t.id)))

/-- The slices that hold threads of a bin. -/
def State.binSlices (s : State) (b : Bin) : List Nat :=
  dedup ((b.threads.filterMap (fun x => s.thread? x.1)).map (·.slice))

/-- Members in ascending slots from k. -/
def membersFrom (k : Nat) : List Nat → List Member
  | [] => []
  | t :: ts => { slot := k, tid := t } :: membersFrom (k + 1) ts

/-- A crew is drawn of threads given in ascending index: slots from 0, the copy and step of the first, QDIV
where another differs (R117, R118, R318). It enters its slice's crew queue (R110). -/
def State.drawCrew (s : State) (b : Bin) (slice : Nat) (tids : List Nat) : State :=
  match tids.filterMap s.thread? with
  | [] => s
  | t :: rest =>
    let (cid, s) := s.newId
    let crew : Crew :=
      { id := cid, team := b.team, slice, members := membersFrom 0 tids, q := t.q, step := t.step
        qdiv := rest.any (fun u => u.q.regs != t.q.regs || u.step != t.step)
        handler := b.trap, ticket := cid, queuedAt := s.dclk b.place.die }
    let s := { s with crews := s.crews ++ [crew] }
    let s := tids.foldl (fun s u => s.modThread u (fun x => { x with status := .crewed })) s
    let bins := modFirst (fun x => x.id == b.id) (fun x => { x with threads := x.threads.filter (fun y => !tids.contains y.1) }) s.bins
    { s with bins := bins.filter (fun x => !x.threads.isEmpty) }

/-- Up to 32 threads of a slice are drawn from a bin, lowest indices first (R116). -/
def State.drawSlice (s : State) (bid slice : Nat) : State :=
  match s.bin? bid with
  | none => s
  | some b => s.drawCrew b slice (((s.binSlice b slice).take 32).map (·.2))

/-- Every thread of a bin is drawn, as many crews as it takes (R116 Forced); at most 1,024 threads. -/
def State.drawAll (s : State) (bid : Nat) : Nat → State
  | 0 => s
  | n + 1 => match s.bin? bid with
    | none => s
    | some b => match s.binSlices b with
      | [] => s
      | sl :: _ => State.drawAll (s.drawSlice bid sl) bid n

/-- The bins of one cassette of a core: 64 of threads, 16 of handlers (R115, R301). -/
def State.cassette (s : State) (p : Place) (trap : Bool) : List Bin := s.bins.filter (fun b => b.place == p && b.trap == trap)

/-- The time of filing of a bin's oldest thread. -/
def Bin.oldest (b : Bin) : Nat := (b.threads.map (·.2)).foldl min ((b.threads.map (·.2)).headD 0)

/-- The bin whose oldest thread has waited longest. DESIGN CHOICE (log 31): of several filed in the same dclk, the bin made first. -/
def longestWaiting (l : List Bin) : Option Bin :=
  l.foldl (fun acc b => match acc with | none => some b | some a => if b.oldest < a.oldest then some b else some a) none

/-- The derailleur files a thread at its code address (R115), drawing a full bin (R116). The thread carries the
copy and step it has. -/
def State.file (s : State) (tid : Nat) : State :=
  match s.thread? tid with
  | none => s
  | some t =>
    let p := s.placeOf t
    let trap := t.trap.isSome
    let now := s.dclk p.die
    let key := fun b : Bin => b.place == p && b.trap == trap && b.team == t.team && b.pkt == t.ctx.pkt && b.word == t.ctx.word
    let s := s.modThread tid (fun t => { t with status := .binned })
    let s := match s.bins.find? key with
      | some b => { s with bins := modFirst (fun x => x.id == b.id) (fun x => { x with threads := x.threads ++ [(tid, now)] }) s.bins }
      | none =>
        let s := if (s.cassette p trap).length < (if trap then 16 else 64) then s
          else match longestWaiting (s.cassette p trap) with
            | some b => s.drawAll b.id 1024
            | none => s
        let (bid, s) := s.newId
        { s with bins := s.bins ++ 
          [({ id := bid, place := p, trap, team := t.team, pkt := t.ctx.pkt, word := t.ctx.word, threads := [(tid, now)] } : Bin)] }
    match s.bins.find? key with
    | some b => if (s.binSlice b t.slice).length ≥ 32 then s.drawSlice b.id t.slice else s
    | none => s

/-- A thread in a bin leaves it; a bin without threads is free (R115). -/
def State.leaveBin (s : State) (tid : Nat) : State :=
  { s with bins := (s.bins.map (fun b => { b with threads := b.threads.filter (fun x => x.1 != tid) })).filter (fun b => !b.threads.isEmpty) }

/-- A thread leaves its crew and is filed at its code address. -/
def State.fileFromCrew (s : State) (tid : Nat) : State := (s.leaveCrew tid).file tid

/-! ### Fault records (R311) -/

/-- A record's bits from its fields. -/
structure RecordFields where
  time : Nat := 0
  val : Nat := 0
  pkt : Nat := 0
  word : Nat := 0
  pipe : Nat := 0
  late : Bool := false
  handler : Bool := false
  nrp : Bool := false
  cause : Nat := 0
  action : Nat := 0
  asid : Nat := 0
  grid : Nat := 0
  team : Nat := 0
  thread : Nat := 0
  frame : Nat := 0
  place : Place := ⟨0, 0, 0⟩
  slice : Nat := 0
  noThread : Bool := false
  deriving DecidableEq, Repr

/-- VAL as recorded (R303): 0 for the causes of a write's step, which R303 does not list. -/
def trapVal (cause val : Nat) : Nat := if 0x29 ≤ cause ∧ cause ≤ 0x2B then 0 else val

/-- The 512 bits of a fault record (R311). -/
def RecordFields.bits (r : RecordFields) : Nat :=
  (r.time % 2 ^ 64) * 2 ^ 448 + (trapVal r.cause r.val % 2 ^ 64) * 2 ^ 384 + (r.pkt % 2 ^ 56) * 2 ^ 328 + (r.word % 4) * 2 ^ 326
    + (r.pipe % 8) * 2 ^ 323 + r.late.toNat * 2 ^ 322 + r.handler.toNat * 2 ^ 321 + r.nrp.toNat * 2 ^ 320
    + (r.cause % 256) * 2 ^ 312 + (r.action % 256) * 2 ^ 304 + (r.asid % 2 ^ 16) * 2 ^ 288 + (r.grid % 2 ^ 64) * 2 ^ 224
    + (r.team % 2 ^ 32) * 2 ^ 192 + (r.thread % 1024) * 2 ^ 182 + (r.frame % 2 ^ 16) * 2 ^ 166 + (r.place.die % 4) * 2 ^ 164
    + (r.place.cluster % 16) * 2 ^ 160 + (r.place.core % 8) * 2 ^ 157 + (r.slice % 16) * 2 ^ 153 + r.noThread.toNat * 2 ^ 152 + 1

/-- The lowest fault record of a die that is not held. -/
def State.freeRecord (s : State) (die : Nat) : Option Nat :=
  (List.range 64).find? (fun i => !(s.records.any (fun r => r.die == die && r.index == i)))

/-- A record's bits stand in a die's record i, with the die's time. -/
def State.putRecord (s : State) (die i bits : Nat) : State :=
  { s with records := s.records ++ [(⟨die, i, setFld bits 448 64 (s.localTime die)⟩ : FaultRecord)] }

/-- A fault record is written on a die; with all 64 held the lost-record count rises instead (R311). -/
def State.writeRecord (s : State) (die : Nat) (r : RecordFields) : State :=
  match s.freeRecord die with
  | some i => s.putRecord die i r.bits
  | none => { s with recordsLost := modAt (fun n => min (n + 1) (2 ^ 64 - 1)) die s.recordsLost }

/-- An MSI-X vector is raised (R471). -/
def State.raiseVector (s : State) (v : Nat) : State := s.modHost (fun h => { h with msix := v :: h.msix })

/-- The fields of a record that describes a thread. -/
def State.recordOf (s : State) (t : Thread) : RecordFields :=
  { handler := t.trap.isSome, nrp := t.frame.nrp
    asid := s.asidOf t, grid := match s.team? t.team with | some m => m.grid | none => 0
    team := match s.team? t.team with | some m => m.index | none => 0
    thread := t.index, frame := t.frame.index.getD 0xFFFF, place := s.placeOf t, slice := t.slice }

/-! ### Stopping teams and grids (R302, R428) -/

/-- Whether the step of the energy account for a whole microsecond is due: within one instant it comes first (R431). -/
def State.tickDue (s : State) : Bool := decide (3 ≤ s.host.stage) && decide (s.energy.lastTick + 1000 ≤ s.time.hub)

/-- The energy of a team is settled: EST - M comes back (R431). -/
def State.settleNow (s : State) (m : Team) : State :=
  let cap : Int := (s.energy.capusNow * s.energy.limitNow : Nat)
  let a := s.energy.account + ((m.est : Int) - (m.energy : Int))
  let s := { s with energy := { s.energy with account := max (-cap) (min cap a) } }
  (s.modTeam m.id (fun m => { m with settling := false })).modGrid m.grid (fun g => { g with energy := g.energy + m.energy })

/-- The energy of a team is settled at its retirement or halt, after the step of a whole microsecond that is due (R431). -/
def State.settleEnergy (s : State) (m : Team) : State :=
  if s.tickDue then s.modTeam m.id (fun m => { m with settling := true }) else s.settleNow m

/-- Every thread of a team halts: none issues again (R302). -/
def State.haltTeam (s : State) (tm : Nat) : State :=
  match s.team? tm with
  | none => s
  | some m =>
    if m.status == .halted || m.status == .retired then s
    else
      let s := s.settleEnergy m
      let s := s.modTeam tm (fun m => { m with status := .halted })
      { s with
        threads := s.threads.map (fun (t : Thread) => if t.team == tm then { t with status := .halted } else t)
        crews := s.crews.filter (fun c => c.team != tm)
        bins := s.bins.filter (fun b => b.team != tm) }

/-- The grids launched by threads of a grid's teams. -/
def State.childGrids (s : State) (e : Nat) : List Nat :=
  (s.grids.filter (fun g => match g.parent.bind s.thread? with
    | some t => (match s.team? t.team with | some m => m.grid == e | none => false)
    | none => false)).map (·.event)

/-- A grid ends with an error: its teams halt, unstarted teams are skipped, child grids end (R428). The depth of
child grids is at most 10 (R139). -/
def State.endGrid (s : State) (cause : Nat) : Nat → Nat → State
  | 0, _ => s
  | n + 1, e =>
    match s.grid? e with
    | none => s
    | some g =>
      if g.status == .complete then s
      else
        let s := s.modGrid e (fun g => { g with error := some (g.error.getD cause), nextTeam := fld g.record 64 32, unchecked := false })
        let s := (s.teams.filter (fun m => m.grid == e)).foldl (fun s m => s.haltTeam m.id) s
        (s.childGrids e).foldl (fun s c => State.endGrid s cause n c) s

/-- A grid error, met by a thread, with its record (R428, R311 ACTION 2). -/
def State.gridError (s : State) (t : Thread) (cause val : Nat) : State :=
  let s := s.writeRecord (s.placeOf t).die
    { s.recordOf t with cause, val, pkt := t.ctx.pkt, word := t.ctx.word, action := 2 }
  match s.team? t.team with
  | some m => s.endGrid cause 12 m.grid
  | none => s

/-- A team fault (R302): the team halts, a record with ACTION 1 is written, and the grid's policy acts (R428). -/
def State.teamFault (s : State) (t : Thread) (cause val pkt word pipe : Nat) (late : Bool) : State :=
  match s.team? t.team with
  | none => s
  | some m =>
    let s := s.writeRecord m.place.die { s.recordOf t with cause, val, pkt, word, pipe, late, action := 1 }
    let policy := match s.grid? m.grid with | some g => fld g.record 318 2 | none => 0
    let s := (s.haltTeam m.id).modGrid m.grid (fun g => { g with haltedTeams := g.haltedTeams + 1 })
    if policy == 1 then s else s.endGrid cause 12 m.grid

/-! ### Taking a trap (R299-R303) -/

/-- Cause codes (R294, R339, R366, R387, R413, R458). -/
abbrev Cause := Nat
def Cause.illegalOp : Cause := 0x01
def Cause.illegalTie : Cause := 0x02
def Cause.illegalPrefix : Cause := 0x03
def Cause.soft : Cause := 0x04
def Cause.break_ : Cause := 0x05
def Cause.windowRange : Cause := 0x08
def Cause.viewRange : Cause := 0x09
def Cause.regPoison : Cause := 0x0A
def Cause.misaligned : Cause := 0x10
def Cause.addrRange : Cause := 0x11
def Cause.scratchRange : Cause := 0x12
def Cause.scratchPoison : Cause := 0x13
def Cause.pteBad : Cause := 0x18
def Cause.pageFault : Cause := 0x19
def Cause.protFault : Cause := 0x1A
def Cause.memType : Cause := 0x1B
def Cause.memPoison : Cause := 0x1C
def Cause.fetchFault : Cause := 0x1D
def Cause.launchNotLeader : Cause := 0x20
def Cause.barCount : Cause := 0x21
def Cause.cvBusy : Cause := 0x22
def Cause.signNotMember : Cause := 0x23
def Cause.signMismatch : Cause := 0x24
def Cause.paceRecord : Cause := 0x25
def Cause.versionGone : Cause := 0x28
def Cause.handlerTimeout : Cause := 0x70
def Cause.dieTime : Cause := 0x71
def Cause.coreFail : Cause := 0x72
def Cause.frameBad : Cause := 0x73
def Cause.replayRefused : Cause := 0x74
def Cause.quadFail : Cause := 0x75

/-- The handler's stochastic state at entry (R300). -/
def trapSeed (s : BitVec 32) : BitVec 32 := s ^^^ 0x2545F491

/-- `cr.tcause` at entry (R303). -/
def tcauseOf (cause pipe : Nat) (late : Bool) : W64 := BitVec.ofNat 64 (late.toNat * 2048 + (pipe % 8) * 256 + cause % 256)

/-- `cr.tret` at entry, MODE 0 (R303). -/
def tretOf (pkt word : Nat) : W64 := BitVec.ofNat 64 ((pkt % 2 ^ 56) * 256 + word * 64)

/-- A thread enters trap context (R299, R300): the interrupted context is saved, the trap registers are set, the
handler's context begins at (VEC, 0). -/
def Thread.enterTrap (t : Thread) (vec cause val pipe : Nat) (late : Bool) (ret : Nat × Nat) (fault : Option Flight)
    (now : Nat) (q : QCopy) (step : Nat) (crew : Option Nat := none) (mark : Nat := 0) : Thread :=
  { t with
    trap := some { saved := t.ctx, cause := tcauseOf cause pipe late, val := BitVec.ofNat 64 val, tret := tretOf ret.1 ret.2
                   entered := now, fault, q, step, crew, mark }
    ctx := { pkt := vec, word := 0, srseed := trapSeed t.ctx.srseed }
    q := {}, step, wt := none }

/-- A thread is halted for the host (R299, DBG): it leaves its crew and goes on at the return point once released. -/
def State.haltForHost (s : State) (tid : Nat) (r : RecordFields) (ret : Nat × Nat) : State :=
  match s.thread? tid with
  | none => s
  | some t =>
    let die := (s.placeOf t).die
    let s := s.leaveCrew tid
    let s := s.modThread tid (fun t => { t.goto ret.1 ret.2 with status := .haltedDbg (s.freeRecord die) { r with action := 6 }.bits })
    match s.freeRecord die with
    | some _ => (s.writeRecord die { r with action := 6 }).raiseVector 0
    | none => s

/-- A thread takes a Thread cause (R299): a team fault without a handler or in trap context (R302), a halt for the
host at `brk` under DBG, else the entry into the handler. `fw` is the faulting word, `ret` the return point. The
thread leaves the crew or the bin it stands in. A thread that a team fault has halted takes none: the first of several threads
that meet a cause at once is the one its record describes (R311). -/
def State.takeTrap (s : State) (x : Raised) (fw ret : Nat × Nat) : State :=
  match s.thread? x.tid with
  | none => s
  | some t =>
    match s.team? t.team with
    | none => s
    | some m =>
      let vec := fld m.regs.tvec.toNat 0 56
      let r : RecordFields := { s.recordOf t with cause := x.cause, val := x.val, pkt := fw.1, word := fw.2, pipe := x.pipe, late := x.late }
      if t.status == .halted then s
      else if t.trap.isSome || vec == 0 then s.teamFault t x.cause x.val fw.1 fw.2 x.pipe x.late
      else if x.cause == Cause.break_ && m.regs.tctl.getLsbD 0 then s.haltForHost x.tid r ret
      else
        let s := if m.regs.tctl.getLsbD 1 then s.writeRecord m.place.die r else s
        let crew := (s.crewOf x.tid).map (·.id)
        let s := (s.leaveCrew x.tid).leaveBin x.tid
        let s := s.modThread x.tid (fun t =>
          t.enterTrap vec x.cause (trapVal x.cause x.val) x.pipe x.late ret x.fault (s.localTime m.place.die) t.q t.step crew s.ctl.nextId)
        s.file x.tid

/-- The faulted accesses of a thread that have not completed: those pending, and the one that its trap took (R296, R304). -/
def Thread.faulted (t : Thread) : List Flight := t.faults ++ (t.trap.bind (·.fault)).toList

/-- Whether an earlier access of the threads of a word in flight, of a kind and in the same context, has faulted and not completed. -/
def State.faultedBefore (s : State) (f : Flight) (kind : Flight → Bool) : Bool :=
  (f.tids.filterMap s.thread?).any (fun t => t.faulted.any (fun g => decide (g.id < f.id) && g.trapCtx == f.trapCtx && kind g))

/-- Whether a pending fault belongs to the context that runs (R297, R300). -/
def Thread.faultHere (t : Thread) (f : Flight) : Bool := f.trapCtx == t.trap.isSome

/-- The fault of a list that was issued first: words in flight are numbered in issue order (R297). -/
def oldestFlight (l : List Flight) : Option Flight :=
  l.foldl (fun acc f => match acc with | none => some f | some a => if f.id < a.id then some f else some a) none

/-- A thread takes the oldest of its pending faults at a holding point, with the held group as return point (R296,
R297). -/
def State.takeLate (s : State) (tid : Nat) (ret : Nat × Nat) : State :=
  match s.thread? tid with
  | none => s
  | some t =>
    match oldestFlight (t.faults.filter t.faultHere) with
    | none => s
    | some f =>
      match f.stage with
      | .faulted c v =>
        let s := s.modThread tid (fun t => { t with faults := t.faults.filter (fun g => g.id != f.id) })
        s.takeTrap { tid, cause := c, val := v, late := true, pipe := f.pipe, fault := some f } (f.pkt, f.word) ret
      | _ => s

/-- Threads in ascending thread index: where several of one team meet a cause at once, the lowest is the one described (R311). -/
def State.inIndexOrder (s : State) (l : List Nat) : List Nat :=
  (byIndex (l.map (fun t => ((match s.thread? t with | some x => x.index | none => 0), t)))).map (·.2)

/-- Every member in which a cause holds takes its own trap, in ascending thread index; the others of `active` are filed at their code
address and issue the group again (R298, R311). -/
def State.takeTraps (s : State) (xs : List Raised) (active : List Nat) (pkt entry : Nat) : State :=
  let s := (s.inIndexOrder (dedup (xs.map (·.tid)))).foldl (fun s t =>
    match xs.find? (fun x => x.tid == t) with
    | some x => s.takeTrap x (pkt, x.word) (pkt, entry)
    | none => s) s
  (active.filter (fun t => !xs.any (fun x => x.tid == t))).foldl (fun s t =>
    if (s.crewOf t).isSome then s.fileFromCrew t else s) s

end Sys2Proof.Machine
end

