-- ==== Sys2Proof/Machine/Translate.lean ====
section
/-! DEFINITION. Homes, the four-level page table, the checks of the home, page requests and the version pool's choice of a frame
(spec/09 R245-R254, R264; spec/12 R320, R326-R336; spec/20 R471). -/
namespace Sys2Proof.Machine

/-- The stack of an address's home (R246). -/
def homeStack (va : Nat) : Nat := ((fld va 21 16 ^^^ fld va 37 15) * 12) / 65536

/-- The quadrant of an address's home (R246). -/
def homeQuad (va : Nat) : Nat := homeStack va / 3

/-- The home's local copy of package time (R19: quadrants are receivers 4-7). -/
def State.homeTime (s : State) (va : Nat) : Nat := s.localTime (4 + homeQuad va)

/-- Whether an access of n bytes lies in the address range of R245. -/
def inRange (va n : Nat) : Bool := decide (va + n ≤ 2 ^ 52)

/-- Index field (low bit, bits) of a level of the table (R250). -/
def levelIndex : Nat → Nat × Nat
  | 0 => (35, 17)
  | 1 => (29, 6)
  | 2 => (21, 8)
  | _ => (16, 5)

/-- Bytes that a leaf of a level maps (R250). -/
def levelSize (level : Nat) : Nat := 2 ^ (levelIndex level).1

/-- Bytes of a table of a level (R250). -/
def tableSize (level : Nat) : Nat := 8 * 2 ^ (levelIndex level).2

/-- Fields of a leaf (R251). -/
def Page.mt (p : Page) : Nat := fld p.leaf 9 2
def Page.ver (p : Page) : Bool := bit p.leaf 11
def Page.version (p : Page) : Nat := fld p.leaf 36 24
def Page.frame (p : Page) : Nat := fld p.leaf 12 20
def Page.stack (p : Page) : Nat := fld p.leaf 32 4
def Page.canRead (p : Page) : Bool := bit p.leaf 8
def Page.canWrite (p : Page) : Bool := bit p.leaf 7
def Page.canFetch (p : Page) : Bool := bit p.leaf 6
def Page.size (p : Page) : Nat := levelSize p.level

/-- Host memory lies behind physical addresses from here on in the model's one physical space (R264). -/
def hostBase : Nat := 2 ^ 40

/-- The physical address of a virtual address of a page (R247, R248, R264). -/
def Page.phys (p : Page) (va : Nat) : Nat :=
  let off := va - p.base
  if p.mt ≥ 2 then hostBase + (p.stack * 2 ^ 20 + p.frame) * 65536 + off
  else (if p.level ≤ 1 then homeStack va else p.stack) * 2 ^ 36 + p.frame * 65536 + off

/-- Whether the driver's mailbox map names the 2 MiB granule of a physical address (R266, R469). -/
def State.inMailbox (s : State) (pa : Nat) : Bool := s.mem.mailbox.any (fun m => fld m.toNat 0 19 == pa / 2 ^ 21)

/-- Whether a leaf met at a level is well formed (R252 order 1). -/
def State.leafOk (s : State) (level leaf va : Nat) : Bool :=
  let p : Page := ⟨0, leaf, level, va / levelSize level * levelSize level⟩
  let spread := level ≤ 1
  fld leaf 0 4 == 0
  && fld leaf 60 2 == 3 - level
  && !(p.ver && (spread || p.mt != 0))
  && (decide (p.mt ≥ 2) || (if spread then p.stack == 15 else p.stack == homeStack va))
  && (if spread && decide (p.mt < 2) then p.frame % 32 == 0 else p.frame % (p.size / 65536) == 0)
  && (!spread || decide (p.mt ≥ 2) || decide (p.frame * 65536 + p.size ≤ 2 ^ 36))
  && (p.mt != 1 || s.inMailbox (p.phys va))

/-- The end of a walk. -/
inductive Walk where
  | page (p : Page)
  | malformed
  | absent
  deriving DecidableEq, Repr

/-- The walk from a table, with n levels left (R250, R252 orders 1 and 2). -/
def State.walkFrom (s : State) (va : Nat) : Nat → Nat → Walk
  | 0, _ => .malformed
  | n + 1, table =>
    let level := 3 - n
    let ix := levelIndex level
    let a := table + 8 * fld va ix.1 ix.2
    let e := s.mem.dram.readNat a 8
    if !bit e 63 then .absent
    else if bit e 62 then
      (if s.leafOk level e va then .page ⟨a, e, level, va / levelSize level * levelSize level⟩ else .malformed)
    else
      let next := fld e 8 32 * 256
      if n = 0 ∨ fld e 40 22 ≠ 0 ∨ fld e 0 8 ≠ 0 ∨ next % tableSize (level + 1) ≠ 0 ∨ next / 2 ^ 36 > 11 then .malformed
      else s.walkFrom va n next

/-- The walk of an address in an address space (R249); a bad root is malformed. -/
def State.walk (s : State) (asid va : Nat) : Walk :=
  let root := (s.asidBlock asid).root.toNat
  if root % tableSize 0 ≠ 0 ∨ root / 2 ^ 36 > 11 then .malformed else s.walkFrom va 4 root

/-- The page of an address, where the walk finds one. -/
def State.page? (s : State) (asid va : Nat) : Option Page := match s.walk asid va with | .page p => some p | _ => none

/-- What an access asks of the home (R252 orders 3 and 4). -/
inductive Want where
  | read
  | write
  | fetch
  | atom (op : AtomOp) (dfmt : Nat)
  /-- `red` and `mom.acc` (R273, R411). -/
  | reduce
  | hostRead
  deriving DecidableEq, Repr

/-- Whether a page's permissions allow an access. -/
def Want.permitted (w : Want) (p : Page) : Bool :=
  match w with
  | .read | .hostRead => p.canRead
  | .fetch => p.canFetch
  | .write | .atom _ _ | .reduce => p.canWrite

/-- Whether a memory type takes an access (R264, R273, R274): on host memory `atom.add` of integers, `atom.xchg` and
`atom.cas`. -/
def Want.typeOk (w : Want) (p : Page) : Bool :=
  match w with
  | .atom op dfmt => decide (p.mt ≤ 1) || op == .xchg || op == .cas || (op == .add && [10, 11, 14, 15].contains dfmt)
  | .reduce => decide (p.mt ≤ 1)
  | .hostRead => decide (p.mt ≥ 2)
  | _ => true

/-- The home's answer to an access. -/
inductive Translated where
  | ok (p : Page)
  | fault (cause : Nat)
  /-- V = 0 under DEMAND: the access waits for the driver (R253). -/
  | demand
  deriving DecidableEq, Repr

/-- The checks of R252, orders 1 to 4. -/
def State.translate (s : State) (asid va : Nat) (w : Want) : Translated :=
  match s.walk asid va with
  | .malformed => .fault Cause.pteBad
  | .absent => if (s.asidBlock asid).asctl.getLsbD 8 then .demand else .fault Cause.pageFault
  | .page p =>
    if !w.permitted p then .fault Cause.protFault
    else if !w.typeOk p then .fault Cause.memType
    else .ok p

/-- A page's A bit set, and D on a write (R251), where its entry stands as the walk found it (R254). -/
def State.touchPage (s : State) (p : Page) (write : Bool) : State :=
  let now := s.mem.dram.readNat p.entry 8
  if setFld now 4 2 0 != setFld p.leaf 4 2 0 then s
  else
    let leaf := setFld now 5 1 1
    let leaf := if write then setFld leaf 4 1 1 else leaf
    s.modMem (fun m => { m with dram := m.dram.writeNat p.entry 8 leaf })

/-! ### Page requests (R253, R471) -/

/-- The VALID request entry of an address's 64 KiB span. -/
def State.request? (s : State) (asid va : Nat) : Option PageRequest :=
  s.mem.requests.find? (fun r => r.valid && r.asid == asid && r.va == va / 65536 * 65536)

/-- The lowest request entry that is not VALID. -/
def State.freeRequest (s : State) : Option PageRequest :=
  match (List.range 256).find? (fun i => !s.mem.requests.any (fun r => r.index == i && r.valid)) with
  | none => none
  | some i => some ((s.mem.requests.find? (fun r => r.index == i)).getD { index := i })

/-- An access that meets V = 0 under DEMAND joins or posts a page request (R471); with all 256 VALID it waits for one,
unrecorded. `kind` 0 read, 1 write, 2 fetch. -/
def State.postRequest (s : State) (asid va kind : Nat) (waiting fetchers : List Nat) (engines : List Nat := []) : State :=
  match s.request? asid va with
  | some r =>
    let join := fun (x : PageRequest) =>
      { x with waiting := dedup (x.waiting ++ waiting), fetchers := dedup (x.fetchers ++ fetchers), engines := dedup (x.engines ++ engines) }
    s.modMem (fun m => { m with requests := modFirst (fun x => x.index == r.index) join m.requests })
  | none => match s.freeRequest with
    | none => s
    | some r =>
      let r : PageRequest := { r with uses := (r.uses + 1) % 256, valid := true, asid, kind, va := va / 65536 * 65536
                                      time := s.homeTime va, waiting, fetchers, engines }
      let s := s.modMem (fun m => { m with requests := m.requests.filter (fun x => x.index != r.index) ++ [r]
                                           requestsPosted := m.requestsPosted + 1 })
      s.raiseVector 0

/-! ### Physical bytes, regions and the version pool -/

/-- Bytes at a physical address, in device or host memory. -/
def State.physRead (s : State) (pa n : Nat) : List Byte :=
  if pa ≥ hostBase then s.mem.host.readN (pa - hostBase) n else s.mem.dram.readN pa n

/-- Whether a physical address lies in one of a list of channels. -/
def inChannel (l : List (Nat × Nat)) (pa : Nat) : Bool := l.any (fun c => c.1 == pa / 2 ^ 36 && c.2 == Config.channelOf pa)

/-- The whole granules of [a, a + n). -/
def wholeGranules (a n : Nat) : List Nat := (granulesOf a n).filter (fun g => decide (a ≤ 8 * g) && decide (8 * g + 8 ≤ a + n))

/-- A write at a physical address; whole granules lose their poison (R263). -/
def State.physWrite (s : State) (pa : Nat) (bs : List Byte) : State :=
  if pa ≥ hostBase then s.modMem (fun m => { m with host := m.host.writeN (pa - hostBase) bs })
  else s.modMem (fun m => { m with dram := m.dram.writeN pa bs, poison := clearWhole m.poison pa bs.length })

/-- Whether the byte at a physical address reads as poisoned: its granule is; or its channel has failed and is not remapped (R263, R312). -/
def State.physBad (s : State) (pa : Nat) : Bool :=
  decide (pa < hostBase) && (s.mem.poison.contains (pa / 8) || inChannel s.mem.failedChannels pa)

/-- A region register pair decoded (R327): valid, first granule, granules, PUB. -/
structure Region where
  valid : Bool
  base : Nat
  count : Nat
  pub : Nat
  busy : Bool
  deriving DecidableEq, Repr

/-- Region i of an address space. -/
def Asid.region (a : Asid) (i : Nat) : Region :=
  let b := (a.vrgnb.getD i 0).toNat
  let r := (a.vrgns.getD i 0).toNat
  { valid := bit b 63, base := fld b 0 31, count := fld b 31 32, pub := fld r 0 24, busy := bit r 63 }

/-- The region that holds an address: the lowest-numbered valid one (R327). -/
def Asid.regionOf (a : Asid) (va : Nat) : Option Region :=
  ((List.range 8).map a.region).find? (fun r => r.valid && decide (r.base ≤ va / 2 ^ 21) && decide (va / 2 ^ 21 < r.base + r.count))

/-- KEEP, a value of 0 acting as 1 (R325). -/
def Asid.keep (a : Asid) : Nat := max 1 (fld a.vctl.toNat 0 4)

/-- Whether a version is published (R328, R332): some valid region has PUB at least it. -/
def Asid.published (a : Asid) (v : Nat) : Bool := ((List.range 8).map a.region).any (fun r => r.valid && decide (v ≤ r.pub))

/-- Whether a version is held (R331). -/
def Asid.held (a : Asid) (v : Nat) : Bool :=
  (a.vslots.drop 1).any (fun x => x.bound && x.version == v)
  || ((List.range 8).map a.region).any (fun r => r.valid && decide (r.pub < v + a.keep) && decide (v ≤ r.pub))

/-- A pool entry (R326). -/
structure PoolEntry where
  index : Nat
  bits : Nat
  deriving DecidableEq, Repr

def PoolEntry.version (e : PoolEntry) : Nat := fld e.bits 200 24
def PoolEntry.page (e : PoolEntry) : Nat := fld e.bits 164 36
def PoolEntry.stack (e : PoolEntry) : Nat := fld e.bits 160 4
def PoolEntry.frame (e : PoolEntry) : Nat := fld e.bits 140 20
def PoolEntry.state (e : PoolEntry) : Nat := fld e.bits 138 2
def PoolEntry.size (e : PoolEntry) : Nat := fld e.bits 137 1

/-- Whether an entry in use is bad (R326). -/
def PoolEntry.bad (e : PoolEntry) : Bool :=
  e.state == 3 || fld e.bits 128 9 != 0 || fld e.bits 0 64 != 0 || decide (e.stack > 11) || (e.size == 1 && e.frame % 32 != 0)

/-- Where entry i of an address space's pool lies (R325, R326). -/
def Asid.poolAddr (a : Asid) (i : Nat) : Nat := fld a.vpool.toNat 12 28 * 4096 + 4096 + 32 * i

/-- The pool of an address space. -/
def State.pool (s : State) (asid : Nat) : List PoolEntry :=
  let a := s.asidBlock asid
  (List.range (fld a.vctl.toNat 32 20)).map (fun i => ⟨i, s.mem.dram.readNat (a.poolAddr i) 32⟩)

/-- A pool entry written. -/
def State.writePool (s : State) (asid i bits : Nat) : State :=
  s.modMem (fun m => { m with dram := m.dram.writeNat ((s.asidBlock asid).poolAddr i) 32 bits })

/-- The retained entries of a page (R334). -/
def State.retained (s : State) (asid : Nat) (p : Page) : List PoolEntry :=
  (s.pool asid).filter (fun e => e.state == 2 && e.page == p.base / 65536)

/-- The frame a read uses (R334-R336). -/
inductive FrameChoice where
  /-- Slot 0: an ordinary read. -/
  | ordinary
  /-- A frame of a version: the live one (none) or a retained entry; `sub` when `.old` substitutes it; whether the
  read came by a version number (MODE 1). -/
  | frame (e : Option PoolEntry) (sub byVersion : Bool)
  | gone
  deriving DecidableEq, Repr

/-- The newest element by version among entries at most v. -/
def newestAtMost (v : Nat) (es : List PoolEntry) : Option PoolEntry :=
  (es.filter (fun e => decide (e.version ≤ v))).foldl (fun acc e =>
    match acc with | none => some e | some a => if a.version < e.version then some e else some a) none

/-- The oldest element by version. -/
def oldestEntry (es : List PoolEntry) : Option PoolEntry :=
  es.foldl (fun acc e => match acc with | none => some e | some a => if e.version < a.version then some e else some a) none

/-- Whether a read's frame stands in a bad pool entry (R326). -/
def FrameChoice.bad : FrameChoice → Bool
  | .frame (some e) _ _ => e.bad
  | _ => false

/-- Whether R334 reached "gone" (R336). -/
def FrameChoice.wasGone : FrameChoice → Bool
  | .frame _ sub _ => sub
  | .gone => true
  | .ordinary => false

/-- What a read does where R334 reaches "gone": `.old` takes the oldest frame (R336). -/
def State.goneFrame (s : State) (asid : Nat) (p : Page) (old byVersion : Bool) : FrameChoice :=
  if old then match oldestEntry (s.retained asid p) with
    | some e => .frame (some e) true byVersion
    | none => .frame none true byVersion
  else .gone

/-- R334 for a page and the version a read asks for. -/
def State.chooseFrame (s : State) (asid : Nat) (p : Page) (x : VerSel) : FrameChoice :=
  let a := s.asidBlock asid
  let newest := fun v (byVersion : Bool) =>
    if p.version ≤ v then FrameChoice.frame none false byVersion
    else match newestAtMost v (s.retained asid p) with
      | some e => .frame (some e) false byVersion
      | none => s.goneFrame asid p x.old byVersion
  if !p.ver || (!x.byVersion && x.sel == 0) then .ordinary
  else if !x.byVersion then
    let slot := a.vslots.getD x.sel ⟨false, 0, 0⟩
    if !slot.bound then s.goneFrame asid p x.old false
    else match a.regionOf p.base with
      | some r => if slot.version ≤ r.pub then newest slot.version false else .ordinary
      | none => .ordinary
  else if p.version ≤ x.sel then .frame none false true
  else if !a.held x.sel then s.goneFrame asid p x.old true
  else newest x.sel true

/-- The physical address of a byte in a chosen frame. -/
def FrameChoice.phys (f : FrameChoice) (p : Page) (va : Nat) : Nat :=
  match f with
  | .frame (some e) _ _ => e.stack * 2 ^ 36 + e.frame * 65536 + (va - p.base)
  | _ => p.phys va

/-- The version of a chosen frame. -/
def FrameChoice.version (f : FrameChoice) (p : Page) : Nat :=
  match f with
  | .frame (some e) _ _ => e.version
  | _ => p.version

end Sys2Proof.Machine
end

