-- ==== Sys2Proof/Machine/Coherence.lean ====
section
/-! DEFINITION. Lines in L1, L2 and at the home: giving up, recalls, the directory, grants, writes and their visibility times
(spec/09 R256-R266, R270, R276). Caches and directory have no size of their own here: a line leaves by the rules, by the eviction
that a fill may bring (R258, R259), or by a retirement of R261. -/
namespace Sys2Proof.Machine

/-- The line number of an address. -/
def lineOf (a : Nat) : Nat := a / 128

/-! ### Lines -/

def L2Line.isAt (l : L2Line) (die asid slot line : Nat) : Bool := l.die == die && l.asid == asid && l.slot == slot && l.line == line
def L1Line.isAt (l : L1Line) (p : Place) (asid slot line : Nat) : Bool := l.place == p && l.asid == asid && l.slot == slot && l.line == line
def L2Line.dirty (l : L2Line) : Bool := l.state == .m || l.state == .o

/-- A leased copy that its die has given up: the die's copy of package time plus the guard band has reached its expiry (R23). -/
def State.leaseEnded (s : State) (l : L2Line) : Bool := l.state == .s && l.expiry != 0 && decide (l.expiry ≤ s.leaseReach l.die)
/-- The L2 line of a die (R256), but for one whose lease has ended. -/
def State.l2? (s : State) (die asid slot line : Nat) : Option L2Line :=
  s.mem.l2.find? (fun l => l.isAt die asid slot line && !s.leaseEnded l)
/-- The L1 line of a core (R256): L1 is inclusive in L2, so that none outlives the die's lease. -/
def State.l1? (s : State) (p : Place) (asid slot line : Nat) : Option L1Line :=
  if s.mem.l2.any (fun l => l.isAt p.die asid slot line && s.leaseEnded l) then none else s.mem.l1.find? (·.isAt p asid slot line)
/-- An L2 line changed. -/
def State.modL2 (s : State) (die asid slot line : Nat) (f : L2Line → L2Line) : State :=
  s.modMem (fun m => { m with l2 := modFirst (·.isAt die asid slot line) f m.l2 })
/-- An L1 line changed. -/
def State.modL1 (s : State) (p : Place) (asid slot line : Nat) (f : L1Line → L1Line) : State :=
  s.modMem (fun m => { m with l1 := modFirst (·.isAt p asid slot line) f m.l1 })

/-- L1 lines whose L2 line is gone are dropped: L1 is inclusive in L2 (R256). -/
def State.inclusive (s : State) : State :=
  s.modMem (fun m => { m with l1 := m.l1.filter (fun x => m.l2.any (·.isAt x.place.die x.asid x.slot x.line)) })

/-- The poison marks of the granules of a line of physical memory replaced. -/
def lineMarks (marks : Marks) (pl : Nat) (poison : Marks) : Marks :=
  poison.foldl (fun acc g => insertNat (pl * 16 + g) acc) (marks.filter (fun g => g / 16 != pl))

/-- A line's bytes as a string. -/
def lineBytes (m : Mem) : List Byte := m.readN 0 128

/-! ### The directory (R258, R261) -/

def State.dirEntry (s : State) (pl : Nat) : DirEntry := (s.mem.dir.find? (fun d => d.pa == pl)).getD { pa := pl, owner := none, exp := 0 }

/-- The directory entry of a line set. -/
def State.setDir (s : State) (d : DirEntry) : State :=
  s.modMem (fun m => { m with dir := m.dir.filter (fun x => x.pa != d.pa) ++ [d] })

/-- The quadrant whose directory slice tracks a physical line: that of its stack (R13, R246). -/
def quadOfLine (pl : Nat) : Nat := pl * 128 / 2 ^ 36 / 3

/-- The directory set of a line: the slice's quadrant, and the set in it (R13, R261). -/
def directorySetOf (pl : Nat) : Nat × Nat := (quadOfLine pl, Config.directorySet pl)

/-- EXP as the home holds it for a line, the set's floor included while it has not passed (R260, R261). -/
def State.lineExp (s : State) (pl now : Nat) : Nat :=
  let e := (s.dirEntry pl).exp
  s.mem.floors.foldl (fun acc f => if f.1 == directorySetOf pl && decide (now < f.2) then max acc f.2 else acc) e

/-- A visibility time (R260). -/
def visibility (exp t : Nat) : Nat := max exp (t + 4)

/-- What has been written at a home, with its visibility time, for the threads of grids that begin with the values at the homes (R290). -/
def State.noteHome (s : State) (vt : Nat) : State := s.modMem (fun m => { m with homeVt := max m.homeVt vt })

/-- The visibility time of a write that a line's home performs now (R260). -/
def State.homeVisibility (s : State) (pl : Nat) : Nat :=
  let home := s.localTime (4 + quadOfLine pl)
  visibility (s.lineExp pl home) home

/-! ### Copies given up (R256, R258) -/

/-- A dirty copy written back: all 128 bytes at the home (R258, R267). -/
def State.writeBack (s : State) (l : L2Line) : State :=
  (s.noteHome (s.homeVisibility l.pa)).modMem (fun m =>
    { m with dram := m.dram.writeN (l.pa * 128) (lineBytes l.data), poison := lineMarks m.poison l.pa l.poison })

/-- L2 lines given up: dirty ones written back, their L1 copies dropped (R256); the directory knows no owner of an owned one any
more (R258). -/
def State.giveUp (s : State) (p : L2Line → Bool) : State :=
  let gone := s.mem.l2.filter (fun l => p l && l.state != .s)
  let s := (s.mem.l2.filter (fun l => p l && l.dirty)).foldl State.writeBack s
  (s.modMem (fun m => { m with
    l2 := m.l2.filter (fun l => !p l)
    dir := m.dir.map (fun d => if gone.any (fun l => l.pa == d.pa) then { d with owner := none } else d) })).inclusive

/-- Fills on their way of lines that satisfy p lose their right to be held (R259: a copy may be given up early). -/
def State.unholdFills (s : State) (p : Grant → Bool) : State :=
  let f := fun (f : Flight) => match f.stage with
    | .fill g => if p g then { f with stage := .fill { g with state := none } } else f
    | _ => f
  { s with flights := s.flights.map f }

/-- Whether a grant makes its die the owner of the line (R258). -/
def Grant.owns (g : Grant) : Bool := match g.state with | none | some .s => false | _ => true

/-- The owner of a physical line recalled: written back and gone to I, on every die but those that `keep` names
(R258, R270, R272). -/
def State.recall (s : State) (pl : Nat) (keep : L2Line → Bool := fun _ => false) : State :=
  (s.giveUp (fun l => l.pa == pl && l.state != .s && !keep l)).unholdFills (fun g => g.pa == pl && g.owns)

/-- A die's read performed past its caches leaves no older copy of the line there, held or on its way: later reads of the thread through
the same view slot see no older write (R284; a die may give up a copy early, R259). -/
def State.freshen (s : State) (die asid slot line : Nat) : State :=
  (s.giveUp (fun l => l.isAt die asid slot line && l.state == .s)).unholdFills (fun g => g.die == die && g.slot == slot && g.line == line)

/-- The latest bytes of n in one physical line: a dirty owner's, else the home's. -/
def State.latest (s : State) (pa n : Nat) : List Byte :=
  match s.mem.l2.find? (fun l => l.pa == lineOf pa && l.dirty) with
  | some l => l.data.readN (pa % 128) n
  | none => s.physRead pa n

/-- Whether any of the latest n bytes is poisoned. -/
def State.latestBad (s : State) (pa n : Nat) : Bool :=
  match s.mem.l2.find? (fun l => l.pa == lineOf pa && l.dirty) with
  | some l => (lowestMarked l.poison (pa % 128) n).isSome
  | none => (List.range n).any (fun k => s.physBad (pa + k))

/-- The poisoned granules of a physical line as a grant carries them. -/
def State.latestMarks (s : State) (pl : Nat) : Marks :=
  (List.range 16).filter (fun g => s.latestBad (pl * 128 + 8 * g) 8)

/-- A line's latest bytes as memory. -/
def State.latestLine (s : State) (pl : Nat) : Mem := Mem.writeN [] 0 (s.latest (pl * 128) 128)

/-- DIRECTORY_RETIRE (R261): an entry leaves; an owner is recalled, an EXP folds into the floor of its set. -/
def State.retireEntry (s : State) (d : DirEntry) : State :=
  let s := s.recall d.pa
  s.modMem (fun m => { m with dir := m.dir.filter (fun x => x.pa != d.pa), floors := (directorySetOf d.pa, d.exp) :: m.floors })

/-- Before a new entry for a line, its slice may need room and retire another of its entries (R261): a free choice, made only
where another entry stands. -/
def State.makeRoom (s : State) (pl : Nat) : State :=
  match s.mem.dir.filter (fun d => d.pa != pl && quadOfLine d.pa == quadOfLine pl) with
  | [] => s
  | d :: ds =>
    if s.mem.dir.any (fun x => x.pa == pl) then s
    else if Config.retires s.ctl.fresh then
      let (k, s) := s.choose (ds.length + 1)
      s.retireEntry ((d :: ds).getD k d)
    else s.modCtl (fun c => { c with fresh := c.fresh + 1 })

/-- The lease length of an address space in ns (R255). -/
def State.lease (s : State) (asid : Nat) : Nat := (fld (s.asidBlock asid).asctl.toNat 0 6 + 1) * 250

/-- A die's fill time (R257). -/
def State.fillTime (s : State) (die : Nat) : Nat := s.localTime die / 64 * 64

/-! ### Grants (R258, R259, R335) -/

/-- LV and SF of a page (R323). -/
def State.stamps (s : State) (asid : Nat) (p : Page) : Nat × Nat :=
  (p.version, match (s.asidBlock asid).regionOf p.base with | some r => r.pub | none => 0)

/-- An ordinary read miss of a device line at the home: E with no other copy, else S under a lease (R258). -/
def State.grantRead (s : State) (a : MemAcc) (p : Page) : Grant × State :=
  let die := a.place.die
  let pl := lineOf (p.phys a.va)
  let s := s.makeRoom pl
  let home := s.homeTime a.va
  let owned := s.mem.l2.any (fun l => l.pa == pl && l.state != .s)
  let coming := s.flights.any (fun f => match f.stage with | .fill g => g.pa == pl && g.owns | _ => false)
  let exp := s.lineExp pl home
  let st := s.stamps a.asid p
  let (msg, s) := s.newId
  let g : Grant := { die, slot := 0, line := lineOf a.va, pa := pl, data := s.latestLine pl, poison := s.latestMarks pl
                     state := some .e, exp, lv := st.1, sf := st.2, versioned := p.ver, ft := s.fillTime die
                     l1 := a.op != .pf false, msg }
  let shared := s.mem.l2.any (fun l => l.pa == pl && l.slot == 0 && l.state == .s && !s.leaseEnded l)
  if !owned && !coming && !shared && decide (exp ≤ home) then (g, s.setDir { pa := pl, owner := some die, exp })
  else
    let e := home + s.lease a.asid
    let e' := max exp e
    let share := fun (l : L2Line) =>
      if l.pa == pl then (match l.state with
        | .m | .o => { l with state := .o, exp := e' }
        | .e => { l with state := .s, expiry := e }
        | .s => l) else l
    let demote := fun (f : Flight) => match f.stage with
      | .fill g =>
        if g.pa != pl || !g.owns then f
        else if g.state == some .e then { f with stage := .fill { g with state := some .s, expiry := e } }
        else { f with stage := .fill { g with state := some .o, exp := e' } }
      | _ => f
    let writer := s.flights.findSome? (fun f => match f.stage with
      | .fill g => if g.pa == pl && g.owns && g.state != some .e then some g.die else none
      | _ => none)
    let dirty := match s.mem.l2.find? (fun l => l.pa == pl && l.dirty) with | some l => some l.die | none => writer
    let s := { s with flights := s.flights.map demote }
    let s := s.modMem (fun m => { m with l2 := m.l2.map share })
    ({ g with state := some .s, expiry := e, exp := e' }, s.setDir { pa := pl, owner := dirty, exp := e' })

/-- A read's answer that no cache holds (R264, R270, R335): the line's bytes at the home now. -/
def State.grantOnce (s : State) (a : MemAcc) (slot pa : Nat) (line : Mem) : Grant × State :=
  let pl := lineOf pa
  let (msg, s) := s.newId
  ({ die := a.place.die, slot, line := lineOf a.va, pa := pl, data := line, poison := s.latestMarks pl, state := none
     ft := s.fillTime a.place.die, l1 := false, msg }, s)

/-- A line of a page held without a lease: host memory (R264) or a frame of a view slot (R335). -/
def State.grantPlain (s : State) (a : MemAcc) (slot pa : Nat) (versioned : Bool) : Grant × State :=
  let pl := lineOf pa
  let (msg, s) := s.newId
  ({ die := a.place.die, slot, line := lineOf a.va, pa := pl, data := s.latestLine pl, poison := s.latestMarks pl
     state := some .s, ft := s.fillTime a.place.die, l1 := a.op != .pf false, versioned, msg }, s)

/-- A die's L2 may evict another of its lines as it takes one, and a core's L1 another of its own (R258, R259): free choices, made only
where another line stands. -/
def State.evictOthers (s : State) (p : Place) (asid slot line : Nat) : State :=
  let s := match s.mem.l2.filter (fun l => l.die == p.die && !l.isAt p.die asid slot line) with
    | [] => s
    | l :: ls =>
      if Config.evicts s.ctl.fresh then
        let (k, s) := s.choose (ls.length + 1)
        let x := (l :: ls).getD k l
        s.giveUp (fun y => y.isAt x.die x.asid x.slot x.line)
      else s.modCtl (fun c => { c with fresh := c.fresh + 1 })
  match s.mem.l1.filter (fun l => l.place == p && !l.isAt p asid slot line) with
  | [] => s
  | l :: ls =>
    if Config.evicts s.ctl.fresh then
      let (k, s) := s.choose (ls.length + 1)
      let x := (l :: ls).getD k l
      s.modMem (fun m => { m with l1 := m.l1.filter (fun y => !y.isAt x.place x.asid x.slot x.line) })
    else s.modCtl (fun c => { c with fresh := c.fresh + 1 })

/-- A grant's line put into the L2 and, where the core takes it, the L1. A leased copy that it replaces goes first, with the L1 copies
that hold other bytes: none outlives its lease (R23, R256). -/
def State.install (s : State) (a : MemAcc) (g : Grant) (st : L2State) : State :=
  let s := s.giveUp (fun l => l.isAt g.die a.asid g.slot g.line && s.leaseEnded l)
  let s := if s.mem.l2.any (fun l => l.isAt g.die a.asid g.slot g.line && l.state == .s) then
      s.modMem (fun m => { m with l1 := m.l1.filter (fun x =>
        !(x.place.die == g.die && x.asid == a.asid && x.slot == g.slot && x.line == g.line && x.data != g.data)) })
    else s
  let s := s.evictOthers a.place a.asid g.slot g.line
  let l2 : L2Line := { die := g.die, asid := a.asid, slot := g.slot, line := g.line, pa := g.pa, data := g.data, poison := g.poison
                       state := st, expiry := g.expiry, exp := g.exp, lv := g.lv, sf := g.sf, versioned := g.versioned }
  let l1 : L1Line := { place := a.place, asid := a.asid, slot := g.slot, line := g.line, data := g.data, poison := g.poison, ft := g.ft }
  s.modMem (fun m => { m with
    l2 := m.l2.filter (fun x => !x.isAt g.die a.asid g.slot g.line) ++ [l2]
    l1 := if g.l1 then m.l1.filter (fun x => !x.isAt a.place a.asid g.slot g.line) ++ [l1] else m.l1 })

/-- A fill at its die (R259): kept unless it may not be held, its lease has run down to the guard band, the die is fenced
(R293), or it has come to own the line meanwhile. -/
def State.arrive (s : State) (a : MemAcc) (g : Grant) : State :=
  match g.state with
  | none => s
  | some st =>
    let owned := match s.l2? g.die a.asid g.slot g.line with | some l => l.state != .s | none => false
    if owned || s.dieFenced g.die || (g.expiry != 0 && decide (g.expiry ≤ s.leaseReach g.die)) then s else s.install a g st

/-- A write miss at the home (R258): other owners recalled, the line granted in M or, with leases live, in O. -/
def State.grantOwn (s : State) (a : MemAcc) (p : Page) : Grant × State :=
  let die := a.place.die
  let pl := lineOf (p.phys a.va)
  let s := (s.makeRoom pl).recall pl
  let home := s.homeTime a.va
  let exp := s.lineExp pl home
  let st := s.stamps a.asid p
  let (msg, s) := s.newId
  ({ die, slot := 0, line := lineOf a.va, pa := pl, data := s.latestLine pl, poison := s.latestMarks pl
     state := some (if exp ≤ home then .m else .o), exp, lv := st.1, sf := st.2, versioned := p.ver, ft := 0, l1 := false, msg }
   , s.setDir { pa := pl, owner := some die, exp })

/-! ### Writes performed (R260, R264) -/

/-- Bytes written into a line's copy. -/
def L2Line.put (l : L2Line) (off : Nat) (bs : List Byte) : L2Line :=
  { l with data := l.data.writeN off bs, poison := clearWhole l.poison off bs.length, state := if l.state == .e then .m else l.state }
def L1Line.put (l : L1Line) (off : Nat) (bs : List Byte) : L1Line :=
  { l with data := l.data.writeN off bs, poison := clearWhole l.poison off bs.length }

/-- A write performed in the die's L2 in a line it owns (R260), through the core's L1 (R257): VT and the state. -/
def State.performLocal (s : State) (a : MemAcc) (l : L2Line) (bs : List Byte) : Nat × State :=
  let off := a.va % 128
  let s := s.modL2 l.die l.asid l.slot l.line (·.put off bs)
  let s := s.modL1 a.place a.asid 0 (lineOf a.va) (·.put off bs)
  (visibility l.exp (s.localTime a.place.die), s)

/-- A write performed at the home: owners recalled to I, the writing die's own copies of the line given up, the bytes
written (R258, R260, R270, R272). Giving up its own copies, fills on their way included, keeps a thread's later reads in order
(R282, R284). A mailbox line's snoop is used up (R266). -/
def State.performHome (s : State) (die pa : Nat) (bs : List Byte) : Nat × State :=
  let pl := lineOf pa
  let s := s.recall pl
  let s := (s.giveUp (fun l => l.pa == pl && l.die == die)).unholdFills (fun g => g.pa == pl && g.die == die)
  let s := (s.physWrite pa bs).modMem (fun m => { m with snooped := m.snooped.filter (fun x => x != pl) })
  let vt := s.homeVisibility pl
  (vt, s.noteHome vt)

/-- Whether the host caches a mailbox line: only the host knows (R266). Log 7. -/
def State.hostCaches (s : State) : Bool := Config.pick s.ctl.fresh % 2 == 1

/-- A write by the part to a mailbox line (R266): whether it must wait, and the state in which the snoop has been sent where the host
caches the line. A line whose snoop is answered is written without another. -/
def State.snoop (s : State) (pl : Nat) : Bool × State :=
  if s.mem.snooped.contains pl then (false, s)
  else if s.mem.backInval.contains pl then (true, s)
  else
    let out := s.hostCaches
    let s := s.modCtl (fun c => { c with fresh := c.fresh + 1 })
    if out then (true, s.modMem (fun m => { m with backInval := m.backInval ++ [pl] }))
    else (false, s)

/-- Whether the quadrant of an address's home is fenced: accesses homed there wait (R312). -/
def State.homeFenced (s : State) (va : Nat) : Bool := (s.time.receivers.getD (4 + homeQuad va) {}).fenced

/-- A write to host memory (R264, R265): posted; with MT 2 the die's cached copies are updated, and a fill on its way there that was
read before it is not kept. -/
def State.performHost (s : State) (a : MemAcc) (p : Page) (bs : List Byte) : Nat × State :=
  let off := a.va % 128
  let s := s.physWrite (p.phys a.va) bs
  let s := if p.mt == 2 then
      ((s.unholdFills (fun g => g.pa == lineOf (p.phys a.va) && g.die == a.place.die)).modL2 a.place.die a.asid 0 (lineOf a.va) (fun l => { l with data := l.data.writeN off bs })).modL1 a.place a.asid 0 (lineOf a.va)
        (fun l => { l with data := l.data.writeN off bs })
    else s
  (s.localTime a.place.die + 4, s)

end Sys2Proof.Machine
end

