-- ==== Sys2Proof/Machine/FrameStore.lean ====
section
/-! DEFINITION. Launch records, frame records in their pools and save areas, and what a team that leaves its core has in its save area
(spec/05 R136-R140; spec/06 R175-R178; spec/11 R308-R314; spec/16 R419). The layout of a save area is the part's (R309): here
8,192 bytes for the team, then 1,024 bytes, the window and the private allotment of each of 1,024 threads, then the core scratchpad
allotment and the cluster contribution (log 33). -/
namespace Sys2Proof.Machine

/-! ### The launch record (R419, R420) -/

/-- A launch record's 2,048 bits. -/
structure LaunchRecord where
  bits : Nat
  deriving DecidableEq, Repr

def LaunchRecord.entry (r : LaunchRecord) : Nat := fld r.bits 0 56
def LaunchRecord.teams (r : LaunchRecord) : Nat := fld r.bits 64 32
/-- Threads per team. -/
def LaunchRecord.threads (r : LaunchRecord) : Nat := fld r.bits 96 10 + 1
/-- Teams per static cluster. -/
def LaunchRecord.cteams (r : LaunchRecord) : Nat := fld r.bits 106 3 + 1
/-- Window size in bytes. -/
def LaunchRecord.window (r : LaunchRecord) : Nat := 256 * (fld r.bits 128 4 + 1)
/-- Private allotment, core scratchpad allotment and cluster contribution in bytes. -/
def LaunchRecord.priv (r : LaunchRecord) : Nat := 256 * fld r.bits 132 5
def LaunchRecord.scratch (r : LaunchRecord) : Nat := 128 * fld r.bits 144 14
def LaunchRecord.contribution (r : LaunchRecord) : Nat := 128 * fld r.bits 160 13
def LaunchRecord.step (r : LaunchRecord) : Nat := fld r.bits 288 24
def LaunchRecord.prio (r : LaunchRecord) : Nat := fld r.bits 312 6
def LaunchRecord.policy (r : LaunchRecord) : Nat := fld r.bits 318 2
def LaunchRecord.frames (r : LaunchRecord) : Nat := fld r.bits 320 16
def LaunchRecord.pool (r : LaunchRecord) : Nat := fld r.bits 384 64
def LaunchRecord.save (r : LaunchRecord) : Nat := fld r.bits 448 64
def LaunchRecord.arg (r : LaunchRecord) : Nat := fld r.bits 512 64
def LaunchRecord.sched (r : LaunchRecord) : Nat := fld r.bits 576 64
def LaunchRecord.peloton (r : LaunchRecord) : Nat := fld r.bits 640 64
def LaunchRecord.est (r : LaunchRecord) : Nat := fld r.bits 704 32
def LaunchRecord.stagger (r : LaunchRecord) : Nat := fld r.bits 736 16
def LaunchRecord.deadline (r : LaunchRecord) : Nat := fld r.bits 768 64
def LaunchRecord.compl (r : LaunchRecord) : Nat := fld r.bits 832 64
/-- Dependence d. -/
def LaunchRecord.dep (r : LaunchRecord) (d : Nat) : Nat := fld r.bits (1024 + 128 * d) 128
/-- Reserved fields: first bit and width. -/
def LaunchRecord.reserved : List (Nat × Nat) := [(56, 8), (109, 19), (137, 7), (158, 2), (173, 19), (336, 48), (752, 16), (896, 128)]

/-- The launch record of a grid. -/
def Grid.rec_ (g : Grid) : LaunchRecord := ⟨g.record⟩

/-! ### Where a save area holds what (R309) -/

/-- Bytes of a thread's part. -/
def LaunchRecord.saveStride (r : LaunchRecord) : Nat := r.window + r.priv + 1024
/-- Bytes of a team's save area. -/
def LaunchRecord.saveSize (r : LaunchRecord) : Nat := 8192 + 1024 * r.saveStride + r.scratch + r.contribution
/-- The save area of a team, and the part of a thread in it. -/
def LaunchRecord.saveOf (r : LaunchRecord) (team : Nat) : Nat := r.save + team * r.saveSize
def LaunchRecord.saveThread (r : LaunchRecord) (team index : Nat) : Nat := r.saveOf team + 8192 + index * r.saveStride

/-! ### Records that the part itself reads and writes at the home -/

/-- The pieces of [va, va + n) that lie in one line, as (address, bytes). -/
def lineRuns (va : Nat) : Nat → Nat → List (Nat × Nat)
  | 0, _ => []
  | fuel + 1, n => if n = 0 then [] else let k := min n (128 - va % 128); (va, k) :: lineRuns (va + k) fuel (n - k)

/-- All lines of a range. -/
def runsOf (va n : Nat) : List (Nat × Nat) := lineRuns va (n / 128 + 2) n

/-- A page that holds records of the part: readable and writable. -/
def State.recordPage (s : State) (asid va : Nat) : Option Page :=
  match s.page? asid va with
  | some p => if p.canRead && p.canWrite then some p else none
  | none => none

/-- A record's bytes in one line stored at the home: whether they have been, and the state. They wait while the home is fenced, or for
the host where it caches a mailbox line (R266, R312). -/
def State.storeRun (s : State) (p : Page) (va : Nat) (bs : List Byte) : Bool × State :=
  let pl := lineOf (p.phys va)
  if s.homeFenced va then (false, s)
  else
    let (wait, s) := if p.mt == 1 then s.snoop pl else (false, s)
    if wait then (false, s)
    else
      let s := ((s.recall pl).physWrite (p.phys va) bs).modMem (fun m => { m with snooped := m.snooped.filter (fun x => x != pl) })
      (true, s.noteHome (s.homeVisibility pl))

/-- A record written in its place, line by line; what must wait is held, and what follows it in its line. A page that does not take the
write is left as it is (log 33). -/
def State.recordWrite (s : State) (asid va : Nat) (bs : List Byte) : State :=
  (runsOf va bs.length).foldl (fun s r =>
    let piece := (bs.drop (r.1 - va)).take r.2
    let hold := fun (s : State) => s.modMem (fun m => { m with heldRecords := m.heldRecords ++ [(asid, r.1, piece)] })
    match s.recordPage asid r.1 with
    | none => s
    | some p =>
      if s.mem.heldRecords.any (fun h => h.1 == asid && lineOf h.2.1 == lineOf r.1) then hold s
      else match s.storeRun p r.1 piece with
        | (true, s) => s
        | (false, s) => hold s) s

/-- Records that were held go to their places as they can. The step does this after what it runs. -/
def State.flushRecords (s : State) : State :=
  s.mem.heldRecords.foldl (fun s h => s.recordWrite h.1 h.2.1 h.2.2) (s.modMem (fun m => { m with heldRecords := [] }))

/-- Whether every page of a record is there. -/
def State.recordThere (s : State) (asid va n : Nat) : Bool := (runsOf va n).all (fun r => (s.recordPage asid r.1).isSome)

/-- Whether a byte of a record has its home in a fenced quadrant. -/
def State.recordFenced (s : State) (va n : Nat) : Bool := (runsOf va n).any (fun r => s.homeFenced r.1)

/-- Bytes of a record with what of it is still held: the part reads its own records in order. -/
def State.withHeld (s : State) (asid va : Nat) (bs : List Byte) : List Byte :=
  if s.mem.heldRecords.isEmpty then bs
  else ((s.mem.heldRecords.filter (fun h => h.1 == asid)).foldl (fun (m : Mem) h => m.writeN h.2.1 h.2.2) (Mem.writeN [] va bs)).readN va bs.length

/-- A record as it stands in its place; none where its page is not there, or a byte is poisoned. -/
def State.recordBytes (s : State) (asid va n : Nat) : Option (List Byte) :=
  (runsOf va n).foldl (fun acc r => match acc, s.recordPage asid r.1 with
    | some bs, some p =>
      if s.latestBad (p.phys r.1) r.2 then none else some (bs ++ s.withHeld asid r.1 (s.latest (p.phys r.1) r.2))
    | _, _ => none) (some [])

/-! ### Frame records (R136-R140) -/

/-- The 512 bits of a thread's frame record (R139). -/
def State.frameBits (s : State) (t : Thread) : Nat :=
  let f := t.frame
  let team := match s.team? t.team with | some m => m.index | none => 0
  f.mark % 2 ^ 64 * 2 ^ 448 + f.arg.toNat * 2 ^ 384 + f.entry % 2 ^ 64 * 2 ^ 320 + f.parentIndex % 2 ^ 16 * 2 ^ 304
    + f.pthread % 1024 * 2 ^ 294 + t.index % 1024 * 2 ^ 284 + f.children % 2 ^ 16 * 2 ^ 268 + f.depth % 16 * 2 ^ 264
    + f.state % 4 * 2 ^ 262 + f.nrp.toNat * 2 ^ 261 + f.replay % 4 * 2 ^ 256 + team % 2 ^ 32 * 2 ^ 224

/-- Where a thread's frame record lies: its pool record's place, or a launched thread's part of its team's save area (R140). -/
def State.framePlace (s : State) (t : Thread) : Option (Nat × Nat) :=
  match s.team? t.team, s.gridOf t with
  | some m, some g => match t.frame.index with
    | some i => some (g.asid, g.rec_.pool + 64 * i)
    | none => some (g.asid, g.rec_.saveThread m.index t.index)
  | _, _ => none

/-- A frame record written through to its place (R137, R140). -/
def State.storeFrame (s : State) (tid : Nat) : State :=
  match s.thread? tid with
  | none => s
  | some t => match s.framePlace t with
    | some (asid, va) => s.recordWrite asid va (natToBytes 64 (s.frameBits t))
    | none => s

/-- A thread's frame record as its place holds it (R313, R314): one with a poisoned byte is all zero, so that it fails the checks of R314
(log 31); the part's own where its place is no page of records (log 33). -/
def State.fetchedFrame (s : State) (t : Thread) : Nat :=
  match s.framePlace t with
  | some (asid, va) => if s.recordThere asid va 64 then bytesToNat ((s.recordBytes asid va 64).getD []) else s.frameBits t
  | none => s.frameBits t

/-- Whether a thread's frame record has its home in a fenced quadrant. -/
def State.frameFenced (s : State) (t : Thread) : Bool := match s.framePlace t with | some (_, va) => s.recordFenced va 64 | none => false

/-- NRP set in a thread's frame, and written through before the action that sets it (R140, R146). -/
def State.setNrp (s : State) (tid : Nat) : State := (s.modThread tid Thread.setNrp).storeFrame tid

/-- The checks of R314 on a record of a pool with so many records. -/
def frameRecordOk (r frames : Nat) : Bool :=
  fld r 262 2 != 0 && decide (fld r 264 4 ≤ 10) && (fld r 304 16 == 0xFFFF || decide (fld r 304 16 < frames))
  && fld r 258 3 == 0 && fld r 0 224 == 0

/-- The thread of a grid whose frame PARENT and PTHREAD name: a pool record's owner, or a launched thread of the team. -/
def State.frameOwner (s : State) (grid team parent pthread : Nat) : Option Nat :=
  (s.threads.find? (fun u => match s.team? u.team, u.frame.index with
    | some m, some i => m.grid == grid && parent != 0xFFFF && i == parent
    | some m, none => m.id == team && parent == 0xFFFF && u.index == pthread
    | none, _ => false)).map (·.id)

/-- A thread with its frame record used as fetched (R314). -/
def State.useFrame (s : State) (t : Thread) (r : Nat) : Thread :=
  let f := t.frame
  let grid := match s.team? t.team with | some m => m.grid | none => 0
  let team := match s.teams.find? (fun m => m.grid == grid && m.index == fld r 224 32) with | some m => m.id | none => t.team
  let same := fld r 304 16 == f.parentIndex && fld r 294 10 == f.pthread
  { t with
    team, index := fld r 284 10
    frame := { f with
      mark := fld r 448 64, arg := BitVec.ofNat 64 (fld r 384 64), entry := fld r 320 64, parentIndex := fld r 304 16, pthread := fld r 294 10
      parent := if same then f.parent else s.frameOwner grid t.team (fld r 304 16) (fld r 294 10)
      children := fld r 268 16, depth := fld r 264 4, state := fld r 262 2, nrp := bit r 261, replay := fld r 256 2 } }

/-- Frame records that a core's frame store would hold: those of the threads of the teams on it (R138). -/
def State.frameUse (s : State) (p : Place) : Nat :=
  (s.threads.filter (fun t => match s.team? t.team with | some m => m.status == .resident && m.place == p | none => false)).length

/-- A pool record touched while its owner awaits or retires: on a core with more than 4,096 records it has gone back to the pool and is
fetched, and must pass the checks of R314 (R138). One whose home is fenced has stayed in the frame store. -/
def State.touchFrame (s : State) (tid : Nat) : State :=
  match s.thread? tid with
  | none => s
  | some t =>
    let away := match t.status with | .awaiting _ _ _ | .retired => true | _ => false
    if !away || t.frame.index.isNone || s.frameUse (s.placeOf t) ≤ 4096 || s.frameFenced t then s
    else match s.gridOf t with
      | some g =>
        let r := s.fetchedFrame t
        if frameRecordOk r g.rec_.frames then s.modThread tid (fun _ => s.useFrame t r) else s.gridError t Cause.frameBad 0
      | none => s

/-! ### What a team that has left its core has in its save area (R175, R177, R235, R308) -/

/-- The registers of a thread as words, in the order of its image. -/
def Thread.words (t : Thread) : List Nat :=
  [t.ctx.pkt, t.ctx.word, t.ctx.preds.toNat, t.ctx.fflags.toNat, t.ctx.link.toNat, t.ctx.srseed.toNat, t.icarry.toNat, t.tm, t.mstat.toNat
   , t.cpyerr.toNat, t.lksel.toNat, t.rfault.toNat, t.step, t.born] ++ (List.range 4).flatMap (fun k =>
    let v := t.views.getD k ⟨0, 0⟩
    [v.base, v.stride])

/-- What stands of a thread in its part of the save area after its frame record (R308): its registers, scoreboard counts, the first eight
pending faults (cause and address), its `q` copy. -/
def Thread.image (t : Thread) : List Byte :=
  t.words.flatMap (natToBytes 8) ++ t.ctx.slots.flatMap (natToBytes 1)
  ++ (List.range 8).flatMap (fun k => match (t.faults[k]?).map (fun f => f.stage) with
    | some (FlightStage.faulted c v) => natToBytes 8 c ++ natToBytes 8 v
    | _ => natToBytes 16 0)
  ++ t.q.regs.readN 0 256

/-- A `q` copy as bytes say: a byte that differs is written. -/
def QCopy.ofBytes (q : QCopy) (bs : List Byte) : QCopy :=
  (List.range 256).foldl (fun (q : QCopy) k => let b := (bs.drop k).take 1
    if q.regs.readN k 1 == b then q else q.write k b) q

/-- A thread whose words stand as bytes say. -/
def Thread.ofImage (t : Thread) (bs : List Byte) : Thread :=
  let w := fun (k : Nat) => bytesToNat ((bs.drop (8 * k)).take 8)
  let b := fun (k : Nat) => BitVec.ofNat 64 (w k)
  { t with
    ctx := { t.ctx with
      pkt := w 0, word := w 1 % 3, preds := BitVec.ofNat 8 (w 2), fflags := BitVec.ofNat 5 (w 3), link := b 4, srseed := BitVec.ofNat 32 (w 5)
      slots := (List.range 8).map (fun k => bytesToNat ((bs.drop (176 + k)).take 1) % 64) }
    icarry := BitVec.ofNat 8 (w 6), tm := w 7, mstat := b 8, cpyerr := b 9, lksel := b 10, rfault := b 11, step := w 12 % 2 ^ 24
    born := w 13 % 2 ^ 24, views := (List.range 4).map (fun k => ⟨w (14 + 2 * k) % 4096, w (15 + 2 * k) % 4096⟩)
    faults := t.faults.mapIdx (fun k f => match f.stage with
      | .faulted _ _ => if k < 8 then { f with stage := .faulted (w (23 + 2 * k) % 256) (w (24 + 2 * k)) } else f
      | _ => f)
    q := t.q.ofBytes (bs.drop 312) }

/-- The team registers in order. -/
def TeamRegs.words (r : TeamRegs) : List W64 :=
  [r.binctl, r.frmctl, r.spcnt, r.tvec, r.tctl] ++ r.mepi
  ++ [r.mroute, r.mrcnt, r.mgrp, r.sched, r.wtbase, r.wtctl, r.rgtime, r.cwto]

/-- Team registers from their words. -/
def TeamRegs.ofWords (l : List W64) : TeamRegs :=
  let w := fun k => l.getD k 0
  { binctl := w 0, frmctl := w 1, spcnt := w 2, tvec := w 3, tctl := w 4, mepi := (l.drop 5).take 8
    mroute := w 13, mrcnt := w 14, mgrp := w 15, sched := w 16, wtbase := w 17, wtctl := w 18, rgtime := w 19, cwto := w 20 }

/-- The arrivals at a team's barrier as a map of thread indexes (R156). -/
def State.arrivalBits (s : State) (b : Barrier) : Nat :=
  b.arrived.foldl (fun n a => match s.thread? a.tid with | some t => n ||| 2 ^ t.index | none => n) 0

/-- A team's state in its part of the save area (R308): its registers, convergence registers, paceline slots and barrier arrivals. -/
def State.teamImage (s : State) (m : Team) : List Byte :=
  m.regs.words.flatMap (fun w => natToBytes 8 w.toNat)
  ++ m.cvs.flatMap (fun c => [c.mask.toNat, c.signed.toNat, c.base, c.decl.toNat, c.word.toNat].flatMap (natToBytes 8))
  ++ m.pace.flatMap (fun x => natToBytes 8 x.isSome.toNat ++ (x.getD []).take 128 ++ List.replicate (128 - (x.getD []).length) 0)
  ++ m.bars.flatMap (fun b => natToBytes 8 (match b.arrived with | a :: _ => a.count | [] => 0) ++ natToBytes 128 (s.arrivalBits b))

/-- A barrier as an image says: the arrivals that stand in it, in order, then those that software has put there. -/
def State.barrierOf (s : State) (m : Team) (b : Barrier) (count bits : Nat) : Barrier :=
  let stay := b.arrived.filter (fun a => (s.thread? a.tid).any (fun t => bit bits t.index))
  let more := (s.threads.filter (fun t => t.team == m.id && bit bits t.index && !b.arrived.any (fun a => a.tid == t.id))).map
    (fun t => ({ tid := t.id, count, tm := t.tm } : Arrival))
  { arrived := (stay ++ more).mapIdx (fun k a => if k = 0 then { a with count } else a) }

/-- A team whose state stands as bytes say. -/
def State.teamOfImage (s : State) (m : Team) (bs : List Byte) : Team :=
  let w := fun (o : Nat) => bytesToNat ((bs.drop o).take 8)
  { m with
    regs := .ofWords ((List.range 21).map (fun k => BitVec.ofNat 64 (w (8 * k))))
    cvs := m.cvs.mapIdx (fun k c => let o := 168 + 40 * k
      { c with mask := BitVec.ofNat 32 (w o), signed := BitVec.ofNat 32 (w (o + 8)), base := w (o + 16), decl := bit (w (o + 24)) 0
               word := BitVec.ofNat 32 (w (o + 32)) })
    pace := m.pace.mapIdx (fun k _ => let o := 488 + 136 * k
      if bit (w o) 0 then some ((bs.drop (o + 8)).take 128) else none)
    bars := m.bars.mapIdx (fun k b => let o := 1576 + 136 * k
      s.barrierOf m b (w o) (bytesToNat ((bs.drop (o + 8)).take 128))) }

/-- A run of bytes written to a team's save area and noted there; a page that does not take it leaves the state with the part (log 33). -/
def State.saveRun (s : State) (tm : Nat) (kind : SaveKind) (off : LaunchRecord → Nat → Nat) (bs : List Byte) : State :=
  match s.team? tm with
  | none => s
  | some m => match s.grid? m.grid with
    | none => s
    | some g =>
      if bs.isEmpty then s
      else
        let va := off g.rec_ m.index
        let s := s.recordWrite g.asid va bs
        if s.recordBytes g.asid va bs.length == some bs then
          s.modTeam tm (fun m => { m with saved := m.saved.filter (fun r => r.kind != kind) ++ [({ kind, addr := va, bytes := bs } : SaveRun)] })
        else s

/-- A team's registers and those of its threads go to the save area (R308 step 3). -/
def State.saveImages (s : State) (tm : Nat) : State :=
  match s.team? tm with
  | none => s
  | some m =>
    let s := s.saveRun tm .team (fun r k => r.saveOf k) (s.teamImage m)
    (s.threads.filter (fun t => t.team == tm && t.resident)).foldl (fun s t =>
      (s.storeFrame t.id).saveRun tm (.thread t.id) (fun r k => r.saveThread k t.index + 64) t.image) s

/-- The window and the private allotment of a thread go to the save area. -/
def State.saveWindow (s : State) (tm : Nat) (t : Thread) : State :=
  (s.saveRun tm (.window t.id) (fun r k => r.saveThread k t.index + 1024) (t.win.readN 0 t.winSize)).saveRun tm (.priv t.id)
    (fun r k => r.saveThread k t.index + 1024 + r.window) (t.priv.bytes.readN 0 t.priv.size)

/-- What a team has parked in a slice, or its core scratchpad allotment (16) or operand-buffer ranges (17), is written out (R177,
R235, R236, R349). The ranges' bytes stay with the part (log 33). -/
def State.writeOut (s : State) (tm k : Nat) : State :=
  match s.team? tm with
  | none => s
  | some m =>
    let s := if k < 16 then (s.threads.filter (fun t => t.team == tm && t.resident && t.slice == k)).foldl (fun s t => s.saveWindow tm t) s
      else if k = 16 then s.saveRun tm .scratch (fun r i => r.saveOf i + 8192 + 1024 * r.saveStride) (m.scratch.bytes.readN 0 m.scratch.size)
      else s
    s.modTeam tm (fun m => { m with parkedIn := m.parkedIn.filter (fun x => x != k) })

/-- The byte offsets of a static cluster's memory that lie in the contribution of its team k of n, in order (R225). -/
def contributionLines (n k size : Nat) : List Nat := (List.range (size / 128)).map (fun j => (j * n + k) * 128)

/-- The contribution of a team's core to its cluster's memory goes to the team's save area (R309, R310). -/
def State.saveContribution (s : State) (tm : Nat) : State :=
  match s.team? tm with
  | none => s
  | some m => match s.grid? m.grid, s.clusters.find? (fun c => c.id == m.cluster) with
    | some g, some c => s.saveRun tm .cluster (fun r k => r.saveOf k + 8192 + 1024 * r.saveStride + r.scratch)
        ((contributionLines g.rec_.cteams (m.index % g.rec_.cteams) g.rec_.contribution).flatMap (fun o => c.mem.bytes.readN o 128))
    | _, _ => s

/-- The bytes that software has changed in a run, as (offset, byte). -/
def changedBytes (was now : List Byte) : List (Nat × Byte) :=
  ((was.zip now).zipIdx.filter (fun x => x.1.1 != x.1.2)).map (fun x => (x.2, x.1.2))

/-- An image as it stands now, with the bytes that software has changed in the saved one. -/
def mergeImage (was now cur : List Byte) : List Byte :=
  (cur.zip (was.zip now)).map (fun x => if x.2.1 == x.2.2 then x.1 else x.2.2)

/-- A scratchpad with bytes changed in its save area; a granule keeps its poison where not all of it has changed (R182). -/
def Scratch.alter (x : Scratch) (l : List (Nat × Byte)) : Scratch :=
  { x with bytes := l.foldl (fun (m : Mem) c => m.writeN c.1 [c.2]) x.bytes
           poison := x.poison.filter (fun g => !(List.range 8).all (fun k => l.any (fun c => c.1 == 8 * g + k))) }

/-- A run of a save area that software has changed: what it has changed stands (R309); the poison of other bytes stays (R182). -/
def State.alter (s : State) (tm : Nat) (r : SaveRun) (now : List Byte) : State :=
  let l := changedBytes r.bytes now
  match r.kind with
  | .team => match s.team? tm with
    | none => s
    | some m => s.modTeam tm (fun m' => s.teamOfImage m' (mergeImage r.bytes now (s.teamImage m)))
  | .thread t => s.modThread t (fun x => x.ofImage (mergeImage r.bytes now x.image))
  | .window t => s.modThread t (fun x => l.foldl (fun (x : Thread) c => x.write c.1 [c.2]) x)
  | .priv t => s.modThread t (fun x => { x with priv := x.priv.alter l })
  | .scratch => s.modTeam tm (fun m => { m with scratch := m.scratch.alter l })
  | .cluster => match s.team? tm with
    | none => s
    | some m => match s.grid? m.grid with
      | none => s
      | some g =>
        let lines := contributionLines g.rec_.cteams (m.index % g.rec_.cteams) g.rec_.contribution
        s.modCluster m.cluster (fun c => { c with mem := c.mem.alter (l.map (fun x => (lines.getD (x.1 / 128) 0 + x.1 % 128, x.2))) })

/-- Some runs of a team's save area taken back: the state, and whether software has changed the area (R309). A run that cannot be read
stays with the part (log 33). -/
def State.loadRuns (s : State) (tm : Nat) (pick : SaveKind → Bool) : State × Bool :=
  match s.team? tm with
  | none => (s, false)
  | some m => match s.grid? m.grid with
    | none => (s, false)
    | some g =>
      let (s, changed) := (m.saved.filter (fun r => pick r.kind)).foldl (fun (acc : State × Bool) r =>
        match acc.1.recordBytes g.asid r.addr r.bytes.length with
        | some bs => if bs == r.bytes then acc else (acc.1.alter tm r bs, true)
        | none => acc) (s, false)
      (s.modTeam tm (fun m => { m with saved := m.saved.filter (fun r => !pick r.kind) }), changed)

/-- A team's state as its save area holds it, with what the areas of its cluster's other teams hold of the cluster's memory (R309, R310). -/
def State.loadSaved (s : State) (tm : Nat) : State × Bool :=
  let mates : List Nat := match s.team? tm with
    | some m => (s.teams.filter (fun x => x.cluster == m.cluster && x.id != tm)).map (fun x => x.id)
    | none => []
  mates.foldl (fun (acc : State × Bool) t => let r := acc.1.loadRuns t (· == SaveKind.cluster)
    (r.1, acc.2 || r.2)) (s.loadRuns tm (fun _ => true))

end Sys2Proof.Machine
end

