-- ==== Sys2Proof/Machine/Flags.lean ====
section
/-! DEFINITION. How words set the sticky flags of `cr.fflags` (spec/03 R89-R92): in each thread in which they have effect, ORed
over block steps and over the words of a group. -/
namespace Sys2Proof.Machine

/-- Flags a word sets at issue in a thread's running context (R91). -/
def Thread.setFlags (t : Thread) (f : Flags) : Thread := t.orFlags t.trap.isSome f.bits

/-- Flags a long-latency word sets when it completes, in the context it issued in (R91, R93). -/
def State.setFlagsLate (s : State) (tid : Nat) (trapCtx : Bool) (f : Flags) : State :=
  s.modThread tid (fun t => t.orFlags trapCtx f.bits)

end Sys2Proof.Machine
end

