-- ==== Sys2Proof/Machine/Operands.lean ====
section
/-! DEFINITION. How a word at issue names its operands, which threads it acts in, when it is held, when it traps, and how the
results of the words of a tied group are put together (spec/02 R39-R53, spec/04 R107-R109, spec/06 R164-R168, R180-R183). -/
namespace Sys2Proof.Machine

/-! ### The group at issue -/

/-- A change to the group at issue. -/
def State.modIssue (s : State) (f : IssueCtx → IssueCtx) : State :=
  s.modCtl (fun c => { c with issue := c.issue.map f })

/-- The address after the group: the next word, or word 0 of the next packet (R125, R129). -/
def IssueCtx.next (i : IssueCtx) : Nat × Nat := if i.last ≥ 2 then (i.pkt + 1, 0) else (i.pkt, i.last + 1)

/-- The registers a word of the group reads: the thread as it was before the group (R40). -/
def IssueCtx.src (i : IssueCtx) (tid : Nat) : Option Thread := i.before.find? (fun t => t.id == tid)

/-- Whether the guard of `grd` holds in a thread (R51). -/
def guardHolds (x : Pfx) (t : Thread) : Bool :=
  x.grd.isNone || (t.ctx.pred x.guardP != x.guardSense)

/-- The participants: the active members in which the word takes effect, as they were before the group (R51, R134). -/
def IssueCtx.parts (i : IssueCtx) : List Thread := (i.active.filterMap i.src).filter (guardHolds i.pfx)

/-- What a participant's checks come to: it may issue, it is held (R109), it raises a cause (R46), or it has reached
the holding point of a pending fault (R296). -/
inductive Verdict where
  | pass
  | hold
  | trap (cause val : Nat)
  | late
  deriving DecidableEq, Repr

/-- The first of two verdicts that is not `pass`. -/
def Verdict.andThen (a : Verdict) (b : Verdict) : Verdict := match a with | .pass => b | _ => a

/-- A cause unless a condition holds. -/
def Verdict.require (ok : Bool) (cause val : Nat) : Verdict := if ok then .pass else .trap cause val

/-- Held unless a condition holds. -/
def Verdict.await (ok : Bool) : Verdict := if ok then .pass else .hold

/-- The word at issue in each participant: a pending fault is taken first, by the participants that have reached their
holding point (R296); held in any participant the word does not issue (R109); raising in any, no word of the group
takes effect and the traps are taken (R46, R298); else its effect, which follows at once where the checks of the whole
group have been made. `pipe` is its pipe (R59). -/
def issueWord (s : State) (pipe : Pipe) (verdict : IssueCtx → Thread → Verdict) (effect : IssueCtx → List Thread → State → State) :
    Result :=
  match s.ctl.issue with
  | none => .next s
  | some i =>
    let ps := i.parts
    if i.checked then .next (effect i ps s)
    else
    let vs := ps.map (fun t => (t.id, verdict i t))
    let lates := (vs.filter (fun v => v.2 == .late)).map (·.1)
    let xs : List Raised := vs.filterMap (fun v => match v.2 with
      | .trap c x => some { tid := v.1, cause := c, val := x, word := i.word, pipe := pipe.code }
      | _ => none)
    if !lates.isEmpty then
      .next ((lates.foldl (fun s t => s.takeLate t (i.pkt, i.entry)) s).modIssue (fun i => { i with status := .late }))
    else if vs.any (fun v => v.2 == .hold) then .next (s.modIssue (fun i => { i with status := .stalled }))
    else if xs.isEmpty then .next (effect i ps s)
    else .next ((s.takeTraps xs i.active i.pkt i.entry).modIssue (fun i => { i with status := .raised xs }))

/-- As `issueWord` for a word that UD makes uniform: one effect, with the first active member (R108). DESIGN CHOICE (log 31): a cause
that the first active member meets is every active member's, each taking the trap. -/
def issueUniform (s : State) (pipe : Pipe) (verdict : IssueCtx → Thread → Verdict) (effect : IssueCtx → Thread → State → State) :
    Result :=
  issueWord s pipe (fun i _ => match i.active.filterMap i.src with | t :: _ => verdict i t | [] => .pass)
    (fun i _ s => match i.active.filterMap i.src with | t :: _ => effect i t s | [] => s)

/-- A word of a participant that sets its next address (R41). -/
def State.jump (s : State) (tid pkt word : Nat) : State :=
  (s.modThread tid (·.goto pkt word)).modIssue (fun i => { i with jumped := i.jumped ++ [tid] })

/-! ### Operands (R32, R33, R163, R164) -/

/-- Element size of a view (R163). -/
def viewE : Nat → Nat
  | 0 => 8 | 1 => 32 | 2 => 32 | _ => 1

/-- A register operand as a word names it: view or `q` class, register, how many registers, whether it steps. -/
structure Operand where
  view : Nat := 0
  reg : Nat
  isQ : Bool := false
  step : Bool := false
  count : Nat := 1
  deriving DecidableEq, Repr

/-- A VV register or, under a bit of `ext`, a `q` register. -/
def Operand.vv (reg : BitVec 6) (isQ : Bool) (step : Bool := false) : Operand := { reg := reg.toNat, isQ, step }

/-- Consecutive VV or `q` registers from one. -/
def Operand.run (reg : BitVec 6) (count : Nat) (isQ : Bool := false) : Operand := { reg := reg.toNat, isQ, count }

/-- Bytes of an operand. -/
def Operand.len (o : Operand) : Nat := o.count * (if o.isQ then 8 else viewE o.view)

/-- The view of an operand in a thread. -/
def Thread.view (t : Thread) (v : Nat) : View := t.views.getD v ⟨0, 0⟩

/-- The offset an operand names at step (i, j) of a block: in the window, or in the q copy (R49, R164). -/
def Operand.off (o : Operand) (t : Thread) (i j : Nat) : Nat :=
  if o.isQ then 8 * o.reg
  else
    let w := t.view o.view
    w.base + o.reg * viewE o.view + (if o.step then i * w.stride + j * viewE o.view else 0)

/-- The steps of a block in row-major order (R49). -/
def blockSteps (x : Pfx) : List (Nat × Nat) :=
  (List.range x.rows).flatMap (fun i => (List.range x.cols).map (fun j => (i, j)))

/-- The window ranges that operands name over all steps (R164). -/
def namedRanges (t : Thread) (os : List Operand) (steps : List (Nat × Nat)) : List (Nat × Nat) :=
  (os.filter (fun o => !o.isQ)).flatMap (fun o =>
    (if o.step then steps else [(0, 0)]).map (fun ij => (o.off t ij.1 ij.2, o.len)))

/-- The lowest offset at or above SIZE among ranges (R164, R303). -/
def lowestBeyond (size : Nat) (rs : List (Nat × Nat)) : Option Nat :=
  minNat? ((rs.filter (fun r => decide (size < r.1 + r.2))).map (fun r => max size r.1))

/-- WINDOW_RANGE for window ranges (R164). -/
def rangeVerdict (t : Thread) (rs : List (Nat × Nat)) : Verdict :=
  match lowestBeyond t.winSize rs with
  | some o => .trap Cause.windowRange o
  | none => .pass

/-- REG_POISON for bytes read: window ranges and q ranges (R181, R182). DESIGN CHOICE (log 31): where only bytes of the `q` copy are
poisoned, VAL is the lowest one's offset within the copy; a window byte goes first. -/
def poisonVerdict (t : Thread) (q : QCopy) (win qs : List (Nat × Nat)) : Verdict :=
  let hit := fun (p : List Nat) (rs : List (Nat × Nat)) =>
    p.filter (fun x => rs.any (fun r => decide (r.1 ≤ x) && decide (x < r.1 + r.2)))
  match minNat? (hit t.winPoison win) with
  | some o => .trap Cause.regPoison o
  | none => match minNat? (hit q.poison qs) with
    | some o => .trap Cause.regPoison o
    | none => .pass

/-- A group that names a byte pending for a matrix result waits (R345). -/
def pendingVerdict (t : Thread) (rs : List (Nat × Nat)) : Verdict :=
  .await (!t.pending.any (fun p => rs.any (fun r => decide (r.1 ≤ p.1) && decide (p.1 < r.1 + r.2))))

/-- R345, R164 and R181 for a word without a block: operands it only reads, operands it only writes. -/
def operandVerdict (q : QCopy) (t : Thread) (reads writes : List Operand) : Verdict :=
  let rs := namedRanges t (reads ++ writes) [(0, 0)]
  let qs := (reads.filter (·.isQ)).map (fun o => (8 * o.reg, o.len))
  ((pendingVerdict t rs).andThen (rangeVerdict t rs)).andThen
    (poisonVerdict t q (namedRanges t reads [(0, 0)]) qs)

/-- As `operandVerdict`, for a word that reads parts of its operands: all it names, and what it reads as (operand, first
byte, bytes) (R181). -/
def fieldVerdict (q : QCopy) (t : Thread) (named : List Operand) (reads : List (Operand × Nat × Nat)) : Verdict :=
  let rs := namedRanges t named [(0, 0)]
  let win := (reads.filter (fun r => !r.1.isQ)).map (fun r => (r.1.off t 0 0 + r.2.1, r.2.2))
  let qs := (reads.filter (fun r => r.1.isQ)).map (fun r => (8 * r.1.reg + r.2.1, r.2.2))
  ((pendingVerdict t rs).andThen (rangeVerdict t rs)).andThen (poisonVerdict t q win qs)

/-- As `fieldVerdict`, for a word that reads the first bytes of its operands. -/
def partialVerdict (q : QCopy) (t : Thread) (named : List Operand) (reads : List (Operand × Nat)) : Verdict :=
  fieldVerdict q t named (reads.map (fun r => (r.1, 0, r.2)))

/-- The bytes of an operand in a thread, or in a q copy. -/
def Operand.bytes (o : Operand) (t : Thread) (q : QCopy) : List Byte :=
  if o.isQ then q.regs.readN (8 * o.reg) o.len else t.win.readN (o.off t 0 0) o.len

/-- The value of an operand's first 8 bytes. -/
def Operand.val (o : Operand) (t : Thread) (q : QCopy) : W64 := BitVec.ofNat 64 (bytesToNat ((o.bytes t q).take 8))

/-- Where a result in an operand lands (R167). -/
def Operand.dst (o : Operand) (i : IssueCtx) (t : Thread) : Dst := if o.isQ then .q i.crew o.reg else .win (o.off t 0 0)

/-! ### Element-wise words: read, compute, write, step by step (R49, R168) -/

/-- What a step reads: d, a and b as numbers, the immediate, the thread's predicates, carry bits and
generator. -/
structure LaneIn where
  d : Nat
  a : Nat
  b : Nat
  preds : BitVec 8
  icarry : BitVec 8
  seed : BitVec 32
  deriving DecidableEq, Repr

/-- What a step does: the bytes of d it writes (all, or those of a mask), a predicate, flags, generator, carry. -/
structure LaneOut where
  d : Option Nat := none
  /-- Which bytes of d are written; bit k for byte k. -/
  dMask : Nat := 0xFFFFFFFF
  p : Option (Nat × Bool) := none
  flags : Flags := {}
  seed : Option (BitVec 32) := none
  icarry : Option (BitVec 8) := none
  deriving DecidableEq, Repr

/-- An element-wise word: its operands, which bytes of each it reads (masks over d, a, b), its function. -/
structure LaneWord where
  d : Option Operand := none
  a : Option Operand := none
  b : Option Operand := none
  reads : LaneIn → Nat × Nat × Nat
  run : LaneIn → LaneOut

/-- A change a word makes to a thread. -/
inductive LaneWrite where
  | win (off : Nat) (bytes : List Byte)
  | q (off : Nat) (bytes : List Byte)
  | pred (p : Nat) (b : Bool)
  deriving DecidableEq, Repr

/-- A thread's and its crew's registers while a word steps through its block, and the changes so far. -/
structure LaneState where
  t : Thread
  q : QCopy
  writes : List LaneWrite := []
  flags : Flags := {}
  /-- Bytes read so far that are poisoned: window offsets, and offsets in the q copy. -/
  bad : List Nat := []
  badQ : List Nat := []
  /-- Whether a step has computed carries. -/
  carried : Bool := false
  deriving DecidableEq, Repr

/-- The bytes [off + k] whose mask bit k is set, among n. -/
def maskedOffsets (off n mask : Nat) : List Nat := ((List.range n).filter (bit mask)).map (· + off)

/-- The value of an optional operand at a step. -/
def LaneState.get (l : LaneState) (o : Option Operand) (i j : Nat) : Nat :=
  match o with
  | none => 0
  | some o => if o.isQ then l.q.regs.readNat (o.off l.t i j) o.len else l.t.win.readNat (o.off l.t i j) o.len

/-- The poisoned bytes among those an operand reads at a step. -/
def LaneState.badOf (l : LaneState) (o : Option Operand) (mask i j : Nat) : List Nat :=
  match o with
  | none => []
  | some o => (maskedOffsets (o.off l.t i j) o.len mask).filter (fun x => (if o.isQ then l.q.poison else l.t.winPoison).contains x)

/-- The poisoned bytes that an operand reads at a step noted. -/
def LaneState.meets (l : LaneState) (o : Option Operand) (mask i j : Nat) : LaneState :=
  match o with
  | some p => if p.isQ then { l with badQ := l.badQ ++ l.badOf o mask i j } else { l with bad := l.bad ++ l.badOf o mask i j }
  | none => l

/-- REG_POISON for the poisoned bytes met: the lowest in the window, and where there is none the lowest in the q copy (R181, log 31). -/
def LaneState.verdict (l : LaneState) : Verdict :=
  match minNat? l.bad with
  | some o => .trap Cause.regPoison o
  | none => match minNat? l.badQ with
    | some o => .trap Cause.regPoison o
    | none => .pass

/-- A write recorded and made. -/
def LaneState.put (l : LaneState) (w : LaneWrite) : LaneState :=
  let l := { l with writes := l.writes ++ [w] }
  match w with
  | .win off bs => { l with t := l.t.write off bs }
  | .q off bs => { l with q := l.q.write off bs }
  | .pred p b => { l with t := l.t.setPred p b }

/-- The bytes of d written at a step, as runs of one byte where a mask leaves some out. -/
def dWrites (o : Operand) (off v mask : Nat) : List LaneWrite :=
  let one := fun (x : Nat) (bs : List Byte) => if o.isQ then LaneWrite.q x bs else LaneWrite.win x bs
  if fld mask 0 o.len == 2 ^ o.len - 1 then [one off (natToBytes o.len v)]
  else ((List.range o.len).filter (bit mask)).map (fun k => one (off + k) [BitVec.ofNat 8 (v / 256 ^ k)])

/-- One step of a block. -/
def LaneWord.step (w : LaneWord) (l : LaneState) (ij : Nat × Nat) : LaneState :=
  let x : LaneIn := { d := l.get w.d ij.1 ij.2, a := l.get w.a ij.1 ij.2, b := l.get w.b ij.1 ij.2
                      preds := l.t.ctx.preds, icarry := l.t.icarry, seed := l.t.ctx.srseed }
  let (md, ma, mb) := w.reads x
  let l := ((l.meets w.d md ij.1 ij.2).meets w.a ma ij.1 ij.2).meets w.b mb ij.1 ij.2
  let y := w.run x
  let l := { l with flags := l.flags.or y.flags, carried := l.carried || y.icarry.isSome
                    t := { l.t with icarry := y.icarry.getD l.t.icarry
                                    ctx := { l.t.ctx with srseed := y.seed.getD l.t.ctx.srseed } } }
  let l := match w.d, y.d with
    | some o, some v => (dWrites o (o.off l.t ij.1 ij.2) v y.dMask).foldl LaneState.put l
    | _, _ => l
  match y.p with
  | some (p, b) => l.put (.pred p b)
  | none => l

/-- All steps of a word in one thread. -/
def LaneWord.go (w : LaneWord) (x : Pfx) (t : Thread) (q : QCopy) : LaneState :=
  (blockSteps x).foldl w.step { t, q }

/-- The operands of a word. -/
def LaneWord.operands (w : LaneWord) : List Operand := w.d.toList ++ w.a.toList ++ w.b.toList

/-- The checks of an element-wise word in a thread: pending bytes (R345), R164, R181. -/
def LaneWord.verdict (w : LaneWord) (x : Pfx) (q : QCopy) (t : Thread) : Verdict :=
  let rs := namedRanges t w.operands (blockSteps x)
  ((pendingVerdict t rs).andThen (rangeVerdict t rs)).andThen (w.go x t q).verdict

/-- A recorded write made on the live thread. -/
def Thread.replay (t : Thread) : LaneWrite → Thread
  | .win off bs => t.write off bs
  | .q _ _ => t
  | .pred p b => t.setPred p b

/-- A recorded write made on the live q copy. -/
def QCopy.replay (q : QCopy) : LaneWrite → QCopy
  | .q off bs => q.write off bs
  | _ => q

/-- A word's changes made on the live thread (R40): writes in order, flags ORed, carries where the word
has computed them, the generator where it has moved it. -/
def Thread.applyLane (t : Thread) (before : Thread) (l : LaneState) : Thread :=
  let t := l.writes.foldl Thread.replay t
  let t := t.setFlags l.flags
  let t := if l.carried then { t with icarry := l.t.icarry } else t
  if l.t.ctx.srseed != before.ctx.srseed then t.modCtx (fun c => { c with srseed := l.t.ctx.srseed }) else t

/-- An element-wise word whose destination is in the window or a predicate, in every participant (R107). -/
def runLane (s : State) (pipe : Pipe) (w : LaneWord) : Result :=
  issueWord s pipe (fun i t => w.verdict i.pfx i.beforeQ t)
    (fun i ps s => ps.foldl (fun s t => s.modThread t.id (fun live => live.applyLane t (w.go i.pfx t i.beforeQ))) s)

/-- An element-wise word that UD makes uniform (R108): one effect on the crew's copy, flags in every active
member, draws from the first member's generator (log 12). -/
def runLaneUniform (s : State) (pipe : Pipe) (w : LaneWord) : Result :=
  issueUniform s pipe (fun i t => w.verdict i.pfx i.beforeQ t)
    (fun i t s =>
      let l := w.go i.pfx t i.beforeQ
      let s := s.modCrew i.crew (fun c => { c with q := l.writes.foldl QCopy.replay c.q })
      let s := i.active.foldl (fun s u => s.modThread u (·.setFlags l.flags)) s
      s.modThread t.id (fun live =>
        if l.t.ctx.srseed != t.ctx.srseed then live.modCtx (fun c => { c with srseed := l.t.ctx.srseed }) else live))

/-- The modifiers of the word at issue. -/
def State.pfx (s : State) : Pfx := match s.ctl.issue with | some i => i.pfx | none => {}

/-- An element-wise word, uniform under UD (R183, R196). -/
def runLaneWord (s : State) (pipe : Pipe) (w : LaneWord) : Result :=
  if s.pfx.ud then runLaneUniform s pipe w else runLane s pipe w

/-! ### Words in flight (R54, R55, R57) -/

/-- A word of format M or MX enters flight: a new record, its slot raised in each counting member (R54); its window
opens when the group ends (R55). -/
def State.launchFlight (s : State) (i : IssueCtx) (tids : List Nat) (la : Nat) (sb : Option Nat) (pipe : Pipe) (kind : FlightKind)
    (stage : FlightStage := .start) : State :=
  let (fid, s) := s.newId
  let trapCtx := match tids with | t :: _ => (match s.thread? t with | some x => x.trap.isSome | none => false) | [] => false
  let s := match sb with
    | none => s
    | some sb => tids.foldl (fun s t => s.modThread t (·.slotUp sb)) s
  let s := { s with flights := s.flights ++
    [({ id := fid, tids, sb, trapCtx, pkt := i.pkt, word := i.word, pipe := pipe.code, crew := i.crew
        group := 4 * i.num + i.word, step := i.beforeStep, kind, stage } : Flight)] }
  match sb with
  | none => s
  | some _ => s.modIssue (fun x => { x with born := x.born ++ [(fid, i.word, la)] })

/-- A slot of a thread takes n more counts (R54). -/
def State.slotVerdict (s : State) (tid sb n : Nat) : Verdict :=
  match s.thread? tid with
  | some t => .await (decide (t.ctx.slots.getD sb 0 + n ≤ 63))
  | none => .pass

/-- The outstanding flights of a thread. -/
def State.flightsOf (s : State) (tid : Nat) : List Flight := s.flights.filter (fun f => f.tids.contains tid)

/-- What an access does to memory: a store, atomic, reduction or remote write (R148). -/
def MemOp.writes : MemOp → Bool
  | .store | .atom _ | .red _ | .momAcc => true
  | _ => false

/-- A flight of a store, atomic, reduction or remote store: memory, scratchpad or remote (R148). -/
def Flight.isWrite (f : Flight) : Bool :=
  match f.kind with
  | .mem a => a.op.writes
  | .scr a => a.op.writes
  | .remote a => a.op.writes
  | .tile _ _ _ _ _ _ _ => true
  -- the stores of a stream job are stores of the thread (R219)
  | .pace _ => true
  | _ => false

/-- A flight that reads or writes memory, a scratchpad or another package's memory for its thread, the loads of sampling, ray and marching
words and of `mobl` from memory among them (R354, R399, R405, R410); a prefetch is none (R148, R279). -/
def Flight.isAccess (f : Flight) : Bool :=
  match f.kind with
  | .mem a => (match a.op with | .pf _ => false | _ => true)
  | .scr _ | .remote _ | .tile _ _ _ _ _ _ _ | .tex _ _ _ _ _ _ _ _ | .ray _ _ | .fmarch _ _ => true
  | .mobl _ _ _ _ scratch => !scratch
  | _ => false

/-- A flight of a scratchpad store or atomic (R243, R244). -/
def Flight.isScrWrite (f : Flight) : Bool :=
  match f.kind with
  | .scr a => a.op.writes
  | _ => false

/-- A flight of a job of an engine. -/
def Flight.isJob (f : Flight) : Bool :=
  match f.kind with
  | .job _ | .pace _ | .vpub _ _ _ | .coll _ _ => true
  | _ => false

/-- A posted add or tile: it holds no slot, and its fault is taken at whatever holding point comes next (R447, R457). -/
def Flight.posted (f : Flight) : Bool :=
  match f.kind with
  | .cntAdd _ _ _ _ _ _ _ | .tile _ _ _ _ _ _ _ => true
  | _ => false

/-- A word that waits until the thread's words that satisfy p have completed (R57, R148 and the entries): held while one
is outstanding, in whichever of its contexts the thread issued it; a faulted one among them of the running context is taken here
(R296). One that has faulted and waits for a handler to return has not completed (R296). -/
def State.waitFor (s : State) (tid : Nat) (p : Flight → Bool) : Verdict :=
  match s.thread? tid with
  | none => .pass
  | some t =>
    if t.faults.any (fun f => t.faultHere f && (p f || f.posted)) then .late
    else .await (!(s.flightsOf tid).any p && !t.faulted.any p)

end Sys2Proof.Machine
end

