-- ==== Sys2Proof/Machine/ScratchOps.lean ====
section
/-! DEFINITION. The four scratchpad levels as one operation each (spec/08 R222-R233, R240): level 0 core scratchpad, 1 cluster
memory, 2 package scratchpad (as R242 codes them), 3 the thread's own slice. An allotment is named by its level and
owner: team, cluster, address space, thread. -/
namespace Sys2Proof.Machine

/-- The owner of the allotment that a thread reaches at a level. -/
def State.scrOwner (s : State) (t : Thread) (level : Nat) : Nat :=
  match level with
  | 0 => t.team
  | 1 => match s.team? t.team with | some m => m.cluster | none => 0
  | 2 => s.asidOf t
  | _ => t.id

/-- An allotment. -/
def State.scr (s : State) (level owner : Nat) : Scratch :=
  match level with
  | 0 => match s.team? owner with | some m => m.scratch | none => {}
  | 1 => match s.clusters.find? (fun c => c.id == owner) with | some c => c.mem | none => {}
  | 2 => let a := s.asidBlock owner
         { a.pk with size := fld a.pkwin.toNat 0 8 * 2 ^ 21 }
  | _ => match s.thread? owner with | some t => t.priv | none => {}

/-- An allotment changed. -/
def State.modScr (s : State) (level owner : Nat) (f : Scratch → Scratch) : State :=
  match level with
  | 0 => s.modTeam owner (fun m => { m with scratch := f m.scratch })
  | 1 => s.modCluster owner (fun c => { c with mem := f c.mem })
  | 2 => s.modAsid owner (fun a => { a with pk := f a.pk })
  | _ => s.modThread owner (fun t => { t with priv := f t.priv })

/-- Bytes stored: whole granules lose their poison (R240). -/
def Scratch.store (x : Scratch) (off : Nat) (bs : List Byte) : Scratch :=
  { x with bytes := x.bytes.writeN off bs, poison := clearWhole x.poison off bs.length }

/-- Whether n bytes hold a poisoned one (R240). -/
def Scratch.bad (x : Scratch) (off n : Nat) : Bool := (lowestMarked x.poison off n).isSome

/-- Lines that n bytes touch. -/
def linesOf (off n : Nat) : List Nat := if n = 0 then [] else (List.range ((off + n - 1) / 128 - off / 128 + 1)).map (· + off / 128)

/-- Presence bits set or cleared (R233): absent lines stand in the list. -/
def Scratch.present (x : Scratch) (lines : List Nat) (p : Bool) : Scratch :=
  { x with absent := if p then x.absent.filter (fun l => !lines.contains l) else lines.foldl (fun acc l => insertNat l acc) x.absent }

/-- Whether a line is absent. -/
def State.lineAbsent (s : State) (l : ScrLine) : Bool := (s.scr l.level l.owner).absent.contains l.line

/-- Crews parked on lines that have become present go back to the tail of their slice's queue (R234, R110). -/
def State.unpark (s : State) : State :=
  let f := fun (c : Crew) =>
    if c.parked.isEmpty || c.parked.any s.lineAbsent then c
    else { c with parked := [], ticket := s.ctl.nextId, queuedAt := match s.team? c.team with | some m => s.dclk m.place.die | none => 0 }
  { (s.modCtl (fun c => { c with nextId := c.nextId + 1 })) with crews := s.crews.map f }

/-- Presence bits of an allotment set or cleared, with the parked crews that this frees. -/
def State.setPresence (s : State) (level owner : Nat) (lines : List Nat) (p : Bool) : State :=
  let s := s.modScr level owner (·.present lines p)
  if p then s.unpark else s

end Sys2Proof.Machine
end

