-- ==== Sys2Proof/Machine/MemEvents.lean ====
section
/-! DEFINITION. The events of memory accesses in flight: requests at the home, fills, landing, writes performed, late faults,
leases, copies-on-write (spec/09 R252-R276; spec/12 R320-R337; spec/11 R296; spec/01 R23). -/
namespace Sys2Proof.Machine

/-- An event that cannot happen now. -/
def notNow (name : String) : Result := .fault (.notEnabled name)

/-- The window range of a landing result is 8 bytes; the thread's predicate of `.old` is written with it (R336). -/
def State.landLoad (s : State) (f : Flight) (dst : Dst) (bs : List Byte) (x : VerSel) (pred : Option Bool) : State :=
  let s := match f.tids with
    | t :: _ => s.land t dst bs
    | [] => s
  match pred with
  | none => s
  | some b => f.tids.foldl (fun s t => s.modThread t (fun t =>
      t.modWordCtx f.trapCtx (fun c => { c with preds := setPredBits c.preds x.pred b }))) s

/-- A flight's stage set. -/
def State.stage (s : State) (f : Nat) (st : FlightStage) : State := s.modFlight f (fun f => { f with stage := st })

/-- What an access asks of the home. -/
def MemAcc.want (a : MemAcc) : Want :=
  match a.op with
  | .load | .pf _ | .momRes _ | .ldv => .read
  | .store => .write
  | .atom op => .atom op (orDefault a.dfmt 15)
  | .red _ | .momAcc => .reduce
  | .hrel => .hostRead

/-- The address that an access names: that of both halves where one has been made (R283). -/
def MemAcc.addr (a : MemAcc) : Nat := match a.half with | some h => if h.k = 0 then a.va - 8 else a.va | none => a.va

/-- The home's answer to an access: for the half still to be made, the translation that the other had (R254). -/
def State.accessPage (s : State) (a : MemAcc) : Translated :=
  match a.half.bind (·.page) with
  | some p => .ok p
  | none => s.translate a.asid a.va a.want

/-- The page that an access goes through, where there is one. -/
def State.accessPage? (s : State) (a : MemAcc) : Option Page :=
  match a.half.bind (·.page) with
  | some p => some p
  | none => s.page? a.asid a.va

/-- Half k of a 16-byte access, the other half made through a page, with the bytes it read (R283). -/
def MemAcc.part (a : MemAcc) (k : Nat) (bytes : List Byte) (page : Option Page) : MemAcc :=
  { a with va := a.va + 8 * k, size := 8, data := (a.data.drop (8 * k)).take 8, half := some { k := 1 - k, bytes, page } }

/-- Bytes that a 16-byte load takes together with those that its other half has read. -/
def HalfDone.join (h : HalfDone) (bs : List Byte) : List Byte := if h.k = 0 then h.bytes ++ bs else bs ++ h.bytes

/-- The view slot through which a read is cached: the slot it names, or slot 0 where it uses that (R334, R335). -/
def State.slotOf (s : State) (a : MemAcc) : Nat :=
  match s.accessPage? a with
  | some p => match s.chooseFrame a.asid p a.ver with | .ordinary => 0 | _ => a.ver.sel
  | none => a.ver.sel

/-- Reads of the home and of the caches. -/
def MemOp.isRead (op : MemOp) : Bool := !op.writes

/-- Whether a copy-on-write of the page is in progress (R322). -/
def State.copying (s : State) (asid : Nat) (p : Page) : Bool := s.mem.cows.any (fun c => c.asid == asid && c.page == p.base)

/-- Faulted accesses of a flight's threads that wait for their holding point, or for the handler that has taken them to return
(R296, R297). -/
def State.unfinished (s : State) (f : Flight) : List Flight :=
  f.tids.flatMap (fun t => match s.thread? t with | some x => x.faults ++ (x.trap.bind (·.fault)).toList | none => [])

/-- An earlier volatile access of the same thread not yet performed (R270). A handler's own accesses do not wait for the faulted one it
is there to handle (log 32). -/
def State.volWaits (s : State) (f : Flight) : Bool :=
  let vol := fun (g : Flight) => decide (g.id < f.id) && (match g.kind with | .mem b => b.vol | _ => false)
  s.flights.any (fun g => g.tids.any f.tids.contains && vol g && (match g.stage with | .data _ _ | .fill _ => false | _ => true))
    || (s.unfinished f).any (fun g => g.trapCtx == f.trapCtx && vol g)

/-- An operation that takes a value from memory for its thread. -/
def MemOp.takes : MemOp → Bool
  | .load | .momRes _ | .hrel => true
  | _ => false

/-- The view slots through which a sampling, traversal or marching word reads (R399, R405, R410); none of another word. -/
def Flight.unitSlots (f : Flight) : List Nat :=
  match f.kind with
  | .tex _ _ _ _ _ _ _ _ | .ray _ _ => [0]
  | .fmarch regs _ => [0, fld (regs.getD 4 0).toNat 56 4]
  | _ => []

/-- A word in flight has yet to take what it reads. -/
def Flight.unread (f : Flight) : Bool := match f.stage with | .data _ _ | .faulted _ _ => false | _ => true

/-- An earlier load of the same thread with bytes in common, through the same view slot, that has not taken its value, or an earlier
sampling, traversal or marching word, which may read them (log 26): reads of one byte by one thread observe coherence order in issue
order (R284, R399). -/
def State.readWaits (s : State) (f : Flight) (a : MemAcc) : Bool :=
  a.op.takes && !a.ver.byVersion && s.flights.any (fun g => decide (g.id < f.id) && g.tids.any f.tids.contains && g.unread
    && (match g.kind with
      | .mem b => b.op.takes && !b.ver.byVersion && b.asid == a.asid && (b.ver.sel == a.ver.sel || s.slotOf b == s.slotOf a)
          && overlap b.va b.size a.va a.size
      | _ => g.unitSlots.contains (s.slotOf a) || g.unitSlots.contains a.ver.sel))

/-- A sampling, traversal or marching word reads when no earlier load of its thread through a slot of its own, and no earlier such word,
has yet to take its values (R284, R399; log 26: which bytes it will read is not looked at). -/
def State.unitWaits (s : State) (f : Flight) : Bool :=
  s.flights.any (fun g => decide (g.id < f.id) && g.tids.any f.tids.contains && g.unread
    && (match g.kind with
      | .mem b => b.op.takes && !b.ver.byVersion && (f.unitSlots.contains (s.slotOf b) || f.unitSlots.contains b.ver.sel)
      | _ => !g.unitSlots.isEmpty))

/-- The other participants of a flight's word whose accesses touch the same line and have not set out: one line request serves them
all (R268). -/
def State.lineMates (s : State) (f : Flight) (a : MemAcc) : List Flight :=
  s.flights.filter (fun g => g.id != f.id && g.group == f.group && g.crew == f.crew && g.stage == .start
    && (match g.kind with | .mem b => b.asid == a.asid && lineOf b.va == lineOf a.va | _ => false))

/-- Something for each of several accesses in flight. -/
def State.eachAccess (s : State) (l : List Flight) (g : State → Flight → MemAcc → State) : State :=
  l.foldl (fun s m => match m.kind with | .mem b => g s m b | _ => s) s

/-- An earlier participant of the same word with bytes in common is still to be performed: participants act in compacted order
(R268, R272, R239). -/
def State.turnWaits (s : State) (f : Flight) : Bool :=
  s.flights.any (fun g => decide (g.id < f.id) && g.group == f.group && (match g.stage with | .faulted _ _ => false | _ => true)
    && (match f.kind, g.kind with
      | .mem a, .mem b => a.asid == b.asid && overlap a.va a.size b.va b.size
      | .scr a, .scr b => a.level == b.level && overlap a.off a.size b.off b.size
      | _, _ => false))

/-- The first and the last byte that a stream job stores (R218, R219). -/
def PaceJob.span (p : PaceJob) : Nat × Nat := (p.out, p.out + (p.count * fmtBits (fld (bytesToNat p.record) 20 4) + 7) / 8 - 1)

/-- An earlier store, atomic or reduction of the thread to host memory has not been sent (R274); one to a page not yet mapped may prove
to be. The stores of a stream job are the thread's (R219): of one that spans more than 16 pages, all may be. -/
def State.hostWaits (s : State) (f : Flight) : Bool :=
  let host := fun (asid va : Nat) => match s.page? asid va with | some p => decide (p.mt ≥ 2) | none => true
  let toHost := fun (g : Flight) => match g.kind with
    | .mem b => b.op.writes && host b.asid b.va
    | .pace p =>
      let (a, z) := p.span
      let asid := match g.tids.head?.bind s.thread? with | some t => s.asidOf t | none => 0
      decide (0 < p.count) && (decide (z / 65536 ≥ a / 65536 + 16)
        || (List.range (z / 65536 + 1 - a / 65536)).any (fun k => host asid (65536 * (a / 65536 + k))))
    | _ => false
  s.flights.any (fun g => decide (g.id < f.id) && g.tids.any f.tids.contains && toHost g) || s.faultedBefore f toHost

/-- The cached line that serves an access: the core's L1, else the die's L2 (R269, R335). A line granted to a writer of a page that may
not be read serves no load: its home says so (R252). -/
def State.hit (s : State) (a : MemAcc) : Option (Mem × Marks × Bool) :=
  let cached := !a.vol && !a.ver.byVersion && (match a.op with | .load | .momRes _ | .pf _ => true | _ => false)
    && (match s.accessPage? a with | some p => p.canRead | none => true)
  if !cached then none
  else match s.l1? a.place a.asid (s.slotOf a) (lineOf a.va) with
    | some l => some (l.data, l.poison, true)
    | none => match s.l2? a.place.die a.asid (s.slotOf a) (lineOf a.va) with
      | some l => some (l.data, l.poison, false)
      | none => none

/-- An access faulted at the home (R252): `pf` is simply not made (R271). -/
def State.accFault (s : State) (f : Flight) (a : MemAcc) (cause : Nat) : State :=
  match a.op with
  | .pf _ => s.dropFlight f.id
  | _ => s.modFlight f.id (fun f => { f with
      stage := .faulted cause a.addr
      kind := .mem { a with half := a.half.map (fun h => { h with page := none }) } })

/-- An access that meets V = 0 under DEMAND waits for the driver (R253). -/
def State.accDemand (s : State) (f : Flight) (a : MemAcc) : State :=
  match a.op with
  | .pf _ => s.dropFlight f.id
  | _ => (s.postRequest a.asid a.va (if a.op.writes then 1 else 0) [f.id] []).stage f.id .waiting

/-- VPOOL_BAD (R326): the access takes no effect, and the grid takes the error. -/
def State.poolBad (s : State) (f : Flight) : State :=
  match f.tids.head?.bind s.thread? with
  | some t => (s.dropFlight f.id).gridError t 0x2D 0
  | none => s.dropFlight f.id

/-- What an access's predicate of `.old` becomes (R336). -/
def oldPred (x : VerSel) (c : FrameChoice) : Option Bool := if x.old then some c.wasGone else none

/-- The state of a page that `ldv` writes (R337). -/
def State.ldvBits (s : State) (a : MemAcc) (p : Page) (c : FrameChoice) : Nat :=
  if !p.ver then 0
  else
    let sel := match c with | .gone => 0 | _ => c.version p
    2 ^ 63 + c.wasGone.toNat * 2 ^ 62 + min 16383 (s.retained a.asid p).length * 2 ^ 48 + p.version * 2 ^ 24 + sel

/-- NRP of the threads of a flight set (R146). -/
def State.nrpOf (s : State) (f : Flight) : State := f.tids.foldl State.setNrp s

/-- A read at the home, of a translated page (R258, R270, R334-R337). A line with a poisoned byte is not prefetched (R271). -/
def State.readAtHome (s : State) (f : Flight) (a : MemAcc) (p : Page) : State :=
  let c := s.chooseFrame a.asid p a.ver
  let pred := oldPred a.ver c
  let direct := fun (s : State) (pa : Nat) (own : Bool) =>
    let s := if own then s.recall (lineOf pa) else s
    let s := if a.ver.byVersion then s else s.freshen a.place.die a.asid (s.slotOf a) (lineOf a.va)
    -- a volatile load has acted now: its frame is not replayed (R146, R270)
    let s := if a.vol then s.nrpOf f else s
    let (g, s) := s.grantOnce a (s.slotOf a) pa (s.latestLine (lineOf pa))
    s.stage f.id (.fill { g with pred })
  let isPf := match a.op with | .pf _ => true | _ => false
  if a.op == .ldv then
    let (g, s) := s.grantOnce a 0 (p.phys a.va) (Mem.writeNat [] 0 8 (s.ldvBits a p c))
    s.stage f.id (.fill { g with pred, poison := [] })
  else if c.bad then (if isPf then s.dropFlight f.id else s.poolBad f)
  else match c with
    | .gone => s.accFault f a Cause.versionGone
    | .frame e sub byVersion =>
      let pa := c.phys p a.va
      if isPf && (byVersion || sub || !(s.latestMarks (lineOf pa)).isEmpty) then s.dropFlight f.id
      else if byVersion || sub || a.vol then direct s pa e.isNone
      else
        let (g, s) := s.grantPlain a a.ver.sel pa true
        s.stage f.id (.fill { g with pred })
    | .ordinary =>
      let pa := p.phys a.va
      if isPf && (p.mt == 1 || p.mt == 3 || !(s.latestMarks (lineOf pa)).isEmpty) then s.dropFlight f.id
      else if a.op == .hrel || p.mt == 3 then direct s pa false
      else if a.vol || p.mt == 1 then direct s pa true
      else match s.l2? a.place.die a.asid 0 (lineOf a.va) with
        | some l =>
          if isPf then s.dropFlight f.id
          else if (lowestMarked l.poison (a.va % 128) a.size).isSome then s.accFault f a Cause.memPoison
          else s.stage f.id (.data (l.data.readN (a.va % 128) a.size) pred)
        | none =>
          let (g, s) := if p.mt == 2 then s.grantPlain a 0 pa false else s.grantRead a p
          s.stage f.id (.fill { g with pred })

/-- Whether a participant's read may be sent (R270, R274, R284). -/
def State.maySend (s : State) (f : Flight) (a : MemAcc) : Bool :=
  !s.readWaits f a && !(a.vol && s.volWaits f) && !(a.op == .hrel && s.hostWaits f)

/-- The owned L2 line in which a store may be performed (R260, R323). One granted to a load of a page that may not be written takes none:
the home says so (R252). -/
def State.ownedLine (s : State) (f : Flight) (a : MemAcc) : Option L2Line :=
  if a.op != .store || a.vol || (match s.accessPage? a with | some p => !p.canWrite | none => false) then none
  else match s.l2? a.place.die a.asid 0 (lineOf a.va) with
    | some l => if l.state != .s && (!l.versioned || (f.step == l.lv && decide (l.sf < f.step))) then some l else none
    | none => none

/-- Whether HOME_READ_REQUEST can happen for a flight: one request serves every participant of its word that touches the line, once each of
them may read (R268). -/
def State.readRequestReady (s : State) (f : Flight) : Bool :=
  match f.kind with
  | .mem a => f.stage == .start && a.op.isRead && (s.hit a).isNone && !s.homeFenced a.va && !s.dieFenced a.place.die
      && (f :: s.lineMates f a).all (fun m => match m.kind with | .mem b => s.maySend m b | _ => true)
      && (match s.accessPage? a with | some p => !s.copying a.asid p | none => true)
  | _ => false

/-- A read of a translated page for every participant of the word that touches the line: one answer serves them all (R268). -/
def State.readLine (s : State) (f : Flight) (a : MemAcc) (p : Page) (mates : List Flight) : State :=
  let s := s.readAtHome f a p
  match s.flight? f.id with
  | some { stage := .fill g, .. } => mates.foldl (fun s m => (if a.vol then s.nrpOf m else s).stage m.id (.fill g)) s
  | _ => s.eachAccess mates (fun s m b => s.readAtHome m b p)

/-- HOME_READ_REQUEST (R258): a read that no cache serves reaches its home, one request for the participants of a word that touch the
line (R268). -/
def execHomeReadRequest (fid : Nat) (s : State) : Result :=
  match s.flight? fid with
  | none => notNow "HOME_READ_REQUEST"
  | some f =>
    if !s.readRequestReady f then notNow "HOME_READ_REQUEST"
    else match f.kind with
      | .mem a =>
        let mates := s.lineMates f a
        .next (match s.accessPage a with
          | .fault c => s.eachAccess (f :: mates) (fun s m b => s.accFault m b c)
          | .demand => s.eachAccess (f :: mates) State.accDemand
          | .ok p => (s.touchPage p false).readLine f a p mates)
      | _ => notNow "HOME_READ_REQUEST"

/-- Whether a 16-byte load takes one half now and the other later (R283): a free choice; which half. -/
def State.parts (s : State) (a : MemAcc) : Option Nat × State :=
  if a.op == .load && a.size == 16 && Config.splits s.ctl.fresh then
    let (k, s) := (s.modCtl (fun c => { c with fresh := c.fresh + 1 })).choose 2
    (some k, s)
  else (none, s)

/-- A load's bytes out of a line, with the predicate of `.old`: all of them on their way to its destination, or those of one half of a
16-byte access, whose other half is read anew (R283); a poisoned one is a fault (R263). -/
def State.takeBytes (s : State) (f : Flight) (a : MemAcc) (line : Mem) (poison : Marks) (pred : Option Bool) : State :=
  match s.parts a with
  | (some k, s) =>
    let off := (a.va + 8 * k) % 128
    if (lowestMarked poison off 8).isSome then s.accFault f a Cause.memPoison
    else s.modFlight f.id (fun f => { f with stage := .start, kind := .mem (a.part (1 - k) (line.readN off 8) (s.accessPage? a)) })
  | (none, s) =>
    if (lowestMarked poison (a.va % 128) a.size).isSome then s.accFault f a Cause.memPoison
    else s.stage f.id (.data (line.readN (a.va % 128) a.size) pred)

/-- A fill's bytes for one of the accesses it serves; a store that it was asked for finds the line owned, or asks again. -/
def State.serveFill (s : State) (f : Flight) (a : MemAcc) (g : Grant) : State :=
  match a.op with
  | .pf _ => s.dropFlight f.id
  | .ldv => s.stage f.id (.data (g.data.readN 0 8) g.pred)
  | .store => s.stage f.id (match s.l2? g.die a.asid 0 g.line with | some l => if l.state != .s then .granted else .start | none => .start)
  | _ => s.takeBytes f a g.data g.poison g.pred

/-- An earlier message of the same home quadrant to the same die is still on its way: Estia delivers them in order (R16). -/
def State.fillWaits (s : State) (a : MemAcc) (g : Grant) : Bool :=
  s.flights.any (fun f => match f.kind, f.stage with
    | .mem b, .fill h => decide (h.msg < g.msg) && h.die == g.die && homeQuad b.va == homeQuad a.va
    | _, _ => false)

/-- FILL_ARRIVAL (R259): a home's answer arrives at its die and serves the accesses it was requested for; the line is kept or not. -/
def execFillArrival (fid : Nat) (s : State) : Result :=
  match s.flight? fid with
  | none => notNow "FILL_ARRIVAL"
  | some f => match f.kind, f.stage with
    | .mem a, .fill g =>
      if s.fillWaits a g then notNow "FILL_ARRIVAL"
      else
        let mates := s.flights.filter (fun m => m.id != fid && m.group == f.group
          && (match m.stage with | .fill h => h.msg == g.msg && h.die == g.die | _ => false))
        .next ((s.arrive a g).eachAccess (f :: mates) (fun s m b => s.serveFill m b g))
    | _, _ => notNow "FILL_ARRIVAL"

/-- A load's bytes land, and the word completes (R269). -/
def State.finishLoad (s : State) (f : Flight) (a : MemAcc) (bs : List Byte) (pred : Option Bool) : State :=
  let bs := match a.half with | some h => h.join bs | none => loadResult a.op a.size a.dfmt bs
  (s.landLoad f a.dst bs a.ver pred).completeFlight f

/-- A line served from L2 is filled into the core's L1 (R256, R257). -/
def State.fillL1 (s : State) (a : MemAcc) : State :=
  match s.l2? a.place.die a.asid (s.slotOf a) (lineOf a.va) with
  | none => s
  | some l =>
    let x : L1Line := { place := a.place, asid := a.asid, slot := l.slot, line := l.line, data := l.data, poison := l.poison
                        ft := s.fillTime a.place.die }
    s.modMem (fun m => { m with l1 := m.l1.filter (fun y => !y.isAt a.place a.asid l.slot l.line) ++ [x] })

/-- `cr.spcnt` after an instruction (R231). -/
def addSpcnt (v : W64) (passes : Nat) : W64 :=
  BitVec.ofNat 64 ((fld v.toNat 32 32 + 1) % 2 ^ 32 * 2 ^ 32 + (fld v.toNat 0 32 + passes) % 2 ^ 32)

/-- An access to the core scratchpad is served: with the last of its word's, `cr.spcnt` counts the word and its passes (R231). -/
def State.servePasses (s : State) (f : Flight) (a : ScrAcc) (t : Thread) : State :=
  let more := s.flights.any (fun g => g.id != f.id && g.group == f.group && (match g.kind with | .scr b => b.level == 0 | _ => false))
  if a.level != 0 || more then s
  else s.modTeam t.team (fun m => { m with regs := { m.regs with spcnt := addSpcnt m.regs.spcnt a.passes } })

/-- A load that finds its line in a cache: the core's L1 is filled from the L2; `pf` is done, and a poisoned line is not prefetched
(R271); the line serves the word's other participants as it stands (R268). -/
def State.serveHit (s : State) (f : Flight) (a : MemAcc) (line : Mem) (poison : Marks) (inL1 : Bool) : State :=
  let mates := (s.lineMates f a).filter (fun m => match m.kind with | .mem b => s.maySend m b | _ => false)
  let pf := match a.op with | .pf _ => true | _ => false
  let s := if inL1 || a.op == .pf false || (pf && !poison.isEmpty) then s else s.fillL1 a
  if pf then s.eachAccess (f :: mates) (fun s m _ => s.dropFlight m.id)
  else s.eachAccess (f :: mates) (fun s m b => s.takeBytes m b line poison (if b.ver.old then some false else none))

/-- A scratchpad load's bytes land; a 16-byte load may take its halves one after the other, a free choice (R238). -/
def State.loadScratch (s : State) (f : Flight) (a : ScrAcc) (t : Thread) : State :=
  let read := fun (off n : Nat) => (s.scr a.level (s.scrOwner t a.level)).bytes.readN off n
  if a.size == 16 && Config.splits s.ctl.fresh then
    let (k, s) := (s.modCtl (fun c => { c with fresh := c.fresh + 1 })).choose 2
    s.modFlight f.id (fun f => { f with kind := .scr { a with off := a.off + 8 * (1 - k), size := 8, half := some { k, bytes := read (a.off + 8 * k) 8 } } })
  else
    let bs := read a.off a.size
    let bs := match a.half with | some h => h.join bs | none => loadResult .load a.size a.dfmt bs
    ((s.landLoad f a.dst bs {} none).servePasses f a t).completeFlight f

/-- MEMORY_LOAD_LAND (R269, R241): a load finds its line in a cache, or its data lands in its destination and the slot falls; from a
scratchpad both at once. -/
def execMemoryLoadLand (fid : Nat) (s : State) : Result :=
  match s.flight? fid with
  | none => notNow "MEMORY_LOAD_LAND"
  | some f => match f.kind, f.stage with
    | .mem a, .data bs pred => .next (s.finishLoad f a bs pred)
    | .mem a, .start =>
      if s.readWaits f a then notNow "MEMORY_LOAD_LAND"
      else match s.hit a with
      | none => notNow "MEMORY_LOAD_LAND"
      | some (line, poison, inL1) =>
        let s := s.serveHit f a line poison inL1
        .next (match s.flight? fid with
          | some { stage := .data bs pred, .. } => s.finishLoad f a bs pred
          | _ => s)
    | .scr a, .start =>
      if a.op != .load then notNow "MEMORY_LOAD_LAND"
      else match f.tids.head?.bind s.thread? with
        | none => notNow "MEMORY_LOAD_LAND"
        | some t => .next (s.loadScratch f a t)
    | _, _ => notNow "MEMORY_LOAD_LAND"

/-! ### Writes -/

/-- A write completes with its visibility time (R144, R260). -/
def State.finishWrite (s : State) (f : Flight) (a : MemAcc) (vt : Nat) : State :=
  let s := f.tids.foldl (fun s t => s.modThread t (·.raiseTm vt)) s
  let s := match a.op with
    | .store => if a.vol then s.nrpOf f else s
    | _ => s.nrpOf f
  s.completeFlight f

/-- D of a page that a write in an L2 reaches (R251). -/
def State.touchWrite (s : State) (a : MemAcc) : State :=
  match s.accessPage? a with | some p => s.touchPage p true | none => s

/-- A write of a translated page performed at the home or at the host (R260, R264, R272, R273, R411). -/
def State.writeAtHome (s : State) (f : Flight) (a : MemAcc) (p : Page) : State :=
  let pa := p.phys a.va
  let s := s.touchPage p true
  let put := fun (s : State) (bs : List Byte) =>
    if p.mt ≥ 2 then s.performHost a p bs else s.performHome a.place.die pa bs
  match a.op with
  | .store => let (vt, s) := put s a.data; s.finishWrite f a vt
  | op =>
    if s.latestBad pa a.size then s.accFault f a Cause.memPoison
    else
      -- an atomic on MT 2 drops the part's copies of the line before it is sent (R264)
      let s := if p.mt ≥ 2 then (s.giveUp (fun l => l.pa == lineOf pa)).unholdFills (fun g => g.pa == lineOf pa) else s.recall (lineOf pa)
      let old := bytesToNat (s.latest pa a.size)
      let n := a.size
      let new := match op with
        | .atom k | .red k => atomResult k a.dfmt old (bytesToNat (a.data.take n)) (bytesToNat ((a.data.drop n).take n))
        | _ => momentAdd old (bytesToNat a.data)
      let (vt, s) := put s (natToBytes n new)
      let s := match op with
        | .atom _ => if a.noReturn then s else s.landLoad f a.dst (loadResult .load n a.dfmt (natToBytes n old)) {} none
        | _ => s
      s.finishWrite f a vt

/-- Whether a write asks the home before it is performed. -/
def State.writeStarts (s : State) (f : Flight) (a : MemAcc) : Bool :=
  f.stage == .start && a.op.writes && (s.ownedLine f a).isNone && !s.homeFenced a.va && !s.dieFenced a.place.die
    && (f :: s.lineMates f a).all (fun m => match m.kind with | .mem b => !(b.vol && s.volWaits m) | _ => true)

/-- Whether HOME_OWNERSHIP_REQUEST can happen: a write that the die's L2 cannot perform, to a page that is not versioned or
does not translate. -/
def State.ownershipReady (s : State) (f : Flight) : Bool :=
  match f.kind with
  | .mem a => s.writeStarts f a && (match s.accessPage a with | .ok p => !p.ver | _ => true)
  | _ => false

/-- HOME_OWNERSHIP_REQUEST (R258): a write reaches its home, which checks it, recalls owners and grants the line; writes that
are performed at the home find the line recalled. A mailbox line that the host caches is snooped first (R266). One request serves the
participants of a word that touch the line (R268). -/
def execHomeOwnershipRequest (fid : Nat) (s : State) : Result :=
  match s.flight? fid with
  | none => notNow "HOME_OWNERSHIP_REQUEST"
  | some f =>
    if !s.ownershipReady f then notNow "HOME_OWNERSHIP_REQUEST"
    else match f.kind with
      | .mem a =>
        let all := f :: s.lineMates f a
        let stageAll := fun (st : FlightStage) (s : State) => s.eachAccess all (fun s m _ => s.stage m.id st)
        .next (match s.accessPage a with
        | .fault c => s.eachAccess all (fun s m b => s.accFault m b c)
        | .demand => s.eachAccess all State.accDemand
        | .ok p =>
          let pl := lineOf (p.phys a.va)
          let s := s.touchPage p true
          if p.mt == 0 && a.op == .store && !a.vol then let (g, s) := s.grantOwn a p; stageAll (.fill g) s
          else if p.mt == 1 then
            let (wait, s) := s.snoop pl
            if wait then stageAll .waiting s else stageAll .granted (s.recall pl)
          else if p.mt == 0 then stageAll .granted (s.recall pl)
          else stageAll .granted s)
      | _ => notNow "HOME_OWNERSHIP_REQUEST"

/-- Accesses to a range of an address space that are half made go through one translation: before that can change, the other half is made
(R254, R283). -/
def State.finishHalves (s : State) (asid lo n : Nat) : State :=
  s.eachAccess (s.flights.filter (fun f => f.stage == .start || f.stage == .granted)) (fun s f a =>
    match a.half.bind (·.page) with
    | some p =>
      if a.asid == asid && decide (lo ≤ a.va) && decide (a.va < lo + n) then
        (if a.op.writes then s.writeAtHome f a p else s.readAtHome f a p)
      else s
    | none => s)

/-- The pool entries a copy-on-write of a page may take (R322): FREE ones that no copy in progress has taken. -/
def State.freeEntries (s : State) (asid : Nat) (p : Page) : List PoolEntry :=
  (s.pool asid).filter (fun e => e.state == 1 && e.stack == p.stack && e.size == (if p.level == 2 then 1 else 0)
    && !s.mem.cows.any (fun c => c.asid == asid && c.entry == e.index))

/-- Every owned copy of a page's lines recalled. -/
def State.recallPage (s : State) (p : Page) : State :=
  let lo := lineOf (p.phys p.base)
  (s.giveUp (fun l => decide (lo ≤ l.pa) && decide (l.pa < lo + p.size / 128) && l.state != .s)).unholdFills
    (fun g => decide (lo ≤ g.pa) && decide (g.pa < lo + p.size / 128) && g.owns)

/-- COPY_ON_WRITE begins (R322): every copy of the page's lines recalled, a FREE entry taken. -/
def State.beginCopy (s : State) (f : Flight) (a : MemAcc) (p : Page) : State :=
  match s.freeEntries a.asid p with
  | [] => s.accFault f a 0x2B
  | e :: es =>
    let (k, s) := s.choose (es.length + 1)
    let e := (e :: es).getD k e
    if e.bad then s.poolBad f
    else
      let s := (s.finishHalves a.asid p.base p.size).recallPage p
      let s := s.modMem (fun m => { m with cows := m.cows ++ [({ asid := a.asid, page := p.base, entry := e.index, step := f.step } : CopyOnWrite)] })
      s.stage f.id .copying

/-- Whether HOME_WRITE_ARRIVAL can happen: a write to a versioned page that the die's L2 cannot perform. -/
def State.arrivalReady (s : State) (f : Flight) : Bool :=
  match f.kind with
  | .mem a => s.writeStarts f a && !s.turnWaits f && (match s.accessPage a with
      | .ok p => p.ver && !s.copying a.asid p
      | _ => false)
  | _ => false

/-- A 16-byte store may be performed in two halves, one aligned half whole at a time (R283): a free choice. One half is performed with
`put`; the other goes through the same page. A volatile store has acted with its first half (R146, R270). -/
def State.tearStore (s : State) (f : Flight) (a : MemAcc) (p : Page) (put : State → MemAcc → Nat × State) : Option State :=
  if a.op == .store && a.size == 16 && Config.splits s.ctl.fresh then
    let (k, s) := (s.modCtl (fun c => { c with fresh := c.fresh + 1 })).choose 2
    let s := if a.vol then s.nrpOf f else s
    let (vt, s) := put s (a.part k [] none)
    let s := f.tids.foldl (fun s t => s.modThread t (·.raiseTm vt)) s
    some (s.modFlight f.id (fun f => { f with kind := .mem (a.part (1 - k) [] (some p)) }))
  else none

/-- A write performed in a line the die owns. -/
def State.writeOwned (s : State) (f : Flight) (a : MemAcc) (l : L2Line) : State :=
  let put := fun (s : State) (b : MemAcc) => (s.touchWrite b).performLocal b l b.data
  let whole := fun (_ : Unit) => let (vt, s) := put s a; s.finishWrite f a vt
  match s.accessPage? a with
  | some p => match s.tearStore f a p put with | some s => s | none => whole ()
  | none => whole ()

/-- The other participants of a store word that one line request has served, and whose stores are still to be performed (R268). -/
def State.grantMates (s : State) (f : Flight) (a : MemAcc) : List Flight :=
  s.flights.filter (fun g => g.id != f.id && g.group == f.group && g.crew == f.crew && g.stage == .granted
    && (match g.kind with | .mem b => b.asid == a.asid && lineOf b.va == lineOf a.va | _ => false))

/-- A write of a translated page performed at its home, whole or torn. -/
def State.writeTearing (s : State) (f : Flight) (a : MemAcc) (p : Page) : State :=
  let put := fun (s : State) (b : MemAcc) =>
    let s := s.touchPage p true
    if p.mt ≥ 2 then s.performHost b p b.data else s.performHome b.place.die (p.phys b.va) b.data
  match s.tearStore f a p put with | some s => s | none => s.writeAtHome f a p

/-- R321 on a translated versioned page. A store that the die's L2 may perform is granted the line (R323); any other write is performed
here. One request serves the participants of a store word that touch the line (R268). -/
def State.checkStep (s : State) (f : Flight) (a : MemAcc) (p : Page) : State :=
  let sealed_ := match (s.asidBlock a.asid).regionOf p.base with | some r => decide (f.step ≤ r.pub) | none => false
  if f.step < p.version then s.accFault f a 0x29
  else if sealed_ then s.accFault f a 0x2A
  else if p.version < f.step then s.beginCopy f a p
  else if a.op == .store && !a.vol && p.mt == 0 then
    let all := f :: s.lineMates f a
    let (g, s) := (s.touchPage p true).grantOwn a p
    s.eachAccess all (fun s m _ => s.stage m.id (.fill g))
  else s.writeTearing f a p

/-- HOME_WRITE_ARRIVAL (R321): a write to a versioned page is checked at its home. -/
def execHomeWriteArrival (fid : Nat) (s : State) : Result :=
  match s.flight? fid with
  | none => notNow "HOME_WRITE_ARRIVAL"
  | some f =>
    if !s.arrivalReady f then notNow "HOME_WRITE_ARRIVAL"
    else match f.kind with
      | .mem a => match s.accessPage a with
        | .ok p => .next (s.checkStep f a p)
        | _ => notNow "HOME_WRITE_ARRIVAL"
      | _ => notNow "HOME_WRITE_ARRIVAL"

/-- A page's lines move from one frame to another: leased copies, and fills on their way, stay copies of the live lines, which have the
same bytes, and the home goes on holding their latest expiry and the floors of their sets (R258, R261, R322). -/
def State.moveCopies (s : State) (src dst n : Nat) : State :=
  let lo := lineOf src
  let inside := fun (pl : Nat) => decide (lo ≤ pl) && decide (pl < lo + n / 128)
  let moved := fun (pl : Nat) => pl - lo + lineOf dst
  let fill := fun (f : Flight) => match f.stage with
    | .fill g => if inside g.pa && g.slot == 0 && g.state.isSome then { f with stage := .fill { g with pa := moved g.pa } } else f
    | _ => f
  let leases := (s.mem.dir.filter (fun d => inside d.pa && d.exp != 0)).map (fun d => (moved d.pa, d.exp))
  let floors := s.mem.floors.flatMap (fun f =>
    ((List.range (n / 128)).filter (fun k => directorySetOf (lo + k) == f.1)).map (fun k => (moved (lo + k), f.2)))
  let s := (leases ++ floors).foldl (fun s x => let d := s.dirEntry x.1; s.setDir { d with exp := max d.exp x.2 }) s
  { s.modMem (fun m => { m with l2 := m.l2.map (fun l => if inside l.pa && l.slot == 0 then { l with pa := moved l.pa } else l) })
    with flights := s.flights.map fill }

/-- A copy-on-write ends (R322): the old frame copied, the entry retained, the page moved to the new step. -/
def State.finishCow (s : State) (c : CopyOnWrite) (p : Page) : State :=
  let e : PoolEntry := ⟨c.entry, s.mem.dram.readNat ((s.asidBlock c.asid).poolAddr c.entry) 32⟩
  let src := p.phys p.base
  let dst := e.stack * 2 ^ 36 + e.frame * 65536
  let n := p.size
  let marks := if s.mem.failedChannels.isEmpty
    then s.mem.poison.filter (fun g => decide (src / 8 ≤ g) && decide (g < (src + n) / 8))
    else (wholeGranules src n).filter (fun g => s.physBad (8 * g))
  let kept := s.mem.poison.filter (fun g => !(decide (dst / 8 ≤ g) && decide (g < (dst + n) / 8)))
  let s := s.modMem (fun m => { m with dram := m.dram.copy src dst n
                                       poison := marks.foldl (fun acc g => insertNat (g - src / 8 + dst / 8) acc) kept })
  let bits := setFld e.bits 200 24 p.version
  let bits := setFld bits 164 36 (c.page / 65536)
  let bits := setFld bits 160 4 p.stack
  let bits := setFld bits 140 20 p.frame
  let bits := setFld bits 138 2 2
  let bits := setFld bits 64 64 (s.homeTime c.page)
  let s := s.writePool c.asid c.entry bits
  let leaf := setFld (setFld (setFld p.leaf 36 24 c.step) 12 20 e.frame) 32 4 e.stack
  let s := s.modMem (fun m => { m with dram := m.dram.writeNat p.entry 8 leaf
                                       cows := m.cows.filter (fun x => !(x.asid == c.asid && x.page == c.page)) })
  let s := s.moveCopies src dst n
  let back := fun (f : Flight) => match f.kind with
    | .mem a => if f.stage == .copying && a.asid == c.asid && a.va / n * n == c.page then { f with stage := .start } else f
    | _ => f
  { s with flights := s.flights.map back }

/-- SNAPSHOT_COPY_COMPLETE (R322): a copy-on-write ends; the write that caused it, and those that wait, reach the home
again. -/
def execSnapshotCopyComplete (asid page : Nat) (s : State) : Result :=
  match s.mem.cows.find? (fun c => c.asid == asid && c.page == page), s.page? asid page with
  | some c, some p => if s.homeFenced page then notNow "SNAPSHOT_COPY_COMPLETE" else .next (s.finishCow c p)
  | _, _ => notNow "SNAPSHOT_COPY_COMPLETE"

/-- A scratchpad store or atomic performed (R237, R242); a 16-byte store whole or, a free choice, half by half (R238). -/
def State.performScratch (s : State) (f : Flight) (a : ScrAcc) (t : Thread) : State :=
  let owner := s.scrOwner t a.level
  match a.op with
  | .atom k =>
    let old := (s.scr a.level owner).bytes.readNat a.off a.size
    let new := atomResult k a.dfmt old (bytesToNat (a.data.take a.size)) (bytesToNat ((a.data.drop a.size).take a.size))
    let s := s.modScr a.level owner (·.store a.off (natToBytes a.size new))
    let s := if a.noReturn then s else s.landLoad f a.dst (loadResult .load a.size a.dfmt (natToBytes a.size old)) {} none
    ((s.nrpOf f).servePasses f a t).completeFlight f
  | _ =>
    if a.size == 16 && Config.splits s.ctl.fresh then
      let (k, s) := (s.modCtl (fun c => { c with fresh := c.fresh + 1 })).choose 2
      let half := fun (k : Nat) => { a with off := a.off + 8 * k, size := 8, data := (a.data.drop (8 * k)).take 8 }
      let b := half k
      (s.modScr a.level owner (·.store b.off b.data)).modFlight f.id (fun f => { f with kind := .scr (half (1 - k)) })
    else ((s.modScr a.level owner (·.store a.off a.data)).servePasses f a t).completeFlight f

/-- MEMORY_WRITE_PERFORMED (R260): a write is performed in the die's L2 where it owns the line, else at the home, takes its
visibility time and completes; a scratchpad store completes when its bytes are in the scratchpad (R237). The line that one request has
got serves the stores of the word's other participants as well (R268). -/
def execMemoryWritePerformed (fid : Nat) (s : State) : Result :=
  match s.flight? fid with
  | none => notNow "MEMORY_WRITE_PERFORMED"
  | some f => match f.kind, f.stage with
    | .scr a, .start =>
      if !a.op.writes || s.turnWaits f then notNow "MEMORY_WRITE_PERFORMED"
      else match f.tids.head?.bind s.thread? with
        | some t => .next (s.performScratch f a t)
        | none => notNow "MEMORY_WRITE_PERFORMED"
    | .mem a, st =>
      if !a.op.writes || s.turnWaits f || !(st == .start || st == .granted) then notNow "MEMORY_WRITE_PERFORMED"
      else match s.ownedLine f a with
        | some l => .next ((s.writeOwned f a l).eachAccess (s.grantMates f a) (fun s m b => match s.ownedLine m b with
            | some l => if s.turnWaits m then s else s.writeOwned m b l
            | none => s))
        | none =>
          if st == .start || s.homeFenced a.va then notNow "MEMORY_WRITE_PERFORMED"
          else match s.accessPage a with
            | .fault c => .next (s.accFault f a c)
            | .demand => .next (s.accDemand f a)
            | .ok p =>
              -- an ownership lost before the store, or a page that has become versioned: the write asks the home again
              if (p.mt == 0 && a.op == .store && !a.vol) || p.ver then .next (s.stage fid .start)
              else .next (s.writeTearing f a p)
    | _, _ => notNow "MEMORY_WRITE_PERFORMED"

/-- LATE_FAULT (R296, R297): a fault found after issue becomes pending in the thread; an access that `rtt` re-performed traps
at once, at the same return point (R304); that of a team that has left its core stays pending (R316). -/
def execLateFault (fid : Nat) (s : State) : Result :=
  match s.flight? fid with
  | none => notNow "LATE_FAULT"
  | some f => match f.stage, f.tids with
    | .faulted c v, t :: _ =>
      let s := s.dropFlight fid
      let away : Bool := match (s.thread? t).bind (fun x => s.team? x.team) with | some m => m.status != .resident | none => false
      match (if away then none else f.again) with
      | some ret => .next (s.takeTrap { tid := t, cause := c, val := v, late := true, pipe := f.pipe, fault := some f } (f.pkt, f.word) ret)
      | none => match s.thread? t with
        | some x =>
          -- a thread masked off at `exit`, or at `rtt`, holds there: the fault is taken with that group as return point (R57, R304)
          if (x.status == .exiting || x.status == .returning) && x.faultHere f && !away then
            .next (s.takeTrap { tid := t, cause := c, val := v, late := true, pipe := f.pipe, fault := some f } (f.pkt, f.word)
              (x.ctx.pkt, x.ctx.word))
          else .next (s.modThread t (fun t => { t with faults := t.faults ++ [f] }))
        | none => .next s
    | _, _ => notNow "LATE_FAULT"

/-- LEASE_EXPIRY (R23): a die gives up a leased line: once its copy of package time plus the guard band has reached the expiry, since when
the line has served no access (`State.leaseEnded`), or earlier, for any reason of its own (R259). -/
def execLeaseExpiry (die asid slot line : Nat) (s : State) : Result :=
  if s.mem.l2.any (fun l => l.isAt die asid slot line && l.state == .s && l.expiry != 0) then .next (s.giveUp (fun x => x.isAt die asid slot line))
  else notNow "LEASE_EXPIRY"

end Sys2Proof.Machine
end

