-- ==== Sys2Proof/Machine/Engine.lean ====
section
/-! DEFINITION. How the part's engines and the part itself read and write virtual memory: at the home, line by line, with the
checks of R252 and, on versioned pages, of R321 and R322; an access that meets V = 0 under DEMAND posts a page request
and the event is tried again once the driver has answered (R253); so is one homed in a fenced quadrant once that is unfenced (R312), and
a write to a mailbox line that the host caches once the host has answered (R266). -/
namespace Sys2Proof.Machine

/-- Why an engine's access stops: a cause and its address, a page request to wait for, a bad pool entry, a fenced quadrant, a mailbox
line that the host must answer for. -/
inductive EngineStop where
  | fault (cause va : Nat)
  | demand (va : Nat) (write : Bool)
  | poolBad
  | fenced (va : Nat)
  | snoop (line : Nat)
  /-- A word in flight must complete first (R397). -/
  | held (va : Nat)
  deriving DecidableEq, Repr

/-- A fresh number used. -/
def State.useFresh (s : State) : State := s.modCtl (fun c => { c with fresh := c.fresh + 1 })

/-- Bytes read while a job writes them: each is the old or the new one, a free choice (R354, R378). -/
def mixBytes (k u addr : Nat) : List Byte → List Byte → List Byte
  | x :: xs, y :: ys => (if Config.overlapOld k u addr then x else y) :: mixBytes k u (addr + 1) xs ys
  | _, ys => ys

/-- Bytes read at the home by an engine, of the version a read asks for (R334). -/
def State.engineReadVer (s : State) (asid va n : Nat) (x : VerSel) : Except EngineStop (List Byte) × State :=
  (runsOf va n).foldl (fun acc r => match acc with
    | (.error e, s) => (.error e, s)
    | (.ok bs, s) =>
      if s.homeFenced r.1 then (.error (.fenced r.1), s)
      else match s.translate asid r.1 .read with
      | .fault c => (.error (.fault c r.1), s)
      | .demand => (.error (.demand r.1 false), s)
      | .ok p =>
        let s := s.touchPage p false
        let c := s.chooseFrame asid p x
        if c.bad then (.error .poolBad, s)
        else match c with
          | .gone => (.error (.fault Cause.versionGone r.1), s)
          | _ =>
            let pa := c.phys p r.1
            if s.latestBad pa r.2 then (.error (.fault Cause.memPoison r.1), s) else (.ok (bs ++ s.latest pa r.2), s))
    (.ok [], s)

/-- No copy of bytes that a die has just read at their homes stays there, held or on its way, that is older than what was read (R284). -/
def State.freshenRange (s : State) (die asid slot va n : Nat) : State :=
  (runsOf va n).foldl (fun s r => s.freshen die asid slot (lineOf r.1)) s

/-- Bytes of the live state read at the home by an engine. -/
def State.engineRead (s : State) (asid va n : Nat) : Except EngineStop (List Byte) × State := s.engineReadVer asid va n {}

/-- The page of an engine's write made ready for a step (R321, R322): stale, sealed, or moved to the step by a
copy-on-write that the event holds. -/
def State.readyPage (s : State) (asid step va : Nat) (p : Page) : Except EngineStop Page × State :=
  if !p.ver then (.ok p, s)
  else
    let s := match s.mem.cows.find? (fun c => c.asid == asid && c.page == p.base) with
      | some c => s.finishCow c p
      | none => s
    let p := (s.page? asid va).getD p
    let sealed_ := match (s.asidBlock asid).regionOf p.base with | some r => decide (step ≤ r.pub) | none => false
    if step < p.version then (.error (.fault 0x29 va), s)
    else if sealed_ then (.error (.fault 0x2A va), s)
    else if p.version == step then (.ok p, s)
    else match s.freeEntries asid p with
      | [] => (.error (.fault 0x2B va), s)
      | e :: es =>
        let (k, s) := s.choose (es.length + 1)
        let e := (e :: es).getD k e
        if e.bad then (.error .poolBad, s)
        else
          let s := ((s.finishHalves asid p.base p.size).recallPage p).finishCow { asid, page := p.base, entry := e.index, step } p
          (.ok ((s.page? asid va).getD p), s)

/-- Bytes of one line written at the home by an engine: the visibility time (R260). -/
def State.engineWriteLine (s : State) (asid step va : Nat) (bs : List Byte) : Except EngineStop Nat × State :=
  if s.homeFenced va then (.error (.fenced va), s)
  else match s.translate asid va .write with
  | .fault c => (.error (.fault c va), s)
  | .demand => (.error (.demand va true), s)
  | .ok p => match s.readyPage asid step va p with
    | (.error e, s) => (.error e, s)
    | (.ok p, s) =>
      let s := s.touchPage p true
      let pa := p.phys va
      if p.mt ≥ 2 then
        let s := (s.giveUp (fun l => l.pa == lineOf pa)).physWrite pa bs
        (.ok (s.homeTime va + 4), s)
      else
        let (wait, s) := if p.mt == 1 then s.snoop (lineOf pa) else (false, s)
        if wait then (.error (.snoop (lineOf pa)), s)
        else
          let s := ((s.recall (lineOf pa)).physWrite pa bs).modMem (fun m => { m with snooped := m.snooped.filter (fun x => x != lineOf pa) })
          let vt := s.homeVisibility (lineOf pa)
          (.ok vt, s.noteHome vt)

/-- Bytes written at the home by an engine, line by line in ascending order, to the first that stops: the latest
visibility time. -/
def State.engineWrite (s : State) (asid step va : Nat) (bs : List Byte) : Except EngineStop Nat × State :=
  (runsOf va bs.length).foldl (fun acc r => match acc with
    | (.error e, s) => (.error e, s)
    | (.ok vt, s) => match s.engineWriteLine asid step r.1 ((bs.drop (r.1 - va)).take r.2) with
      | (.error e, s) => (.error e, s)
      | (.ok v, s) => (.ok (max vt v), s)) (.ok 0, s)

/-- An engine's access waits for the driver: the request stands, and the flight waits on it where there is one; else the engine,
by the number of its job or thread. -/
def State.engineDemand (s : State) (asid va : Nat) (write : Bool) (fl : Option Nat) (engine : Nat := 0) : State :=
  match fl with
  | some f => (s.postRequest asid va write.toNat [f] []).stage f .waiting
  | none => s.postRequest asid va write.toNat [] [] [engine]

/-- Whether the driver has refused the span of an address to an engine with no word in flight (R253). -/
def State.engineRefused (s : State) (engine asid va : Nat) : Bool := s.mem.refused.contains (engine, asid, va / 65536 * 65536)

/-- A refusal taken. -/
def State.takeRefusal (s : State) (engine asid va : Nat) : State :=
  s.modMem (fun m => { m with refused := m.refused.filter (fun x => x != (engine, asid, va / 65536 * 65536)) })

/-- What an engine's stop comes to: the cause and address, or none where it waits; a page that the driver has refused is a
PAGE_FAULT (R253). -/
def State.stopCause (s : State) (asid : Nat) (e : EngineStop) (f : Option Flight) (engine : Nat := 0) : Option (Nat × Nat) :=
  match e with
  | .fault c va => some (c, va)
  | .poolBad => some (0x2D, 0)
  | .fenced _ | .snoop _ | .held _ => none
  | .demand va _ => match f with
    | some f => match f.stage with | .faulted _ _ => some (Cause.pageFault, va) | _ => none
    | none => if s.engineRefused engine asid va then some (Cause.pageFault, va) else none

/-- The grid an engine works for: that of its word in flight, its job or its thread. -/
def State.engineGrid (s : State) (engine : Nat) : Option Nat :=
  let of := fun (t : Nat) => (s.thread? t).bind (fun t => (s.gridOf t).map (·.event))
  match s.flight? engine, s.job? engine with
  | some f, _ => f.tids.head?.bind of
  | none, some j => some j.grid
  | none, none => of engine

/-- A grid's engine waits for a fenced quadrant (R312); the state in which that is noted, or none where it was. -/
def State.noteFenced (s : State) (grid : Option Nat) (va : Nat) : Option State :=
  match grid with
  | some g => if s.mem.quadWaits.contains (homeQuad va, g) then none
      else some (s.modMem (fun m => { m with quadWaits := (homeQuad va, g) :: m.quadWaits }))
  | none => none

/-- A wait of an engine that no page request ends: noted for a fenced quadrant, the snoop sent for a mailbox line (R266, R312); none where
nothing is new. -/
def State.holdEngine (s : State) (e : EngineStop) (grid : Option Nat) : Option State :=
  match e with
  | .fenced va => s.noteFenced grid va
  | .snoop l => if s.mem.backInval.contains l then none else some (s.modMem (fun m => { m with backInval := m.backInval ++ [l] }))
  | _ => none

/-- What an engine that stops does: its fault, or the wait for the driver, posted once (R253), for a fenced quadrant or for the host. -/
def State.engineStop (s : State) (asid : Nat) (e : EngineStop) (engine : Nat) (name : String) (fault : Nat → Nat → State → State) : Result :=
  match s.stopCause asid e none engine, e with
  | some (c, va), _ => .next (fault c va (s.takeRefusal engine asid va))
  | none, .fenced va => match s.noteFenced (s.engineGrid engine) va with | some s => .next s | none => notNow name
  | none, .snoop l => match s.holdEngine (.snoop l) none with | some s => .next s | none => notNow name
  | none, .demand va write =>
    if (s.request? asid va).any (fun r => r.engines.contains engine) then notNow name
    else .next (s.engineDemand asid va write none engine)
  | none, _ => notNow name

/-! ### Ways to other packages (R437, R440, R463) -/

/-- The port that a compute die's traffic to a peer takes (R437, R463). -/
def State.portTo? (s : State) (peer die : Nat) : Option Nat :=
  if peer == s.links.pkidx then none else (s.links.routes.find? (fun r => r.1 == peer && r.2.1 == die)).map (·.2.2)

/-- A port of an optical die, at its reset values where nothing has changed it (R441). -/
def State.port (s : State) (die port : Nat) : Port :=
  (s.links.ports.find? (fun p => p.die == die && p.port == port)).getD
    { die, port, slots := (List.range 8).map (fun k => { phys := 8 * (port % 4) + k }) }

/-- A port with fewer than 4 active slots is DOWN (R440). -/
def Port.down (p : Port) : Bool := decide ((p.slots.filter (fun x => x.state == 0)).length < 4)

/-- How a message of a die leaves for a peer, and whether the port is DOWN; none without a route. -/
def State.via? (s : State) (peer die : Nat) : Option (Via × Bool) :=
  (s.portTo? peer die).map (fun p => ({ die, port := p, since := s.localTime die }, (s.port die p).down))

end Sys2Proof.Machine
end

