-- ==== Sys2Proof/Machine/Coll.lean ====
section
/-! DEFINITION. Collectives: the peloton binding, firing a chunk, the exchanges of a rank, messages and waits, landing and
completion (spec/17 R450-R456). -/
namespace Sys2Proof.Machine

/-- A service counter rises and saturates (R479). -/
def State.bump (s : State) (index : Nat) (n : Nat := 1) : State :=
  s.modHost (fun h =>
    let v := match h.counters.find? (fun c => c.1 == index) with | some c => c.2 | none => 0
    { h with counters := (index, BitVec.ofNat 64 (min (v.toNat + n) (2 ^ 64 - 1))) :: h.counters.filter (fun c => c.1 != index) })

/-- Index of a service counter: per die (0-3) and unit class (0 register banks, 1 caches, 2 scratchpads, 3 HBM), 0 corrected
errors, 1 scrub passes; then 8 lost fault records and 9 dropped collective messages of the die; 512 + 128 die + port: uncorrectable
codewords. The layout is the model's: log 13. -/
def serviceIndex (die unit kind : Nat) : Nat := die * 16 + unit * 2 + kind
def lostIndex (die : Nat) : Nat := die * 16 + 8
def collDropIndex (die : Nat) : Nat := die * 16 + 9
def codewordIndex (die port : Nat) : Nat := 512 + die * 128 + port

/-! ### The binding (R450) -/

def Binding.tag (b : Binding) : Nat := fld b 416 32
def Binding.tmo (b : Binding) : Nat := fld b 384 32
def Binding.cntb (b : Binding) : Nat := fld b 344 12
def Binding.cnten (b : Binding) : Bool := bit b 343
def Binding.auto (b : Binding) : Bool := bit b 342
def Binding.op (b : Binding) : Nat := fld b 340 2
def Binding.fmt (b : Binding) : Nat := fld b 336 4
def Binding.nranks (b : Binding) : Nat := fld b 320 11
def Binding.rank (b : Binding) : Nat := fld b 304 10
def Binding.nchunks (b : Binding) : Nat := fld b 288 16
def Binding.chunk (b : Binding) : Nat := fld b 256 32
def Binding.status (b : Binding) : Nat := fld b 192 64
def Binding.res (b : Binding) : Nat := fld b 128 64
def Binding.src (b : Binding) : Nat := fld b 64 64
def Binding.peers (b : Binding) : Nat := fld b 0 64
/-- L and P of R452. -/
def Binding.l (b : Binding) : Nat := Nat.log2 b.nranks
def Binding.p (b : Binding) : Nat := 2 ^ b.l

/-! ### One rank's program (R452) -/

/-- The sum or maximum of two elements. -/
def Binding.combine (b : Binding) (x y : Nat) : Nat :=
  if b.op == 0 then floatAdd b.fmt x y else (fpMinMax b.fmt true x y).bits

/-- Two pieces added: element by element, contributors together. -/
def Binding.addPiece (b : Binding) (x y : Piece) : Piece :=
  let w := fmtBits b.fmt
  let n := x.bytes.length * 8 / w
  let u := bytesToNat x.bytes
  let v := bytesToNat y.bytes
  { bytes := natToBytes x.bytes.length (pack w ((List.range n).map (fun k => b.combine (elem w k u) (elem w k v))))
    have_ := y.have_.foldl (fun acc r => insertNat r acc) x.have_ }

/-- The exchanges of a rank, in order. -/
def Binding.phases (b : Binding) : List CollPhase :=
  if b.rank ≥ b.p then [.post]
  else (if b.rank + b.p < b.nranks then [.fold] else [])
    ++ (List.range b.l).map CollPhase.halving ++ ((List.range b.l).reverse).map CollPhase.doubling

/-- The rank whose message an exchange waits for. -/
def Binding.from_ (b : Binding) : CollPhase → Nat
  | .fold => b.rank + b.p
  | .halving k | .doubling k => b.rank ^^^ 2 ^ k
  | .post => b.rank - b.p

/-- The other half of the segment at a step: the half given at halving, the half to take at doubling. -/
def Binding.otherHalf (b : Binding) (k : Nat) (seg : Nat × Nat) : Nat × Nat :=
  if bit b.rank k then (seg.1 - seg.2, seg.2) else (seg.1 + seg.2, seg.2)

/-- The pieces of a segment. -/
def piecesOf (c : Chunk) (seg : Nat × Nat) : List Piece := (c.pieces.drop seg.1).take seg.2

/-- A chunk's pieces from the first of a segment replaced or added to. -/
def Chunk.put (c : Chunk) (first : Nat) (ps : List Piece) (f : Piece → Piece → Piece) : Chunk :=
  { c with pieces := (List.range c.pieces.length).filterMap (fun i =>
      match c.pieces[i]?, (if first ≤ i then ps[i - first]? else none) with
      | some x, some y => some (f x y)
      | x, _ => x) }

/-- A message of a chunk with the pieces of a segment (R451, R452). -/
def Binding.message (b : Binding) (c : Chunk) (ph : CollPhase) (seg : Nat × Nat) : CollMessage :=
  { tag := b.tag, nranks := b.nranks, chunkBytes := b.chunk, fmt := b.fmt, op := b.op, chunk := c.index, sender := b.rank, phase := ph
    pieces := (List.range seg.2).filterMap (fun i => (c.pieces[seg.1 + i]?).map (fun x => (seg.1 + i, x.bytes, x.have_))) }

/-- What a rank sends on entering an exchange: the chunk after, the messages with their receivers. -/
def Binding.enter (b : Binding) (c : Chunk) (ph : CollPhase) : Chunk × List (Nat × CollMessage) :=
  match ph with
  | .fold => (c, [])
  | .halving k =>
    let half := c.seg.2 / 2
    let keep := if bit b.rank k then (c.seg.1 + half, half) else (c.seg.1, half)
    let give := b.otherHalf k keep
    ({ c with seg := keep, sent := (k, piecesOf c give) :: c.sent }, [(b.rank ^^^ 2 ^ k, b.message c (.halving k) give)])
  | .doubling k => (c, [(b.rank ^^^ 2 ^ k, b.message c (.doubling k) c.seg)])
  | .post => (c, [(b.rank - b.p, b.message c .fold (0, b.p))])

/-- The pieces that a message carries, in order. -/
def messagePieces (m : CollMessage) : List Piece := m.pieces.map (fun x => { bytes := x.2.1, have_ := x.2.2 })

/-- A message taken (or, without one, a wait that has run out): R452, R453. -/
def Binding.take (b : Binding) (c : Chunk) (ph : CollPhase) (m : Option CollMessage) : Chunk :=
  let c := { c with ended := c.ended ++ [ph] }
  match ph with
  | .fold => match m with | some m => c.put 0 (messagePieces m) b.addPiece | none => c
  | .halving _ => match m with | some m => c.put c.seg.1 (messagePieces m) b.addPiece | none => c
  | .doubling k =>
    let other := b.otherHalf k c.seg
    let ps := match m with
      | some m => (messagePieces m)
      | none => match c.sent.find? (fun x => x.1 == k) with | some x => x.2 | none => []
    { c.put other.1 ps (fun _ y => y) with seg := (min c.seg.1 other.1, 2 * c.seg.2) }
  | .post => match m with | some m => c.put 0 (messagePieces m) (fun _ y => y) | none => c

/-- A rank goes on through its exchanges as far as held messages carry it: at the end it sends the post-step and lands. -/
def Binding.go (b : Binding) (now : Nat) : List CollPhase → Chunk → List (Nat × CollMessage) → Chunk × List (Nat × CollMessage)
  | [], c, out =>
    ({ c with todo := [], landing := true }, out ++
      (if decide (b.rank < b.p) && decide (b.rank + b.p < b.nranks) then [(b.rank + b.p, b.message c .post (0, b.p))] else []))
  | ph :: rest, c, out =>
    let (c, ms) := b.enter c ph
    match c.held.find? (fun m => m.phase == ph) with
    | some m => b.go now rest (b.take { c with held := c.held.filter (fun x => x.phase != ph) } ph (some m)) (out ++ ms)
    | none => ({ c with todo := ph :: rest, since := now }, out ++ ms)

/-- The binding of a grid that runs. -/
def State.binding? (s : State) (g : Nat) : Option Binding := (s.grid? g).bind (·.peloton)

def State.chunk? (s : State) (g c : Nat) : Option Chunk := (s.grid? g).bind (fun x => x.chunks.find? (fun y => y.index == c))

/-- A chunk's record, made where there is none. -/
def State.putChunk (s : State) (g : Nat) (c : Chunk) : State :=
  s.modGrid g (fun x => { x with chunks := x.chunks.filter (fun y => y.index != c.index) ++ [c] })

/-- The rank's package time: the hub's (R453). -/
def State.collTime (s : State) : Nat := s.time.hub

/-- A message of a chunk sent to a rank: to its package by the rank table, by the way of the die that fired the chunk (R437, R450). -/
def State.sendRank (s : State) (gid : Nat) (c : Chunk) (m : Nat × CollMessage) : State :=
  match s.grid? gid with
  | none => s
  | some g =>
    let peer := ((g.ranks.find? (fun x => x.1 == m.1)).map (·.2)).getD 0
    let (id, s) := s.newId
    let f : Flight :=
      { id, tids := [], sb := none, trapCtx := false, pkt := 0, word := 0, pipe := 0, step := 0
        kind := .send gid c.index m.1 peer m.2 ((s.via? peer c.die).map (·.1)), stage := .start }
    { s with flights := s.flights ++ [f] }

/-- A chunk whose exchanges have gone on. -/
def State.settle (s : State) (g : Nat) (x : Chunk × List (Nat × CollMessage)) : State :=
  x.2.foldl (fun s m => s.sendRank g x.1 m) ((s.putChunk g x.1).modLinks (fun l => { l with sent := x.2.reverse ++ l.sent }))

/-- Whether a chunk stands while the `coll` that fired it waits for the driver, or has a fault that is not settled (R296, R304). -/
def State.chunkHeld (s : State) (c : Chunk) : Bool :=
  match c.flight with
  | none => false
  | some f => (s.flight? f).any (fun x => x.stage != .start) || s.threads.any (fun t => t.faulted.any (fun x => x.id == f))

/-- A fired chunk reads its source and begins (R452). A page that waits for the driver leaves it fired and unread, and so does a fault,
which becomes pending with the `coll` that fired it; with no `coll`, under AUTO, the fault is recorded and the chunk ends: log 14. -/
def State.startChunk (s : State) (gid ci : Nat) : State :=
  match s.grid? gid, s.chunk? gid ci with
  | some g, some c => match g.peloton with
    | none => s
    | some b =>
      if !c.fired || c.landing || c.done || !c.pieces.isEmpty || s.chunkHeld c then s
      else match s.engineRead g.asid (b.src + ci * b.chunk) b.chunk with
        | (.ok bs, s) =>
          let n := b.chunk / b.p
          let c := { c with pieces := (List.range b.p).map (fun i => { bytes := (bs.drop (i * n)).take n, have_ := [b.rank] }), seg := (0, b.p) }
          s.settle gid (b.go s.collTime b.phases c [])
        | (.error e, s) => match s.stopCause g.asid e (c.flight.bind s.flight?) c.engine, e with
          | some (cause, va), _ => match c.flight.bind s.flight? with
            | some f => s.stage f.id (.faulted cause va)
            | none => ((s.takeRefusal c.engine g.asid va).writeRecord 0 { cause, val := va, grid := gid, asid := g.asid, noThread := true }).putChunk gid
              { c with done := true }
          | none, .demand va write => s.engineDemand g.asid va write c.flight c.engine
          | none, e => (s.holdEngine e (some gid)).getD s
  | _, _ => s

/-- A chunk is fired once (R452), for a thread or a team of a compute die. -/
def State.fireChunk (s : State) (gid ci die : Nat) (fl : Option Nat) : State :=
  let c := (s.chunk? gid ci).getD { index := ci }
  if c.fired then s
  else
    let (id, s) := s.newId
    (s.putChunk gid { c with fired := true, flight := fl, die, engine := id }).startChunk gid ci

/-- Chunks that have been fired and have not read their source try again. -/
def State.retryChunks (s : State) : State :=
  (s.grids.flatMap (fun g => g.chunks.map (fun c => (g.event, c.index)))).foldl (fun s x => s.startChunk x.1 x.2) s

/-- Whether a message fits a binding (R451, R453). -/
def Binding.fits (b : Binding) (m : CollMessage) : Bool :=
  m.tag == b.tag && m.nranks == b.nranks && m.chunkBytes == b.chunk && m.fmt == b.fmt && m.op == b.op && decide (m.chunk < b.nchunks)
    && b.phases.contains m.phase && m.sender == b.from_ m.phase

/-- COLL_MESSAGE_ARRIVAL (R452, R453): a message is held, combined, or dropped and counted. -/
def execCollMessageArrival (m : CollMessage) (s : State) : Result :=
  let drop := fun (s : State) (g : Option Nat) => match g with
    | some g => (s.modGrid g (fun x => { x with drop := x.drop + 1 })).bump (collDropIndex m.die)
    | none => s.bump (collDropIndex m.die)
  let tagged := fun (g : Grid) => g.status == .queued && (match g.peloton with | some b => b.tag == m.tag | none => false)
  match s.grids.find? tagged with
  | none => .next (drop s none)
  | some g => match g.peloton with
    | none => .next (drop s none)
    | some b =>
      let c := (s.chunk? g.event m.chunk).getD { index := m.chunk }
      if !b.fits m || c.done || c.landing || c.ended.contains m.phase || c.held.any (fun x => x.phase == m.phase) then
        let s := if b.fits m then s.putChunk g.event { c with dropped := c.dropped + 1 } else s
        .next (drop s (some g.event))
      else match c.todo with
        | ph :: rest =>
          if ph == m.phase then .next (s.settle g.event (b.go s.collTime rest (b.take c ph (some m)) []))
          else .next (s.putChunk g.event { c with held := c.held ++ [m] })
        | [] => .next (s.putChunk g.event { c with held := c.held ++ [m] })

/-- COLL_WAIT_TIMEOUT (R453): a wait ends after TMO microseconds and adds nothing. -/
def execCollWaitTimeout (grid chunk : Nat) (s : State) : Result :=
  match s.binding? grid, s.chunk? grid chunk with
  | some b, some c => match c.todo with
    | ph :: rest =>
      if b.tmo != 0 && decide (s.collTime ≥ c.since + 1000 * b.tmo) then .next (s.settle grid (b.go s.collTime rest (b.take c ph none) []))
      else notNow "COLL_WAIT_TIMEOUT"
    | [] => notNow "COLL_WAIT_TIMEOUT"
  | _, _ => notNow "COLL_WAIT_TIMEOUT"

/-- A counter, at its reset values where nothing has changed it (R446). -/
def State.counter (s : State) (index : Nat) : Counter := (s.links.counters.find? (fun c => c.index == index)).getD { index, count := 0, mark := 0 }

/-- Whether a count has reached a target (R448). -/
def Counter.reached (c : Counter) (target : Nat) : Bool := decide ((c.count - BitVec.ofNat 32 target).toNat < 2 ^ 31)

/-- CWAIT_REACHED (R448): each `cwait` whose target its counter has reached keeps COUNT and MARK of this moment. -/
def State.reachCwaits (s : State) : State :=
  { s with flights := s.flights.map (fun f => match f.kind with
      | .cwait k g t none dst =>
        let c := s.counter k
        if c.reached g then { f with kind := .cwait k g t (some (c.count.toNat, c.mark)) dst } else f
      | _ => f) }

/-- A counter set. -/
def State.putCounter (s : State) (c : Counter) : State :=
  (s.modLinks (fun l => { l with counters := l.counters.filter (fun x => x.index != c.index) ++ [c] })).reachCwaits

/-- A counter's add performed (R446, R447): COUNT by a value, MARK raised. -/
def State.addCounter (s : State) (index : Nat) (v : BitVec 32) (mark : Nat) : State :=
  let c := s.counter index
  s.putCounter { c with count := c.count + v, mark := max c.mark mark }

/-- The ranks absent from some piece. -/
def Binding.missing (b : Binding) (c : Chunk) : List Nat := (List.range b.nranks).filter (fun r => c.pieces.any (fun p => !p.have_.contains r))

/-- A chunk completes: the grid's counts, and the `coll` that fired it (R453, R455, R456). -/
def State.endChunk (s : State) (gid : Nat) (c : Chunk) (part : Bool) : State :=
  let s := s.putChunk gid { c with done := true }
  let s := s.modGrid gid (fun g => if part then { g with part := g.part + 1 } else { g with full := g.full + 1 })
  match c.flight.bind s.flight? with
  | none => s
  | some f => match f.kind, f.tids with
    | .coll _ dst, t :: _ => (s.land64 t dst (BitVec.ofNat 64 (c.dropped * 2 ^ 32 + (if part then 2 else 0)))).completeFlight f
    | _, _ => s.completeFlight f

/-- VPOOL_BAD met by a chunk's write (R326): a grid error, recorded with the thread that fired it, where one did. -/
def State.chunkPoolBad (s : State) (c : Chunk) (grid asid : Nat) : State :=
  match (c.flight.bind s.flight?).bind (fun f => (f.tids.head?.bind s.thread?).map (fun t => (f, t))) with
  | some (f, t) => (s.dropFlight f.id).gridError t 0x2D 0
  | none => (s.writeRecord 0 { cause := 0x2D, grid, asid, action := 2, noThread := true }).endGrid 0x2D 12 grid

/-- Whether a message of a chunk has not been acknowledged (R454). -/
def State.sending (s : State) (grid chunk : Nat) : Bool :=
  s.flights.any (fun f => match f.kind with | .send g c _ _ _ _ => g == grid && c == chunk | _ => false)

/-- A chunk completes once its add has been made and all its messages have been acknowledged (R454). -/
def State.settleChunkEnd (s : State) (grid : Nat) (c : Chunk) (b : Binding) : State :=
  if s.sending grid c.index then s.putChunk grid { c with added := true } else s.endChunk grid { c with added := true } (!(b.missing c).isEmpty)

/-- CHUNK_COMPLETE (R454): the result is written, the missing set ORed into STATUS, the counter raised; the chunk completes at once or, with
a message not yet acknowledged, at the next of these events after that. -/
def execChunkComplete (grid chunk : Nat) (s : State) : Result :=
  match s.grid? grid, s.chunk? grid chunk with
  | some g, some c => match g.peloton with
    | none => notNow "CHUNK_COMPLETE"
    | some b =>
      if !c.landing || c.done || s.chunkHeld c || (c.added && s.sending grid chunk) then notNow "CHUNK_COMPLETE"
      else if c.added then .next (s.settleChunkEnd grid c b)
      else
        let step := fld g.record 288 24
        let gone := b.missing c
        let stop := fun (s : State) (e : EngineStop) => match s.stopCause g.asid e (c.flight.bind s.flight?) c.engine, e with
          -- a bad pool entry is an error of the grid (R326, R339)
          | _, .poolBad => (s.putChunk grid { c with done := true }).chunkPoolBad c grid g.asid
          | some (cause, va), _ => match c.flight.bind s.flight? with
            | some f => s.stage f.id (.faulted cause va)
            | none => ((s.takeRefusal c.engine g.asid va).writeRecord 0 { cause, val := va, grid, asid := g.asid, noThread := true }).putChunk grid
              { c with done := true }
          | none, .demand va write => s.engineDemand g.asid va write c.flight c.engine
          | none, e => (s.holdEngine e (some grid)).getD s
        match s.engineWrite g.asid step (b.res + chunk * b.chunk) (c.pieces.flatMap (·.bytes)) with
        | (.error e, s) => .next (stop s e)
        | (.ok vt, s) =>
          let finish := fun (s : State) =>
            let s := if b.cnten then s.addCounter (fld (s.asidBlock g.asid).cntwin.toNat 0 12 + b.cntb + chunk) 1 vt else s
            .next (s.settleChunkEnd grid c b)
          if gone.isEmpty || b.status == 0 then finish s
          else match s.engineRead g.asid b.status 128 with
            | (.error e, s) => .next (stop s e)
            | (.ok bs, s) =>
              let bits := gone.foldl (fun acc r => setFld acc r 1 1) (bytesToNat bs)
              match s.engineWrite g.asid step b.status (natToBytes 128 bits) with
              | (.error e, s) => .next (stop s e)
              | (.ok _, s) => finish s
  | _, _ => notNow "CHUNK_COMPLETE"

end Sys2Proof.Machine
end

