-- ==== Sys2Proof/Machine/Frames.lean ====
section
/-! DEFINITION. Room on a core, the creation of threads, frame records, credits and retirement, the edges of R147, awaiting
threads and barriers (spec/05; spec/04 R104, R130; spec/06 R171-R178; spec/08 R223, R236; spec/16 R431). -/
namespace Sys2Proof.Machine

/-! ### Room on a core (R104, R171, R177, R223) -/

/-- Places, window units of 256 bytes and allotment bytes in use in a slice by resident threads. -/
def State.sliceUse (s : State) (p : Place) (slice : Nat) : Nat × Nat × Nat :=
  s.threads.foldl (fun acc t =>
    match s.team? t.team with
    | some m => if m.status == .resident && m.place == p && t.slice == slice && t.resident
        then (acc.1 + 1, acc.2.1 + t.winSize / 256, acc.2.2 + t.priv.size) else acc
    | none => acc) (0, 0, 0)

/-- Window units and allotment bytes that a parked team still has in a slice (R174). -/
def State.parkedUse (s : State) (m : Team) (slice : Nat) : Nat × Nat :=
  (s.threads.filter (fun t => t.team == m.id && t.slice == slice && t.resident)).foldl
    (fun acc t => (acc.1 + t.winSize / 256, acc.2 + t.priv.size)) (0, 0)

/-- An element put into an ordered list. -/
def insertBy {α : Type} (before : α → α → Bool) (x : α) : List α → List α
  | [] => [x]
  | y :: ys => if before x y then x :: y :: ys else y :: insertBy before x ys

/-- The owners of parked units in a slice, or of parked core scratchpad allotments (16) or operand-buffer ranges (17), parked longest
first, lowest tag on equality (R177, R236). -/
def State.parkedOwners (s : State) (p : Place) (slice : Nat) : List Team :=
  let before := fun (a b : Team) => decide (a.parkedAt < b.parkedAt) || (a.parkedAt == b.parkedAt && decide (a.tag ≤ b.tag))
  (s.teams.filter (fun m => m.place == p && m.status != .resident && m.parkedIn.contains slice)).foldl (fun acc m => insertBy before m acc) []

/-- Where a word in flight writes a result. -/
def Flight.result : FlightKind → Dst
  | .sfu _ _ _ _ d | .vpub _ _ d | .tex _ _ _ _ _ _ d _ | .ray _ d | .fmarch _ d | .cwait _ _ _ _ d | .coll _ d => d
  | .mem a => a.dst
  | .scr a => a.dst
  | .pace p => p.dst
  | .remote a => a.dst
  | .matrix _ | .tile _ _ _ _ _ _ _ | .job _ | .mobl _ _ _ _ _ | .cntAdd _ _ _ _ _ _ _
  | .send _ _ _ _ _ _ => .none

/-- Whether a word in flight has a window result to land, or the generation it belongs to has. -/
def Flight.landsInWindow (f : Flight) : Bool :=
  match f.kind with
  | .job _ => true
  -- a capture of a generation that has not issued has no result yet (R367)
  | .matrix g => g != 0
  | k => match Flight.result k with | .win _ => true | _ => false

/-- Whether a result or a copy is outstanding into what a team has parked (R176, R179, R235): in a slice, in its core scratchpad
allotment (16), in its operand-buffer ranges (17). -/
def State.outstandingIn (s : State) (m : Team) (k : Nat) : Bool :=
  let mine := (s.threads.filter (fun t => t.team == m.id && (k ≥ 16 || t.slice == k))).map (·.id)
  let written := fun (level : Nat) (owner : Nat → Bool) => s.jobs.any (fun j => j.foot.any (fun r => r.write && r.level == level && owner r.owner))
  if k < 16 then s.flights.any (fun f => f.landsInWindow && f.tids.any mine.contains) || written 3 mine.contains
  else if k = 16 then written 0 (· == m.id)
  else s.flights.any (fun f => f.tids.any mine.contains && (match f.kind with | .mobl _ _ _ _ _ => true | _ => false))

/-- The parked owners that may be written out now, in order: one with a result outstanding holds back those after it (R176, R177). -/
def State.evictable (s : State) (p : Place) (k : Nat) : List Team := (s.parkedOwners p k).takeWhile (fun m => !s.outstandingIn m k)

/-- How many of the parked owners must be written out for a need to fit, and the bytes that takes; none where it cannot
fit. -/
def evictFor (units priv : Nat) : Nat → Nat → List (Nat × Nat) → Option (Nat × Nat)
  | freeU, freeP, l =>
    if units ≤ freeU ∧ priv ≤ freeP then some (0, 0)
    else match l with
      | [] => none
      | x :: xs => match evictFor units priv (freeU + x.1) (freeP + x.2) xs with
        | some (n, b) => some (n + 1, b + 256 * x.1 + x.2)
        | none => none

/-- Places, units and bytes of a slice that neither a resident thread nor a parked owner holds. -/
def State.sliceFree (s : State) (p : Place) (slice : Nat) : Nat × Nat × Nat :=
  let u := s.sliceUse p slice
  let parked := (s.parkedOwners p slice).map (fun m => s.parkedUse m slice)
  (64 - u.1, 256 - u.2.1 - parked.foldl (fun a x => a + x.1) 0, 65536 - u.2.2 - parked.foldl (fun a x => a + x.2) 0)

/-- What placing a thread in a slice takes: the number of owners to write out and the bytes; none where it has no room. -/
def State.sliceRoom (s : State) (p : Place) (units priv slice : Nat) : Option (Nat × Nat) :=
  let free := s.sliceFree p slice
  if free.1 = 0 then none
  else evictFor units priv free.2.1 free.2.2 ((s.parkedOwners p slice).map (fun m => s.parkedUse m slice))

/-- The slice of a new thread (R177): free among those with room, else the one whose eviction writes the fewest bytes, lowest
number on equality, with that eviction done. None where no slice has room, or where that eviction waits for a result outstanding into what
it would write out (R176, R179). -/
def State.chooseSlice (s : State) (p : Place) (units priv : Nat) : Option (Nat × State) :=
  let rooms := (List.range 16).filterMap (fun k => (s.sliceRoom p units priv k).map (fun r => (k, r)))
  match rooms.filter (fun x => x.2.1 == 0) with
  | x :: xs =>
    let (k, s) := s.choose (xs.length + 1)
    some (((x :: xs).getD k x).1, s)
  | [] => match rooms with
    | [] => none
    | x :: xs =>
      let best := xs.foldl (fun a y => if y.2.2 < a.2.2 then y else a) x
      let out := (s.parkedOwners p best.1).take best.2.1
      if out.any (fun m => s.outstandingIn m best.1) then none
      else some (best.1, (out.map (·.id)).foldl (fun s m => s.writeOut m best.1) s)

/-- Threads of one shape that a slice takes with units and bytes to spare. -/
def slicePlaces (units priv : Nat) (free : Nat × Nat × Nat) : Nat :=
  min free.1 (min (free.2.1 / max units 1) (if priv = 0 then 64 else free.2.2 / priv))

/-! ### The operand buffer's room (R349, R236) -/

/-- Operand-buffer bytes of a team's ranges (R350: SIZE in 128-byte units). -/
def Team.bufferBytes (m : Team) : Nat :=
  m.handles.foldl (fun n h => match h with | some x => n + 128 * fld x.rec0.toNat 32 16 | none => n) 0

/-- Operand-buffer bytes that the teams on a core and some parked teams hold. -/
def State.bufferUse (s : State) (p : Place) (parked : List Team) : Nat :=
  ((s.teams.filter (fun m => m.place == p && m.status == .resident)).map Team.bufferBytes).sum + (parked.map Team.bufferBytes).sum

/-- Whether n more bytes of ranges fit, parked ranges evicted as far as may be. -/
def State.bufferRoom (s : State) (p : Place) (n : Nat) : Bool :=
  decide (s.bufferUse p ((s.parkedOwners p 17).drop (s.evictable p 17).length) + n ≤ 262144)

/-- Parked ranges evicted in the order of R177 until n more bytes fit. -/
def State.makeBuffer (s : State) (p : Place) (n : Nat) : State :=
  ((s.evictable p 17).map (·.id)).foldl (fun s m => if s.bufferUse p (s.parkedOwners p 17) + n ≤ 262144 then s else s.writeOut m 17) s

/-! ### Frame records (R136-R139) -/

/-- The free pool records of a grid. -/
def Grid.freeFrames (g : Grid) : List Nat := (List.range g.rec_.frames).filter (fun i => !g.pool.contains i)

/-- The lowest thread index that no live thread of a team holds (R141). -/
def State.freeIndex (s : State) (team : Nat) : Option Nat :=
  (List.range 1024).find? (fun i => !s.threads.any (fun t => t.team == team && t.index == i && t.resident))

/-- The views of a launch record (R165, R419). -/
def recordViews (record : Nat) : List View := (List.range 4).map (fun i => ⟨fld record (192 + 24 * i) 12, fld record (204 + 24 * i) 12⟩)

/-- The views of a spawned thread: those of the kernel that holds its entry (R166); of the launch record where the driver has named
no such kernel. -/
def State.viewsAt (s : State) (asid entry record : Nat) : List View :=
  match (s.asidBlock asid).kernels.find? (fun k => decide (k.first ≤ entry) && decide (entry < k.first + k.packets)) with
  | some k => k.views
  | none => recordViews record

/-- What a spawning thread gives a child, as it was before the group (R40, R83, R118): its generator, the crew's `q` copy and step. -/
structure SpawnFrom where
  seed : BitVec 32
  q : QCopy
  step : Nat
  deriving DecidableEq, Repr

/-- The generator one child on. -/
def SpawnFrom.next (x : SpawnFrom) : SpawnFrom := { x with seed := srStep x.seed }

/-- One more child of a thread (R149): a record, a slice, the thread, filed at its entry; none where a record or a place is
lacking. -/
def State.spawnChild (s : State) (x : SpawnFrom) (parent entry : Nat) (arg : W64) : Option State :=
  match s.thread? parent with
  | none => none
  | some t => match s.team? t.team, s.gridOf t, s.freeIndex t.team with
    | some m, some g, some index =>
      if t.frame.children ≥ 65535 then none
      else match g.freeFrames with
        | [] => none
        | r :: rs => match s.chooseSlice m.place (t.winSize / 256) t.priv.size with
          | none => none
          | some (slice, s) =>
            let (k, s) := s.choose (rs.length + 1)
            let rec_ := (r :: rs).getD k r
            let (id, s) := s.newId
            let stepped := srStep x.seed
            let views := s.viewsAt g.asid entry g.record
            let child : Thread :=
              { id, team := t.team, index, spawned := true, slice, status := .binned
                ctx := { pkt := entry, word := 0, srseed := stepped ^^^ 0x5BD1E995 }
                win := Mem.writeN [] (views.getD 0 ⟨0, 0⟩).base (natToBytes 8 arg.toNat), winSize := t.winSize, views
                q := x.q, step := x.step, born := x.step, edge := some t.tm, joined := t.joined, priv := { size := t.priv.size }
                frame := { arg, entry, index := some rec_, parent := some parent
                           parentIndex := t.frame.index.getD 0xFFFF, pthread := if t.frame.index.isNone then t.index else 0
                           depth := t.frame.depth } }
            let s := { s with threads := s.threads ++ [child] }
            let s := s.modGrid g.event (fun g => { g with pool := g.pool ++ [rec_] })
            let s := s.modThread parent (fun t => { (t.modCtx (fun c => { c with srseed := stepped })) with
              frame := { t.frame with children := t.frame.children + 1 } })
            some ((s.storeFrame id).file id)
    | _, _, _ => none

/-! ### Edges (R147, R24) -/

/-- The mark of a thread's edges to threads that may run elsewhere: its TM, and the marks it has been reconciled against, whose writes are
ancestors too (R282, R285). DEDUCED (log 32): R147 names TM alone. -/
def Thread.outMark (t : Thread) : Nat := max t.tm t.joined

/-- A thread has an edge to reconcile before it issues again; two merge to the later mark. -/
def Thread.addEdge (t : Thread) (mark : Nat) : Thread := { t with edge := some (max mark (t.edge.getD 0)) }

/-- The L1 of a core drops every line filled before a mark (R147). -/
def State.selfInvalidate (s : State) (p : Place) (mark : Nat) : State :=
  s.modMem (fun m => { m with l1 := m.l1.filter (fun l => !(l.place == p && decide (l.ft < mark))) })

/-- A thread's `cwait` that has reached its target and whose MARK the thread's die has reached (R448). -/
def State.cwaitDue (s : State) (tid : Nat) (p : Place) : Option Flight :=
  (s.flightsOf tid).find? (fun f => match f.kind with
    | .cwait _ _ _ (some (_, mark)) _ => decide (mark ≤ s.localTime p.die)
    | _ => false)

/-- A `cwait` that has reached its target is reconciled and completes (R448). -/
def State.finishCwait (s : State) (tid : Nat) (p : Place) (f : Flight) : State :=
  match f.kind with
  | .cwait _ _ _ (some (count, mark)) dst =>
    (((s.selfInvalidate p mark).modThread tid (fun t => { t with joined := max t.joined mark })).land64 tid dst (BitVec.ofNat 64 count)).completeFlight f
  | _ => s

/-- EDGE_RECONCILE (R147): the die's copy of package time has reached the mark; a thread released from an await is filed. A
`cwait` that has reached its target is reconciled in the same way (R448). A team that has left its core is reconciled where it
resumes (R154), a thread of a fenced die once that is resumed (R293). -/
def execEdgeReconcile (tid : Nat) (s : State) : Result :=
  match s.thread? tid with
  | none => notNow "EDGE_RECONCILE"
  | some t =>
    let p := s.placeOf t
    if !(s.team? t.team).any (fun m => m.status == .resident) || s.dieFenced p.die then notNow "EDGE_RECONCILE"
    else match t.edge, s.cwaitDue tid p with
    | none, none => notNow "EDGE_RECONCILE"
    | none, some f => .next (s.finishCwait tid p f)
    | some mark, due =>
      if s.localTime p.die < mark then
        match due with
        | some f => .next (s.finishCwait tid p f)
        | none => notNow "EDGE_RECONCILE"
      else
        let s := (s.selfInvalidate p mark).modThread tid (fun t => { t with edge := none, joined := max t.joined mark })
        .next (match t.status with
          | .awaiting _ _ _ => if t.frame.state == 1 then s.file tid else s
          | _ => s)

/-- An awaiting thread whose CHILDREN has fallen to its threshold is released (R152, R153). -/
def State.releaseAwait (s : State) (tid : Nat) : State :=
  match s.thread? tid with
  | none => s
  | some t => match t.status with
    | .awaiting n p _ =>
      if t.frame.state == 2 && decide (t.frame.children ≤ n) then
        s.modThread tid (fun t =>
          let t := { t with frame := { t.frame with state := 1 } }
          let t := match p with | some p => t.setPred p (t.frame.children == 0) | none => t
          t.addEdge t.frame.mark)
      else s
    | _ => s

/-! ### Credits and retirement (R145) -/

/-- What a credit does to the frame it comes to. -/
def Frame.credit (f : Frame) (mark : Nat) (nrp : Bool) : Frame :=
  { f with mark := max f.mark mark, nrp := f.nrp || nrp, children := f.children - 1 }

/-- A credit at a thread's record, which goes to its place again, and the release of an await that it brings (R138, R145, R152). -/
def State.creditFrame (s : State) (tid mark : Nat) (nrp : Bool) : State :=
  let s := (s.touchFrame tid).modThread tid (fun x => { x with frame := x.frame.credit mark nrp })
  (s.releaseAwait tid).storeFrame tid

/-- A retired thread's credit, and those that follow from it up the tree: at most one per thread. A launched thread's goes to its
grid. -/
def State.creditThread (s : State) : Nat → Nat → State
  | 0, _ => s
  | n + 1, tid =>
    match s.thread? tid with
    | none => s
    | some t =>
      if t.status != .retired || t.frame.children != 0 then s
      else
        let mark := max t.tm t.frame.mark
        let s := s.modThread tid (fun t => { t with frame := { t.frame with state := 0 } })
        let s := s.storeFrame tid
        let grid := match s.team? t.team with | some m => m.grid | none => 0
        let s := s.modGrid grid (fun g => { g with mark := max g.mark mark, nrp := g.nrp || t.frame.nrp
                                                   pool := match t.frame.index with | some i => g.pool.filter (fun x => x != i) | none => g.pool })
        let s := { s with threads := s.threads.filter (fun x => x.id != tid) }
        match t.frame.parent with
        | none => s
        | some p => State.creditThread (s.creditFrame p mark t.frame.nrp) n p

/-- A team whose threads have all been credited retires (R145, R431): its energy is settled, its AUTO chunk is fired. -/
def State.retireTeam (s : State) (tm : Nat) : State :=
  match s.team? tm with
  | none => s
  | some m =>
    if m.status != .resident || s.threads.any (fun t => t.team == tm) then s
    else
      let s := s.settleEnergy m
      let s := s.modTeam tm (fun m => { m with status := .retired })
      let s := s.modGrid m.grid (fun g => { g with retired := g.retired + 1 })
      match s.binding? m.grid with
      | some b => if b.auto && decide (m.index < b.nchunks) then s.fireChunk m.grid m.index m.place.die none else s
      | none => s

/-- A thread retires (R130, R145): place, window and allotment go, its retirement is recorded in its frame. -/
def State.retireThread (s : State) (tid : Nat) : State :=
  match s.thread? tid with
  | none => s
  | some t =>
    let s := (s.leaveCrew tid).leaveBin tid
    let s := s.modThread tid (fun t => { t with status := .retired, win := [], winPoison := [], priv := {}, ray := none
                                                frame := { t.frame with state := 3 } })
    let s := s.storeFrame tid
    let s := s.creditThread (s.threads.length + 1) tid
    s.retireTeam t.team

/-- Threads masked off at `exit` whose words have all completed retire (R130), those on a fenced die once it is resumed: no edge is
reconciled there meanwhile (R293). The step does this after what it runs. -/
def State.retireExiting (s : State) : State :=
  ((s.threads.filter (fun t => t.status == .exiting && (s.flightsOf t.id).isEmpty && !t.faults.any t.faultHere
    && !s.dieFenced (s.placeOf t).die)).map (·.id)).foldl State.retireThread s

/-- A child grid's credit to its launching frame (R145, R426). -/
def State.creditGrid (s : State) (g : Grid) : State :=
  match g.parent with
  | none => s
  | some p =>
    let s := s.creditFrame p g.mark g.nrp
    let team := match s.thread? p with | some t => t.team | none => 0
    (s.creditThread (s.threads.length + 1) p).retireTeam team

/-! ### Barriers (R156) -/

/-- Whether a thread has arrived at a barrier that is not released. -/
def State.atBarrier (s : State) (t : Thread) : Bool :=
  let here := fun (bs : List Barrier) => bs.any (fun b => b.arrived.any (fun a => a.tid == t.id))
  match s.team? t.team with
  | none => false
  | some m => here m.bars
    || (match s.grid? m.grid with
      | some g => g.cbars.any (fun c => here c.bars) || g.bars.any (fun b => b.reported.any (fun a => a.tid == t.id) || b.dies.any (fun a => a.2.tid == t.id))
      | none => false)

/-- Every participant of a released generation is reconciled with the largest TM among them. -/
def State.releaseAll (s : State) (l : List Arrival) : State :=
  let mark := l.foldl (fun a x => max a x.tm) 0
  l.foldl (fun s a => s.modThread a.tid (fun t => t.addEdge mark)) s

/-- An arrival: the barrier after it, the released participants, whether its count differs from its generation's. -/
def Barrier.arrive (b : Barrier) (a : Arrival) : Barrier × List Arrival × Bool :=
  let count := match b.arrived with | x :: _ => x.count | [] => a.count
  let l := b.arrived ++ [a]
  if l.length ≥ count then ({}, l, a.count != count) else ({ arrived := l }, [], a.count != count)

/-- Barrier n of a grid's teams on the hardware cluster of a core (R156). -/
def Grid.clusterBarrier (g : Grid) (p : Place) (n : Nat) : Barrier :=
  match g.cbars.find? (fun c => c.die == p.die && c.cluster == p.cluster) with
  | some c => c.bars.getD n {}
  | none => {}

/-- The same barrier set. -/
def Grid.setClusterBarrier (g : Grid) (p : Place) (n : Nat) (b : Barrier) : Grid :=
  let here := fun (c : ClusterBars) => c.die == p.die && c.cluster == p.cluster
  let l := if g.cbars.any here then g.cbars else g.cbars ++ [{ die := p.die, cluster := p.cluster }]
  { g with cbars := l.map (fun c => if here c then { c with bars := modAt (fun _ => b) n c.bars } else c) }

/-- BCMIS of a thread's team (R143). -/
def State.setBcmis (s : State) (t : Thread) (on : Bool) : State :=
  if on then s.modTeam t.team (fun m => { m with regs := { m.regs with frmctl := m.regs.frmctl ||| 0x80000000 } }) else s

/-- A grid barrier's generations end where the arrivals reported reach their count; those beyond belong to the next. Each generation
with its count and arrivals, in order, the last of them the one that goes on. -/
def GridBarrier.settle : Nat → GridBarrier → GridBarrier × List (Nat × List Arrival)
  | 0, b => (b, [])
  | n + 1, b =>
    if b.count ≠ 0 ∧ b.reported.length ≥ b.count then
      let rest := b.reported.drop b.count
      let next : Nat := match rest.head?, b.dies.head? with
        | some x, _ => x.count
        | none, some y => y.2.count
        | none, none => 0
      let r := GridBarrier.settle n { b with count := next, reported := rest }
      (r.1, (b.count, b.reported.take b.count) :: r.2)
    else (b, [])

/-- BCMIS of the teams of new arrivals whose count differs from that of the generation they have come to belong to (R156): the master
die knows that generation when it has their die's message. -/
def State.countMismatch (s : State) (new : List Arrival) (gens : List (Nat × List Arrival)) : State :=
  new.foldl (fun s a =>
    let mine := gens.find? (fun g => g.2.any (fun x => x.tid == a.tid))
    match s.thread? a.tid, mine with
    | some t, some g => s.setBcmis t (a.count != g.1)
    | _, _ => s) s

/-- DBAR_DIE_MESSAGE (R156): a die's arrivals reach the master die, which may release the generation; a fenced die sends none (R293). -/
def execDbarDieMessage (grid n die : Nat) (s : State) : Result :=
  match s.grid? grid with
  | none => notNow "DBAR_DIE_MESSAGE"
  | some g =>
    let b := g.bars.getD n {}
    let mine := b.dies.filter (fun x => x.1 == die)
    if mine.isEmpty || s.dieFenced die then notNow "DBAR_DIE_MESSAGE"
    else
      let new := mine.map (fun (x : Nat × Arrival) => x.2)
      let b := { b with reported := b.reported ++ new, dies := b.dies.filter (fun x => x.1 != die) }
      let (b, out) := b.settle b.reported.length
      let s := s.modGrid grid (fun g => { g with bars := modAt (fun _ => b) n g.bars })
      .next ((out.map (·.2)).foldl State.releaseAll (s.countMismatch new (out ++ [(b.count, b.reported)])))

end Sys2Proof.Machine
end

