-- ==== Sys2Proof/Machine/Control.lean ====
section
/-! DEFINITION. The control words of spec/04 R122-R135 and the modifier words of spec/02 R47-R53. -/
namespace Sys2Proof.Machine

/-! ### Modifier words: they set what the instruction they modify reads (R47-R53) -/

/-- A modifier met at issue. -/
def State.addPfx (s : State) (kind : Nat) (y : BitVec 16) : Result :=
  .next (s.modIssue (fun i => { i with pfx := (i.pfx.add? (kind, y)).getD i.pfx }))

def execBlk (y : BitVec 16) (s : State) : Result := s.addPfx 1 y
def execExt (y : BitVec 16) (s : State) : Result := s.addPfx 2 y
def execGrd (y : BitVec 16) (s : State) : Result := s.addPfx 3 y
def execVer (y : BitVec 16) (s : State) : Result := s.addPfx 4 y
def execFmt (y : BitVec 16) (s : State) : Result := s.addPfx 5 y

/-! ### Control flow -/

/-- `nop` (R123): no effect on any state. -/
def execNop (s : State) : Result := .next s

/-- The target of a branch of format B (R42). -/
def branchTarget (pkt : Nat) (off : BitVec 16) : Nat := ofSigned 64 ((pkt : Int) + toSigned 16 off.toNat)

/-- `br` (R124). -/
def execBr (off16 : BitVec 16) (s : State) : Result :=
  issueWord s .ctl (fun _ _ => .pass)
    (fun i ps s => ps.foldl (fun s t => s.jump t.id (branchTarget i.pkt off16) 0) s)

/-- `bp` (R125). -/
def execBp (p : BitVec 3) (sense : BitVec 1) (off16 : BitVec 16) (s : State) : Result :=
  issueWord s .ctl (fun _ _ => .pass)
    (fun i ps s => (ps.filter (fun t => t.ctx.pred p.toNat != (sense == 1))).foldl
      (fun s t => s.jump t.id (branchTarget i.pkt off16) 0) s)

/-- `bx` (R126). -/
def execBx (a : BitVec 6) (s : State) : Result :=
  let o : Operand := .vv a s.pfx.ua
  issueWord s .ctl (fun i t => operandVerdict i.beforeQ t [o] [])
    (fun i ps s => ps.foldl (fun s t => s.jump t.id (o.val t i.beforeQ).toNat 0) s)

/-- `call` (R124). -/
def execCall (off16 : BitVec 16) (s : State) : Result :=
  issueWord s .ctl (fun _ _ => .pass)
    (fun i ps s => ps.foldl (fun s t =>
      (s.modThread t.id (fun t => t.modCtx (fun c => { c with link := BitVec.ofNat 64 (i.pkt + 1) }))).jump t.id
        (branchTarget i.pkt off16) 0) s)

/-- A thread masked off at `exit` (R130): it leaves its crew at once; the step retires it when its words have completed. -/
def State.maskOff (s : State) (tid : Nat) : State :=
  (s.leaveCrew tid).modThread tid (fun t => { t with status := .exiting })

/-- The holding point of `exit` (R57, R296): pending faults are taken first; the wait itself holds no other member. -/
def exitVerdict (t : Thread) : Verdict := if t.faults.any t.faultHere then .late else .pass

/-- `exit` (R130). -/
def execExit (s : State) : Result :=
  issueWord s .ctl (fun _ t => exitVerdict t) (fun _ ps s => ps.foldl (fun s t => s.maskOff t.id) s)

/-- LINK = END (R127). -/
def linkEnd : W64 := BitVec.allOnes 64

/-- `ret` (R128). -/
def execRet (s : State) : Result :=
  issueWord s .ctl (fun _ t => if t.ctx.link == linkEnd then exitVerdict t else .pass)
    (fun _ ps s => ps.foldl (fun s t =>
      if t.ctx.link == linkEnd then s.maskOff t.id else s.jump t.id t.ctx.link.toNat 0) s)

/-- `reform` (R131): active members are filed at (P + 1, 0), every other member at its own address; the crew ends. -/
def execReform (s : State) : Result :=
  issueWord s .ctl (fun _ _ => .pass)
    (fun i ps s =>
      let s := ps.foldl (fun s t => s.modThread t.id (·.goto (i.pkt + 1) 0)) s
      match s.crew? i.crew with
      | none => s
      | some c => (c.members.map (·.tid)).foldl State.fileFromCrew s)

/-- `sbwait` (R132): the next instruction is held until the slot's count is at most k. -/
def execSbwait (slot : BitVec 6) (k : BitVec 14) (s : State) : Result :=
  issueWord s .ctl (fun _ _ => .pass)
    (fun _ ps s => ps.foldl (fun s t =>
      s.modThread t.id (fun t => t.modCtx (fun c => { c with hold := some (slot.toNat, k.toNat) }))) s)

/-- `qsync` (R133). -/
def execQsync (s : State) : Result :=
  issueWord s .ctl (fun _ _ => .pass)
    (fun i ps s => if ps.isEmpty then s else s.modCrew i.crew (fun c => { c with qdiv := false }))

/-- `vote` (R134): every pA is read before any pD is written. -/
def execVote (d a : BitVec 6) (m : BitVec 2) (s : State) : Result :=
  issueWord s .ctl (fun _ _ => .pass)
    (fun _ ps s =>
      let vs := ps.map (fun t => t.ctx.pred a.toNat)
      let r := match m.toNat with
        | 0 => vs.all id
        | 1 => vs.any id
        | _ => vs.all id || !vs.any id
      ps.foldl (fun s t => s.modThread t.id (·.setPred d.toNat r)) s)

/-- The slot mask of the participants whose pA is true (R135). -/
def ballotMask (s : State) (crew : Nat) (ps : List Thread) (a : Nat) : Nat :=
  match s.crew? crew with
  | none => 0
  | some c => (c.members.filter (fun m => ps.any (fun t => t.id == m.tid && t.ctx.pred a))).foldl (fun acc m => acc + 2 ^ m.slot) 0

/-- `ballot` (R135): the slot mask or its population count, to each participant or once to a `q` register. -/
def execBallot (d a : BitVec 6) (m : BitVec 2) (s : State) : Result :=
  let o : Operand := .vv d s.pfx.ud
  issueWord s .ctl (fun i t => operandVerdict i.beforeQ t [] [o])
    (fun i ps s =>
      let mask := ballotMask s i.crew ps a.toNat
      let r := BitVec.ofNat 64 (if m = 0 then mask else popcount 32 mask)
      if o.isQ then s.modCrew i.crew (fun c => { c with q := c.q.set d.toNat r })
      else ps.foldl (fun s t => s.land64 t.id (o.dst i t) r) s)

end Sys2Proof.Machine
end

