-- ==== Sys2Proof/Machine/Integer.lean ====
section
/-! DEFINITION. The words of spec/06 R184-R195: moves, view setting, element-wise integer operations, carry chains, compare and
select, bit fields, addresses, immediate forms, predicates. -/
namespace Sys2Proof.Machine

/-! ### Shapes shared by the words of this file -/

/-- Operand d of a word of R183 under the modifiers. -/
def opD (x : Pfx) (d : BitVec 6) : Operand := .vv d x.ud x.bd
/-- Operand a. -/
def opA (x : Pfx) (a : BitVec 6) : Operand := .vv a x.ua x.ba
/-- Operand b. -/
def opB (x : Pfx) (b : BitVec 6) : Operand := .vv b x.ub x.bb

/-- The element width of field m (R35). -/
def widthOf (m : BitVec 2) : Nat := 64 / 2 ^ m.toNat

/-- A function of each element of a 64-bit value. -/
def eachElem (w : Nat) (f : Nat → Nat) : Nat := pack w ((List.range (64 / w)).map (fun e => f e % 2 ^ w))

/-- The word of an element-wise function of a and b, element by element (R187). -/
def intBinary (x : Pfx) (d a b : BitVec 6) (m : BitVec 2) (f : Nat → Nat → Nat → Nat) : LaneWord :=
  let w := widthOf m
  { d := some (opD x d), a := some (opA x a), b := some (opB x b), reads := fun _ => (0, 0xFF, 0xFF)
    run := fun y => { d := some (eachElem w (fun e => f w (elem w e y.a) (elem w e y.b))) } }

/-- The word of an element-wise function of a alone. -/
def intUnary (x : Pfx) (d a : BitVec 6) (m : BitVec 2) (f : Nat → Nat → Nat) : LaneWord :=
  let w := widthOf m
  { d := some (opD x d), a := some (opA x a), reads := fun _ => (0, 0xFF, 0)
    run := fun y => { d := some (eachElem w (fun e => f w (elem w e y.a))) } }

/-- The bytes of a w-bit x on which f depends, y given: those with a bit whose change from 0 changes the result (R181). For the shifts,
rotations, sums, products and bitwise functions that use it these are all of them. -/
def dependBytes (f : Nat → Nat → Nat → Nat) (w y : Nat) : Nat :=
  ((List.range (w / 8)).filter (fun k => (List.range 8).any (fun j => f w (2 ^ (8 * k + j)) y % 2 ^ w != f w 0 y % 2 ^ w))).foldl
    (fun acc k => acc + 2 ^ k) 0

/-- The word of a shift or a rotation (R187): a byte of a that the count shifts out is not read (R181); `counts`: the bytes of each
element of b that give the count. -/
def intShift (x : Pfx) (d a b : BitVec 6) (m : BitVec 2) (counts : Nat) (f : Nat → Nat → Nat → Nat) : LaneWord :=
  let w := widthOf m
  { intBinary x d a b m f with
    reads := fun y => (0, pack (w / 8) ((List.range (64 / w)).map (fun e => dependBytes f w (elem w e y.b))),
      pack (w / 8) ((List.range (64 / w)).map (fun _ => counts))) }

/-- The word of a function of a and an immediate, on one 64-bit element (R193). -/
def intImm (x : Pfx) (d a : BitVec 6) (y : Nat) (f : Nat → Nat → Nat → Nat) : LaneWord :=
  { d := some (opD x d), a := some (opA x a), reads := fun _ => (0, dependBytes f 64 y, 0)
    run := fun z => { d := some (eachElem 64 (fun e => f 64 (elem 64 e z.a) y)) } }

/-- An 8-bit immediate, or 21 bits with a nonzero IMMX, sign-extended to 64 bits (R50, R193). -/
def imm8s (x : Pfx) (imm : BitVec 8) : Nat :=
  if x.immx = 0 then (sext64 8 imm.toNat).toNat else (sext64 21 (x.immx * 256 + imm.toNat)).toNat

/-- The same, zero-extended. -/
def imm8u (x : Pfx) (imm : BitVec 8) : Nat := if x.immx = 0 then imm.toNat else x.immx * 256 + imm.toNat

/-! ### Functions of one element (R187): width, x, y -/

def addElem (w x y : Nat) : Nat := (x + y) % 2 ^ w
def subElem (w x y : Nat) : Nat := (x + (2 ^ w - y)) % 2 ^ w
def mulElem (w x y : Nat) : Nat := (x * y) % 2 ^ w
def mulhSignedElem (w x y : Nat) : Nat := ofSigned w (toSigned w x * toSigned w y / (2 ^ w : Nat))
def mulhUnsignedElem (w x y : Nat) : Nat := x * y / 2 ^ w
def andElem (_ x y : Nat) : Nat := x &&& y
def orElem (_ x y : Nat) : Nat := x ||| y
def xorElem (_ x y : Nat) : Nat := x ^^^ y
def andnElem (w x y : Nat) : Nat := x &&& (2 ^ w - 1 - y)
def notElem_ (w x : Nat) : Nat := 2 ^ w - 1 - x
def shlElem (w x c : Nat) : Nat := if c ≥ w then 0 else (x * 2 ^ c) % 2 ^ w
def shrElem (w x c : Nat) : Nat := if c ≥ w then 0 else x / 2 ^ c
def sarElem (w x c : Nat) : Nat := ofSigned w (toSigned w x / (2 ^ min c (w - 1) : Nat))
def rolElem (w x c : Nat) : Nat := (x * 2 ^ (c % w)) % 2 ^ w + x / 2 ^ (w - c % w)
def minSignedElem (w x y : Nat) : Nat := if toSigned w y < toSigned w x then y else x
def maxSignedElem (w x y : Nat) : Nat := if toSigned w x < toSigned w y then y else x
def absElem (w x : Nat) : Nat := if toSigned w x < 0 then (2 ^ w - x) % 2 ^ w else x
def negElem (w x : Nat) : Nat := (2 ^ w - x) % 2 ^ w
def popcElem (w x : Nat) : Nat := popcount w x
def clzElem (w x : Nat) : Nat := if x = 0 then w else w - 1 - Nat.log2 x
def ctzElem (w x : Nat) : Nat := ((List.range w).find? (bit x)).getD w
def brevElem (w x : Nat) : Nat := reverseBits w x

/-! ### Moves and views -/

/-- `mov` (R184): the E bytes of the view chosen by m. -/
def execMov (d a : BitVec 6) (m : BitVec 2) (s : State) : Result :=
  let x := s.pfx
  let od : Operand := { view := m.toNat, reg := d.toNat, isQ := x.ud, step := x.bd }
  let oa : Operand := { view := m.toNat, reg := a.toNat, isQ := x.ua, step := x.ba }
  runLaneWord s .alu { d := some od, a := some oa, reads := fun _ => (0, 0xFFFFFFFF, 0), run := fun y => { d := some y.a } }

/-- `movi` (R185): a signed immediate of 14 bits, or 27 with a nonzero IMMX. -/
def execMovi (d : BitVec 6) (imm : BitVec 14) (s : State) : Result :=
  let x := s.pfx
  let v := if x.immx = 0 then sext64 14 imm.toNat else sext64 27 (x.immx * 16384 + imm.toNat)
  runLaneWord s .alu { d := some (opD x d), reads := fun _ => (0, 0, 0), run := fun _ => { d := some v.toNat } }

/-- `movh` (R185): d shifted left by 14 bits with the immediate below. -/
def execMovh (d : BitVec 6) (imm : BitVec 14) (s : State) : Result :=
  runLaneWord s .alu { d := some (opD s.pfx d), reads := fun _ => (0x7F, 0, 0)
                       run := fun y => { d := some ((y.d * 16384 + imm.toNat) % 2 ^ 64) } }

/-- Whether a view is valid in a window (R165): base and stride as integers. -/
def viewOk (view : Nat) (size : Nat) (base stride : Int) : Bool :=
  let e : Int := viewE view
  decide (0 ≤ base) && decide (base < size) && decide (base % e = 0) && decide (stride % e = 0) && decide (e ≤ stride) && decide (stride ≤ size)

/-- `vwset` (R186): a view from a register, or its base moved by a signed number of registers. -/
def execVwset (view a : BitVec 6) (mode : BitVec 1) (step : BitVec 7) (s : State) : Result :=
  let o : Operand := .vv a s.pfx.ua
  let target := fun (i : IssueCtx) (t : Thread) =>
    let old := t.view view.toNat
    if mode = 0 then
      let v := (o.val t i.beforeQ).toNat
      ((fld v 0 12 : Int), (fld v 16 12 : Int))
    else ((old.base : Int) + toSigned 7 step.toNat * viewE view.toNat, (old.stride : Int))
  issueWord s .alu
    (fun i t =>
      let n := target i t
      (if mode = 0 then partialVerdict i.beforeQ t [o] [(o, 4)] else .pass).andThen
        (.require (viewOk view.toNat t.winSize n.1 n.2) Cause.viewRange 0))
    (fun i ps s => ps.foldl (fun s t =>
      let n := target i t
      s.modThread t.id (fun t => { t with views := modAt (fun _ => ⟨n.1.toNat, n.2.toNat⟩) view.toNat t.views })) s)

/-! ### Element-wise operations (R187) -/

def execAdd (d a b : BitVec 6) (m : BitVec 2) (s : State) : Result := runLaneWord s .alu (intBinary s.pfx d a b m addElem)
def execSub (d a b : BitVec 6) (m : BitVec 2) (s : State) : Result := runLaneWord s .alu (intBinary s.pfx d a b m subElem)
def execMul (d a b : BitVec 6) (m : BitVec 2) (s : State) : Result := runLaneWord s .alu (intBinary s.pfx d a b m mulElem)
def execMulhSigned (d a b : BitVec 6) (m : BitVec 2) (s : State) : Result := runLaneWord s .alu (intBinary s.pfx d a b m mulhSignedElem)
def execMulhUnsigned (d a b : BitVec 6) (m : BitVec 2) (s : State) : Result := runLaneWord s .alu (intBinary s.pfx d a b m mulhUnsignedElem)

/-- `mad`: product plus the old element of d. -/
def execMad (d a b : BitVec 6) (m : BitVec 2) (s : State) : Result :=
  let w := widthOf m
  let x := s.pfx
  runLaneWord s .alu
    { d := some (opD x d), a := some (opA x a), b := some (opB x b), reads := fun _ => (0xFF, 0xFF, 0xFF)
      run := fun y => { d := some (eachElem w (fun e => elem w e y.a * elem w e y.b + elem w e y.d)) } }

def execAnd (d a b : BitVec 6) (m : BitVec 2) (s : State) : Result := runLaneWord s .alu (intBinary s.pfx d a b m andElem)
def execOr (d a b : BitVec 6) (m : BitVec 2) (s : State) : Result := runLaneWord s .alu (intBinary s.pfx d a b m orElem)
def execXor (d a b : BitVec 6) (m : BitVec 2) (s : State) : Result := runLaneWord s .alu (intBinary s.pfx d a b m xorElem)
def execAndn (d a b : BitVec 6) (m : BitVec 2) (s : State) : Result := runLaneWord s .alu (intBinary s.pfx d a b m andnElem)
def execNot (d a : BitVec 6) (m : BitVec 2) (s : State) : Result := runLaneWord s .alu (intUnary s.pfx d a m notElem_)
def execShl (d a b : BitVec 6) (m : BitVec 2) (s : State) : Result := runLaneWord s .alu (intShift s.pfx d a b m 0xFF shlElem)
def execShr (d a b : BitVec 6) (m : BitVec 2) (s : State) : Result := runLaneWord s .alu (intShift s.pfx d a b m 0xFF shrElem)
def execSar (d a b : BitVec 6) (m : BitVec 2) (s : State) : Result := runLaneWord s .alu (intShift s.pfx d a b m 0xFF sarElem)
def execRol (d a b : BitVec 6) (m : BitVec 2) (s : State) : Result := runLaneWord s .alu (intShift s.pfx d a b m 1 rolElem)
def execMinSigned (d a b : BitVec 6) (m : BitVec 2) (s : State) : Result := runLaneWord s .alu (intBinary s.pfx d a b m minSignedElem)
def execMinUnsigned (d a b : BitVec 6) (m : BitVec 2) (s : State) : Result := runLaneWord s .alu (intBinary s.pfx d a b m (fun _ x y => min x y))
def execMaxSigned (d a b : BitVec 6) (m : BitVec 2) (s : State) : Result := runLaneWord s .alu (intBinary s.pfx d a b m maxSignedElem)
def execMaxUnsigned (d a b : BitVec 6) (m : BitVec 2) (s : State) : Result := runLaneWord s .alu (intBinary s.pfx d a b m (fun _ x y => max x y))
def execAbs (d a : BitVec 6) (m : BitVec 2) (s : State) : Result := runLaneWord s .alu (intUnary s.pfx d a m absElem)
def execNeg (d a : BitVec 6) (m : BitVec 2) (s : State) : Result := runLaneWord s .alu (intUnary s.pfx d a m negElem)
def execPopc (d a : BitVec 6) (m : BitVec 2) (s : State) : Result := runLaneWord s .alu (intUnary s.pfx d a m popcElem)
def execClz (d a : BitVec 6) (m : BitVec 2) (s : State) : Result := runLaneWord s .alu (intUnary s.pfx d a m clzElem)
def execCtz (d a : BitVec 6) (m : BitVec 2) (s : State) : Result := runLaneWord s .alu (intUnary s.pfx d a m ctzElem)
def execBrev (d a : BitVec 6) (m : BitVec 2) (s : State) : Result := runLaneWord s .alu (intUnary s.pfx d a m brevElem)

/-! ### Carry chains (R188) -/

/-- Sums of a chain element by element: the elements, and the carry bits with those of these elements replaced. -/
def chain (w : Nat) (f : Nat → Nat → Nat → Int) (a b : Nat) (c : BitVec 8) : List Nat × BitVec 8 :=
  (List.range (64 / w)).foldl (fun acc e =>
    let r := f (elem w e a) (elem w e b) (c.getLsbD e).toNat
    (acc.1 ++ [ofSigned w r], setPredBits acc.2 e (decide (r < 0) || decide ((2 ^ w : Nat) ≤ r)))) ([], c)

/-- The word of a carry chain. -/
def chainWord (x : Pfx) (d a b : BitVec 6) (m : BitVec 2) (f : Nat → Nat → Nat → Int) : LaneWord :=
  { d := some (opD x d), a := some (opA x a), b := some (opB x b), reads := fun _ => (0, 0xFF, 0xFF)
    run := fun y =>
      let r := chain (widthOf m) f y.a y.b y.icarry
      { d := some (pack (widthOf m) r.1), icarry := some r.2 } }

/-- `addc`. -/
def execAddc (d a b : BitVec 6) (m : BitVec 2) (s : State) : Result :=
  runLaneWord s .alu (chainWord s.pfx d a b m (fun x y c => (x : Int) + y + c))
/-- `subb`. -/
def execSubb (d a b : BitVec 6) (m : BitVec 2) (s : State) : Result :=
  runLaneWord s .alu (chainWord s.pfx d a b m (fun x y c => (x : Int) - y - c))

/-! ### Compare and select (R189, R190) -/

/-- A condition on the order of two integers. -/
def condHolds (cond : Nat) (x y : Int) : Bool :=
  match cond with
  | 0 => decide (x = y) | 1 => decide (x ≠ y) | 2 => decide (x < y) | 3 => decide (x ≤ y) | 4 => decide (y < x) | _ => decide (y ≤ x)

/-- The value of a low element under an order. -/
def lowElem (signed : Bool) (w v : Nat) : Int := if signed then toSigned w v else ((v % 2 ^ w : Nat) : Int)

/-- The word of a comparison of low elements. -/
def cmpWord (x : Pfx) (signed : Bool) (p cond : BitVec 3) (a b : BitVec 6) (m : BitVec 2) : LaneWord :=
  let w := widthOf m
  let low := 2 ^ (w / 8) - 1
  { a := some (opA x a), b := some (opB x b), reads := fun _ => (0, low, low)
    run := fun y => { p := some (p.toNat, condHolds cond.toNat (lowElem signed w y.a) (lowElem signed w y.b)) } }

def execCmpSigned (p cond : BitVec 3) (a b : BitVec 6) (m : BitVec 2) (s : State) : Result :=
  runLaneWord s .alu (cmpWord s.pfx true p cond a b m)
def execCmpUnsigned (p cond : BitVec 3) (a b : BitVec 6) (m : BitVec 2) (s : State) : Result :=
  runLaneWord s .alu (cmpWord s.pfx false p cond a b m)

/-- `sel` (R190): bit by bit by the old d. -/
def execSel (d a b : BitVec 6) (_m : BitVec 2) (s : State) : Result :=
  let x := s.pfx
  runLaneWord s .alu
    { d := some (opD x d), a := some (opA x a), b := some (opB x b), reads := fun _ => (0xFF, 0xFF, 0xFF)
      run := fun y => { d := some (eachElem 64 (fun e => (elem 64 e y.a &&& elem 64 e y.d) ||| (elem 64 e y.b &&& (2 ^ 64 - 1 - elem 64 e y.d)))) } }

/-! ### Bit fields and addresses (R191, R192) -/

/-- Position and length of a bit field from b (R191). -/
def fieldOf (w b : Nat) : Nat × Nat :=
  let pos := fld b 0 6
  (pos, if pos ≥ w then 0 else min (fld b 8 7) (w - pos))

/-- The bytes of a 64-bit value that hold bits [pos + len - 1 : pos] of every element. -/
def fieldBytes (w pos len : Nat) : Nat :=
  ((List.range 8).filter (fun k =>
    let o := 8 * k % w
    decide (0 < len) && decide (o < pos + len) && decide (pos < o + 8))).foldl (fun acc k => acc + 2 ^ k) 0

/-- The bytes that a field covers whole. -/
def fieldWhole (w pos len : Nat) : Nat :=
  ((List.range 8).filter (fun k =>
    let o := 8 * k % w
    decide (pos ≤ o) && decide (o + 8 ≤ pos + len))).foldl (fun acc k => acc + 2 ^ k) 0

/-- The word of `bfx`. -/
def bfxWord (x : Pfx) (signed : Bool) (d a b : BitVec 6) (m : BitVec 2) : LaneWord :=
  let w := widthOf m
  { d := some (opD x d), a := some (opA x a), b := some (opB x b)
    reads := fun y => let p := fieldOf w y.b; (0, fieldBytes w p.1 p.2, 3)
    run := fun y =>
      let p := fieldOf w y.b
      { d := some (eachElem w (fun e =>
          let f := fld (elem w e y.a) p.1 p.2
          if p.2 = 0 then 0 else if signed then ofSigned w (toSigned p.2 f) else f)) } }

def execBfxSigned (d a b : BitVec 6) (m : BitVec 2) (s : State) : Result := runLaneWord s .alu (bfxWord s.pfx true d a b m)
def execBfxUnsigned (d a b : BitVec 6) (m : BitVec 2) (s : State) : Result := runLaneWord s .alu (bfxWord s.pfx false d a b m)

/-- `bfi` (R191): only the bits of the field are written; a byte written in part keeps its other bits, so it is read. -/
def execBfi (d a b : BitVec 6) (m : BitVec 2) (s : State) : Result :=
  let x := s.pfx
  let w := widthOf m
  runLaneWord s .alu
    { d := some (opD x d), a := some (opA x a), b := some (opB x b)
      reads := fun y =>
        let p := fieldOf w y.b
        (fieldBytes w p.1 p.2 - fieldWhole w p.1 p.2, fieldBytes w 0 p.2, 3)
      run := fun y =>
        let p := fieldOf w y.b
        { d := some (eachElem w (fun e => if p.2 = 0 then elem w e y.d else setFld (elem w e y.d) p.1 p.2 (elem w e y.a)))
          dMask := fieldBytes w p.1 p.2 } }

/-- `lea` (R192). -/
def execLea (d a b : BitVec 6) (m : BitVec 2) (s : State) : Result :=
  let x := s.pfx
  runLaneWord s .alu
    { d := some (opD x d), a := some (opA x a), b := some (opB x b), reads := fun _ => (0, 0xFF, 0xFF)
      run := fun y => { d := some ((y.a + y.b * 2 ^ (3 - m.toNat)) % 2 ^ 64) } }

/-! ### Immediate forms (R193) -/

def execAddImm (d a : BitVec 6) (imm : BitVec 8) (s : State) : Result := runLaneWord s .alu (intImm s.pfx d a (imm8s s.pfx imm) addElem)
def execAndImm (d a : BitVec 6) (imm : BitVec 8) (s : State) : Result := runLaneWord s .alu (intImm s.pfx d a (imm8s s.pfx imm) andElem)
def execOrImm (d a : BitVec 6) (imm : BitVec 8) (s : State) : Result := runLaneWord s .alu (intImm s.pfx d a (imm8s s.pfx imm) orElem)
def execXorImm (d a : BitVec 6) (imm : BitVec 8) (s : State) : Result := runLaneWord s .alu (intImm s.pfx d a (imm8s s.pfx imm) xorElem)
def execShlImm (d a : BitVec 6) (imm : BitVec 8) (s : State) : Result := runLaneWord s .alu (intImm s.pfx d a imm.toNat shlElem)
def execShrImm (d a : BitVec 6) (imm : BitVec 8) (s : State) : Result := runLaneWord s .alu (intImm s.pfx d a imm.toNat shrElem)
def execSarImm (d a : BitVec 6) (imm : BitVec 8) (s : State) : Result := runLaneWord s .alu (intImm s.pfx d a imm.toNat sarElem)
def execMulImm (d a : BitVec 6) (imm : BitVec 8) (s : State) : Result := runLaneWord s .alu (intImm s.pfx d a (imm8s s.pfx imm) mulElem)

/-- The word of a comparison with an immediate. -/
def cmpImmWord (x : Pfx) (signed : Bool) (p cond : BitVec 3) (a : BitVec 6) (imm : BitVec 8) : LaneWord :=
  let y := if signed then imm8s x imm else imm8u x imm
  { a := some (opA x a), reads := fun _ => (0, 0xFF, 0)
    run := fun z => { p := some (p.toNat, condHolds cond.toNat (lowElem signed 64 z.a) (lowElem signed 64 y)) } }

def execCmpSignedImm (p cond : BitVec 3) (a : BitVec 6) (imm : BitVec 8) (s : State) : Result :=
  runLaneWord s .alu (cmpImmWord s.pfx true p cond a imm)
def execCmpUnsignedImm (p cond : BitVec 3) (a : BitVec 6) (imm : BitVec 8) (s : State) : Result :=
  runLaneWord s .alu (cmpImmWord s.pfx false p cond a imm)

/-! ### Predicates (R194, R195) -/

/-- The word of an operation on two predicates, each inverted or not. -/
def predWord (d : BitVec 3) (na : BitVec 1) (a : BitVec 3) (nb : BitVec 1) (b : BitVec 3) (f : Bool → Bool → Bool) : LaneWord :=
  { reads := fun _ => (0, 0, 0)
    run := fun y => { p := some (d.toNat, f (y.preds.getLsbD a.toNat != (na == 1)) (y.preds.getLsbD b.toNat != (nb == 1))) } }

def execPand (d : BitVec 3) (na : BitVec 1) (a : BitVec 3) (nb : BitVec 1) (b : BitVec 3) (s : State) : Result :=
  runLaneWord s .alu (predWord d na a nb b (fun x y => x && y))
def execPor (d : BitVec 3) (na : BitVec 1) (a : BitVec 3) (nb : BitVec 1) (b : BitVec 3) (s : State) : Result :=
  runLaneWord s .alu (predWord d na a nb b (fun x y => x || y))
def execPxor (d : BitVec 3) (na : BitVec 1) (a : BitVec 3) (nb : BitVec 1) (b : BitVec 3) (s : State) : Result :=
  runLaneWord s .alu (predWord d na a nb b (fun x y => x != y))

/-- `pmov` (R195): a predicate to a predicate, a predicate to a register, a register to a predicate. -/
def execPmov (d a b : BitVec 6) (s : State) : Result :=
  let x := s.pfx
  let pa := fun (y : LaneIn) => y.preds.getLsbD (a.toNat % 8) != a.getLsbD 5
  runLaneWord s .alu (match b.toNat with
    | 0 => { reads := fun _ => (0, 0, 0), run := fun y => { p := some (d.toNat % 8, pa y) } }
    | 1 => { d := some (opD x d), reads := fun _ => (0, 0, 0), run := fun y => { d := some (if pa y then 2 ^ 64 - 1 else 0) } }
    | _ => { a := some (opA x a), reads := fun _ => (0, 0xFF, 0), run := fun y => { p := some (d.toNat % 8, y.a != 0) } })

end Sys2Proof.Machine
end

