-- ==== Sys2Proof/Machine/Float.lean ====
section
/-! DEFINITION. The floating-point words of spec/07 R197-R204. -/
namespace Sys2Proof.Machine

/-- The format code of field m (R35): `.d`, `.s`, `.h`, `.bf`. -/
def fmtOfM (m : BitVec 2) : Nat := m.toNat + 1

/-- What a float word makes of its elements: bits packed, flags, the generator after its draws (R84). DESIGN CHOICE (log 31): under RM 5 a word
that is no conversion (`fadd.h`, `fma.bf`, `fscale`) draws once for every element, one whose result is NaN or exact too; R84, R203 and R204
speak of conversions. -/
def floatOut (w n : Nat) (rm : Nat) (seed : BitVec 32) (f : Nat → Nat → FpRes) : LaneOut :=
  let r := mapElems n (rm == 5) seed f
  { d := some (pack w r.1 % 2 ^ 64), flags := r.2.1, seed := if rm == 5 then some r.2.2 else none }

/-- The word of an element-wise float operation on x, y and the old z, rounded as `fmt` says (R197). -/
def floatWord (x : Pfx) (d a b : BitVec 6) (m : BitVec 2) (readsD : Bool) (f : Nat → FpVal → FpVal → FpVal → Exact) : LaneWord :=
  let k := fmtOfM m
  let w := fmtBits k
  { d := some (opD x d), a := some (opA x a), b := some (opB x b), reads := fun _ => (if readsD then 0xFF else 0, 0xFF, 0xFF)
    run := fun y => floatOut w (64 / w) x.rm y.seed (fun e g =>
      roundTo k x.rm x.sat g (f x.rm (fpDecode k (elem w e y.a)) (fpDecode k (elem w e y.b)) (fpDecode k (elem w e y.d)))) }

/-- Rounding mode down (R53). -/
def isDown (rm : Nat) : Bool := rm == 3

def execFadd (d a b : BitVec 6) (m : BitVec 2) (s : State) : Result :=
  runLaneWord s .fpu (floatWord s.pfx d a b m false (fun rm x y _ => exactSum (isDown rm) [x.exact, y.exact]))
def execFsub (d a b : BitVec 6) (m : BitVec 2) (s : State) : Result :=
  runLaneWord s .fpu (floatWord s.pfx d a b m false (fun rm x y _ => exactSum (isDown rm) [x.exact, y.negate.exact]))
def execFmul (d a b : BitVec 6) (m : BitVec 2) (s : State) : Result :=
  runLaneWord s .fpu (floatWord s.pfx d a b m false (fun _ x y _ => fpMul x y))
def execFma (d a b : BitVec 6) (m : BitVec 2) (s : State) : Result :=
  runLaneWord s .fpu (floatWord s.pfx d a b m true (fun rm x y z => exactSum (isDown rm) [fpMul x y, z.exact]))
def execFnma (d a b : BitVec 6) (m : BitVec 2) (s : State) : Result :=
  runLaneWord s .fpu (floatWord s.pfx d a b m true (fun rm x y z => exactSum (isDown rm) [z.exact, fpMul x.negate y]))

/-- A word whose elements are chosen or changed as bits, with no rounding. -/
def floatBits (x : Pfx) (d a b : BitVec 6) (m : BitVec 2) (useB : Bool) (f : Nat → Nat → Nat → FpRes) : LaneWord :=
  let k := fmtOfM m
  let w := fmtBits k
  { d := some (opD x d), a := some (opA x a), b := if useB then some (opB x b) else none
    reads := fun _ => (0, 0xFF, if useB then 0xFF else 0)
    run := fun y => floatOut w (64 / w) 0 y.seed (fun e _ => f k (elem w e y.a) (elem w e y.b)) }

def execFmin (d a b : BitVec 6) (m : BitVec 2) (s : State) : Result := runLaneWord s .fpu (floatBits s.pfx d a b m true (fun k x y => fpMinMax k false x y))
def execFmax (d a b : BitVec 6) (m : BitVec 2) (s : State) : Result := runLaneWord s .fpu (floatBits s.pfx d a b m true (fun k x y => fpMinMax k true x y))
def execFabs (d a : BitVec 6) (m : BitVec 2) (s : State) : Result :=
  runLaneWord s .fpu (floatBits s.pfx d a 0 m false (fun k x _ => { bits := x % 2 ^ (fmtBits k - 1) }))
def execFneg (d a : BitVec 6) (m : BitVec 2) (s : State) : Result :=
  runLaneWord s .fpu (floatBits s.pfx d a 0 m false (fun k x _ => { bits := x ^^^ 2 ^ (fmtBits k - 1) }))

/-- The truth of a condition of `fcmp` and NV (R200). -/
def fcmpHolds (cond : Nat) (x y : FpVal) : Bool × Bool :=
  let un := x.isNaN || y.isNaN
  let sig := x.isSignalling || y.isSignalling
  match cond with
  | 0 => (fpEqual x y, sig)
  | 1 => (!fpEqual x y, sig)
  | 2 => (!un && fpLess x y, un)
  | 3 => (!un && !fpLess y x, un)
  | 4 => (!un && fpLess y x, un)
  | 5 => (!un && !fpLess x y, un)
  | 6 => (un, sig)
  | _ => (!un, sig)

/-- `fcmp` (R200): element 0 only. -/
def execFcmp (p cond : BitVec 3) (a b : BitVec 6) (m : BitVec 2) (s : State) : Result :=
  let x := s.pfx
  let k := fmtOfM m
  let w := fmtBits k
  let low := 2 ^ (w / 8) - 1
  runLaneWord s .fpu
    { a := some (opA x a), b := some (opB x b), reads := fun _ => (0, low, low)
      run := fun y =>
        let r := fcmpHolds cond.toNat (fpDecode k (elem w 0 y.a)) (fpDecode k (elem w 0 y.b))
        { p := some (p.toNat, r.1), flags := Flags.invalid r.2 } }

/-- The class mask of a datum's bits (R201). -/
def fpClass (k v : Nat) : Nat :=
  let neg := bit v (fmtBits k - 1)
  let sub := decide (fld v (fpFmt k).fbits (fpFmt k).ebits = 0)
  match fpDecode k v with
  | .nan sig => if sig then 256 else 512
  | .inf n => if n then 1 else 128
  | .fin _ m _ =>
    if m = 0 then (if neg then 8 else 16) else if sub then (if neg then 4 else 32) else if neg then 2 else 64

def execFclass (d a : BitVec 6) (m : BitVec 2) (s : State) : Result :=
  runLaneWord s .fpu (floatBits s.pfx d a 0 m false (fun k x _ => { bits := fpClass k x }))

/-- The bytes of the elements of a 64-bit value that a test picks. -/
def elemBytes (w : Nat) (p : Nat → Bool) : Nat :=
  ((List.range 8).filter (fun k => p (8 * k / w))).foldl (fun acc k => acc + 2 ^ k) 0

/-- `fsel` (R201): an element of a or b by the old element of d; only the chosen element is read. -/
def execFsel (d a b : BitVec 6) (m : BitVec 2) (s : State) : Result :=
  let x := s.pfx
  let w := fmtBits (fmtOfM m)
  runLaneWord s .fpu
    { d := some (opD x d), a := some (opA x a), b := some (opB x b)
      reads := fun y => (0xFF, elemBytes w (fun e => elem w e y.d != 0), elemBytes w (fun e => elem w e y.d == 0))
      run := fun y => { d := some (eachElem w (fun e => if elem w e y.d != 0 then elem w e y.a else elem w e y.b)) } }

/-- One element rounded to an integral value (R202). -/
def frndElem (k rm v : Nat) : FpRes :=
  match fpDecode k v with
  | .nan sig => { bits := fpNaN k, flags := Flags.invalid sig }
  | .inf _ => { bits := v }
  | .fin neg m e =>
    if m = 0 then { bits := v }
    else
      let (n, inexact) := roundAt rm neg m e false 0 0
      { bits := (roundTo k 0 false 0 (.num neg n 0 false)).bits, flags := { nx := inexact } }

def execFrnd (d a : BitVec 6) (m : BitVec 2) (s : State) : Result :=
  let rm := s.pfx.rm
  runLaneWord s .fpu (floatBits s.pfx d a 0 m false (fun k x _ => frndElem k rm x))

/-- `fcvt` (R203). -/
def execFcvt (d a : BitVec 6) (df sf : BitVec 4) (s : State) : Result :=
  let x := s.pfx
  let n := min (64 / fmtBits sf.toNat) (64 / fmtBits df.toNat)
  let used := (n * fmtBits sf.toNat + 7) / 8
  runLaneWord s .fpu
    { d := some (opD x d), a := some (opA x a), reads := fun _ => (0, 2 ^ used - 1, 0)
      run := fun y => floatOut (fmtBits df.toNat) n x.rm y.seed (fun e g =>
        convertElem df.toNat sf.toNat x.rm x.sat g (elem (fmtBits sf.toNat) e y.a)) }

/-- `fpack` (R204): the elements of a, then of b, in half the width. -/
def execFpack (d a b : BitVec 6) (s : State) : Result :=
  let x := s.pfx
  let df := orDefault x.dfmt 4
  let sf := orDefault x.sfmt 2
  let h := 64 / fmtBits sf
  runLaneWord s .fpu
    { d := some (opD x d), a := some (opA x a), b := some (opB x b), reads := fun _ => (0, 0xFF, 0xFF)
      run := fun y => floatOut (fmtBits df) (2 * h) x.rm y.seed (fun e g =>
        convertElem df sf x.rm x.sat g (if e < h then elem (fmtBits sf) e y.a else elem (fmtBits sf) (e - h) y.b)) }

/-- `funpack` (R204): one half of a in the full width. -/
def execFunpack (d a : BitVec 6) (half : BitVec 1) (s : State) : Result :=
  let x := s.pfx
  let df := orDefault x.dfmt 2
  let sf := orDefault x.sfmt 4
  let h := 64 / fmtBits df
  runLaneWord s .fpu
    { d := some (opD x d), a := some (opA x a), reads := fun _ => (0, if half = 0 then 0x0F else 0xF0, 0)
      run := fun y => floatOut (fmtBits df) h 0 y.seed (fun e _ =>
        convertElem df sf 0 false 0 (elem (fmtBits sf) (half.toNat * h + e) y.a)) }

/-- A finite value times 2^k. A power beyond any format's range rounds as one at 2^20000 does. -/
def scaleExact (x : FpVal) (k : Int) : Exact :=
  match x with
  | .fin n m e => if m = 0 then .zero n else .num n m (e + max (-20000) (min 20000 k)) false
  | y => y.exact

/-- `fscale` (R197): k is an element of b as a signed integer. -/
def execFscale (d a b : BitVec 6) (m : BitVec 2) (s : State) : Result :=
  let x := s.pfx
  let k := fmtOfM m
  let w := fmtBits k
  runLaneWord s .fpu
    { d := some (opD x d), a := some (opA x a), b := some (opB x b), reads := fun _ => (0, 0xFF, 0xFF)
      run := fun y => floatOut w (64 / w) x.rm y.seed (fun e g =>
        roundTo k x.rm x.sat g (scaleExact (fpDecode k (elem w e y.a)) (toSigned w (elem w e y.b)))) }

/-- One element's exponent (R198). -/
def fexpElem (k v : Nat) : FpRes :=
  match fpDecode k v with
  | .nan sig => { bits := fpNaN k, flags := Flags.invalid sig }
  | .inf _ => { bits := fpInfBits k }
  | .fin _ m e =>
    if m = 0 then { bits := fpSign k true + fpInfBits k, flags := { dz := true } }
    else
      let p : Int := e + (Nat.log2 m : Nat)
      roundTo k 0 false 0 (.num (decide (p < 0)) p.natAbs 0 false)

def execFexp (d a : BitVec 6) (m : BitVec 2) (s : State) : Result :=
  runLaneWord s .fpu (floatBits s.pfx d a 0 m false (fun k x _ => fexpElem k x))

/-- The word of a dot product: n products of format k and the accumulator of format r, rounded once (R198, R94). -/
def dotWord (x : Pfx) (d a b : BitVec 6) (k r n : Nat) : LaneWord :=
  let w := fmtBits k
  let v := fmtBits r
  { d := some (opD x d), a := some (opA x a), b := some (opB x b), reads := fun _ => (0xFF, 0xFF, 0xFF)
    run := fun y => floatOut v (64 / v) x.rm y.seed (fun i g =>
      let terms := (List.range n).map (fun t => fpMul (fpDecode k (elem w (n * i + t) y.a)) (fpDecode k (elem w (n * i + t) y.b)))
      roundTo r x.rm x.sat g (exactSum (isDown x.rm) ((fpDecode r (elem v i y.d)).exact :: terms))) }

def execFdot2 (d a b : BitVec 6) (m : BitVec 2) (s : State) : Result :=
  runLaneWord s .fpu (dotWord s.pfx d a b (fmtOfM m) (if m = 1 then 1 else 2) 2)

def execFdot4 (d a b : BitVec 6) (m : BitVec 2) (s : State) : Result :=
  runLaneWord s .fpu (if m.toNat ≤ 1 then dotWord s.pfx d a b (m.toNat + 5) 2 4 else dotWord s.pfx d a b (fmtOfM m) 1 4)

end Sys2Proof.Machine
end

