-- ==== Sys2Proof/Machine/Lanes.lean ====
section
/-! DEFINITION. The special-function unit and the words that combine values across a crew (spec/07 R205-R213, spec/03 R95, R102). -/
namespace Sys2Proof.Machine

/-! ### The SFU (R205-R209) -/

/-- Whether a flight is an entry of the SFU queue. -/
def Flight.isSfu (f : Flight) : Bool := match f.kind with | .sfu _ _ _ _ _ => true | _ => false

/-- A handler's SFU word waits until every entry of the interrupted crew that was pending at the trap has landed (R209): what the
members left in the crew enqueue later does not hold it. -/
def State.sfuDrained (s : State) (t : Thread) : Bool :=
  match t.trap with
  | some x => !s.flights.any (fun f => f.isSfu && decide (f.id < x.mark) && some f.crew == x.crew)
  | none => true

/-- Entries that the SFU queue of a slice holds (R208). -/
def sfuEntries : Nat := 32

/-- The entries in the SFU queue of a thread's slice. -/
def State.sfuQueued (s : State) (t : Thread) : Nat :=
  (s.flights.filter (fun f => f.isSfu && f.tids.any (fun u => match s.thread? u with
    | some x => x.slice == t.slice && s.placeOf x == s.placeOf t
    | none => false))).length

/-- Room in the SFU queue of a thread's slice for the n entries of a word (R208, R209): a word of more than the queue holds begins
when it is empty (log 23). -/
def State.sfuRoom (s : State) (t : Thread) (n : Nat) : Verdict := .await (decide (s.sfuQueued t + min n sfuEntries ≤ sfuEntries))

/-- An SFU word as the steps of its block see it: each has the results of the steps before it (R49, R205). -/
def sfuLane (op : Nat) (od oa : Operand) (single : Bool) : LaneWord :=
  { d := some od, a := some oa, reads := fun _ => (if op = 3 then 0xFF else 0, 0xFF, 0)
    run := fun x => { d := some (sfuResult op single x.a x.d).1.toNat } }

/-- One entry of an SFU word: the thread's operands at a step enter the queue; `now`: they have landed before the word's last beat. -/
def State.sfuEnqueue (s : State) (i : IssueCtx) (op : Nat) (od oa : Operand) (la sb : Nat) (single now : Bool) (ij : Nat × Nat) (t : Thread) : State :=
  let l := ((blockSteps i.pfx).takeWhile (· != ij)).foldl (sfuLane op od oa single).step { t, q := i.beforeQ }
  let x := BitVec.ofNat 64 (l.get (some oa) ij.1 ij.2)
  let y := BitVec.ofNat 64 (l.get (some od) ij.1 ij.2)
  let dst : Dst := .win (od.off t ij.1 ij.2)
  if now then
    let r := sfuResult op single x.toNat y.toNat
    (s.land64 t.id dst r.1).setFlagsLate t.id t.trap.isSome r.2
  else s.launchFlight i [t.id] la (some sb) .sfu (.sfu op single x y dst)

/-- The beats of an SFU word: step by step, in each step participant by participant (R208), numbered. -/
def sfuBeats (x : Pfx) (ps : List Thread) : List (((Nat × Nat) × Thread) × Nat) :=
  ((blockSteps x).flatMap (fun ij => ps.map (fun t => (ij, t)))).zipIdx

/-- An SFU word (R205): operation 0-8 as `sfuResult` codes it; one entry per participant and step of a block, each counted by the
slot (R49). It waits for room in its slice's queue; of more entries than the queue holds the first land while it issues (log 23). -/
def sfuWord (op : Nat) (d a : BitVec 6) (la : BitVec 4) (sb : BitVec 3) (m : BitVec 1) (s : State) : Result :=
  let x := s.pfx
  let od := opD x d
  let oa := opA x a
  issueWord s .sfu
    (fun i t =>
      let n := (blockSteps i.pfx).length
      (((s.slotVerdict t.id sb.toNat (min n 63)).andThen (s.sfuRoom t (n * i.parts.length))).andThen
        (.await (s.sfuDrained t))).andThen ((sfuLane op od oa (m == 1)).verdict i.pfx i.beforeQ t))
    (fun i ps s =>
      let beats := sfuBeats i.pfx ps
      beats.foldl (fun s b =>
        s.sfuEnqueue i op od oa la.toNat sb.toNat (m == 1) (decide (b.2 + sfuEntries < beats.length)) b.1.1 b.1.2) s)

def execRcp (d a : BitVec 6) (la : BitVec 4) (sb : BitVec 3) (m : BitVec 1) (s : State) : Result := sfuWord 0 d a la sb m s
def execRsq (d a : BitVec 6) (la : BitVec 4) (sb : BitVec 3) (m : BitVec 1) (s : State) : Result := sfuWord 1 d a la sb m s
def execSqrt (d a : BitVec 6) (la : BitVec 4) (sb : BitVec 3) (m : BitVec 1) (s : State) : Result := sfuWord 2 d a la sb m s
def execDiv (d a : BitVec 6) (la : BitVec 4) (sb : BitVec 3) (m : BitVec 1) (s : State) : Result := sfuWord 3 d a la sb m s
def execExp2 (d a : BitVec 6) (la : BitVec 4) (sb : BitVec 3) (m : BitVec 1) (s : State) : Result := sfuWord 4 d a la sb m s
def execLog2 (d a : BitVec 6) (la : BitVec 4) (sb : BitVec 3) (m : BitVec 1) (s : State) : Result := sfuWord 5 d a la sb m s
def execSin (d a : BitVec 6) (la : BitVec 4) (sb : BitVec 3) (m : BitVec 1) (s : State) : Result := sfuWord 6 d a la sb m s
def execCos (d a : BitVec 6) (la : BitVec 4) (sb : BitVec 3) (m : BitVec 1) (s : State) : Result := sfuWord 7 d a la sb m s
def execTanh (d a : BitVec 6) (la : BitVec 4) (sb : BitVec 3) (m : BitVec 1) (s : State) : Result := sfuWord 8 d a la sb m s

/-- Whether an entry is the next of its thread and of its crew (R208). -/
def State.sfuNext (s : State) (f : Flight) : Bool :=
  !s.flights.any (fun g => g.isSfu && decide (g.id < f.id) && (g.tids == f.tids || g.crew == f.crew))

/-- SFU_RESULT_LAND (R208): the result lands, the slot falls, the flags are set in the context of issue. -/
def execSfuResultLand (fid : Nat) (s : State) : Result :=
  match s.flight? fid with
  | none => notNow "SFU_RESULT_LAND"
  | some f => match f.kind, f.tids with
    | .sfu op single x y dst, t :: _ =>
      if !s.sfuNext f then notNow "SFU_RESULT_LAND"
      else
        let r := sfuResult op single x.toNat y.toNat
        .next (((s.land64 t dst r.1).setFlagsLate t f.trapCtx r.2).completeFlight f)
    | _, _ => notNow "SFU_RESULT_LAND"

/-! ### Across the crew (R210-R213) -/

/-- A word across a crew: its operands, the bytes of each participant's d, a and b that the effect in some participant depends on, and what
a step makes of the participants' inputs, in compacted order with their slots. DEDUCED (log 31): a poisoned byte raises REG_POISON in the
thread whose window it is in. -/
structure CrossWord where
  d : Operand
  a : Operand
  b : Option Operand := none
  reads : List (Nat × LaneIn) → List (Nat × Nat × Nat)
  run : List (Nat × LaneIn) → List LaneOut

/-- One step of a block over all participants: all reads before all writes. -/
def CrossWord.step (w : CrossWord) (ls : List (Nat × LaneState)) (ij : Nat × Nat) : List (Nat × LaneState) :=
  let ins := ls.map (fun x => (x.1, ({ d := x.2.get (some w.d) ij.1 ij.2, a := x.2.get (some w.a) ij.1 ij.2, b := x.2.get w.b ij.1 ij.2
                                       preds := x.2.t.ctx.preds, icarry := x.2.t.icarry, seed := x.2.t.ctx.srseed } : LaneIn)))
  let outs := (w.reads ins).zip (w.run ins)
  List.zipWith (fun (x : Nat × LaneState) (z : (Nat × Nat × Nat) × LaneOut) =>
    let l := x.2
    let y := z.2
    let l := ((l.meets (some w.d) z.1.1 ij.1 ij.2).meets (some w.a) z.1.2.1 ij.1 ij.2).meets w.b z.1.2.2 ij.1 ij.2
    let l := { l with flags := l.flags.or y.flags }
    (x.1, match y.d with
      | some v => (dWrites w.d (w.d.off l.t ij.1 ij.2) v y.dMask).foldl LaneState.put l
      | none => l)) ls outs

/-- All steps of a word, the participants with their slots. -/
def CrossWord.go (w : CrossWord) (s : State) (i : IssueCtx) : List (Nat × LaneState) :=
  let slot := fun (t : Thread) => match s.crew? i.crew with
    | some c => match c.members.find? (fun m => m.tid == t.id) with | some m => m.slot | none => 0
    | none => 0
  (blockSteps i.pfx).foldl w.step (i.parts.map (fun t => (slot t, ({ t, q := i.beforeQ } : LaneState))))

/-- Every participant reads the same bytes. -/
def CrossWord.alike (m : Nat × Nat × Nat) (ins : List (Nat × LaneIn)) : List (Nat × Nat × Nat) := ins.map (fun _ => m)

/-- The checks of a word across the crew in one participant; a uniform word's are those of the first member (R108), whose cause every
active member takes (DESIGN CHOICE, log 31). -/
def CrossWord.verdict (w : CrossWord) (s : State) (i : IssueCtx) (t : Thread) : Verdict :=
  let u := if w.d.isQ then i.parts.head?.getD t else t
  let rs := namedRanges u ([w.d, w.a] ++ w.b.toList) (blockSteps i.pfx)
  ((pendingVerdict u rs).andThen (rangeVerdict u rs)).andThen
    (match (w.go s i).find? (fun l => l.2.t.id == u.id) with
      | some l => l.2.verdict
      | none => .pass)

/-- A word across the crew: every participant's changes are made, a `q` destination once (R108). -/
def runCross (s : State) (pipe : Pipe) (w : CrossWord) : Result :=
  issueWord s pipe (fun i t => w.verdict s i t)
    (fun i _ s =>
      let ls := w.go s i
      let s := match ls with
        | l :: _ => if w.d.isQ then s.modCrew i.crew (fun c => { c with q := l.2.writes.foldl QCopy.replay c.q }) else s
        | [] => s
      ls.foldl (fun s l => match i.src l.2.t.id with
        | some t => s.modThread t.id (fun live => live.applyLane t l.2)
        | none => s) s)

/-- The participant whose a a participant of `shfl` receives: its source slot's, or itself. -/
def shflSource (m : Nat) (ins : List (Nat × LaneIn)) (t : Nat × LaneIn) : Nat × LaneIn :=
  let c := fld t.2.b 0 8
  let src : Option Nat := match m with
    | 0 => some c
    | 1 => some (t.1 ^^^ c)
    | 2 => if c ≤ t.1 then some (t.1 - c) else none
    | _ => some (t.1 + c)
  (ins.find? (fun u => some u.1 == src)).getD t

/-- `shfl` (R210). -/
def execShfl (d a b : BitVec 6) (m : BitVec 2) (s : State) : Result :=
  let x := s.pfx
  runCross s .alu
    { d := opD x d, a := opA x a, b := some (opB x b)
      reads := fun ins => ins.map (fun u => (0, if ins.any (fun t => (shflSource m.toNat ins t).1 == u.1) then 0xFF else 0, 1))
      run := fun ins => ins.map (fun t => { d := some (shflSource m.toNat ins t).2.a }) }

/-- The participant whose a `bcast` gives to all. -/
def bcastSource (m : BitVec 2) (ins : List (Nat × LaneIn)) : Option (Nat × LaneIn) := if m = 0 then ins.head? else ins.getLast?

/-- `bcast` (R211). -/
def execBcast (d a : BitVec 6) (m : BitVec 2) (s : State) : Result :=
  let x := s.pfx
  runCross s .alu
    { d := opD x d, a := opA x a
      reads := fun ins => ins.map (fun u => (0, if (bcastSource m ins).any (fun t => t.1 == u.1) then 0xFF else 0, 0))
      run := fun ins => ins.map (fun _ => { d := some (match bcastSource m ins with | some t => t.2.a | none => 0) }) }

/-- The combination of two elements: `.add`, `.min` or `.max`, rounded (R95, R199). -/
def combineElem (op k rm : Nat) (x y : Nat) : FpRes :=
  match op with
  | 0 => roundTo k rm false 0 (exactSum (isDown rm) [(fpDecode k x).exact, (fpDecode k y).exact])
  | 1 => fpMinMax k false x y
  | _ => fpMinMax k true x y

/-- One level of the tree of R95. -/
def pairLevel (f : Nat → Nat → FpRes) : List Nat → List Nat × Flags
  | x :: y :: rest =>
    let r := f x y
    let t := pairLevel f rest
    (r.bits :: t.1, r.flags.or t.2)
  | l => (l, {})

/-- The tree of R95 on at most 2^n values. -/
def reduceTree (f : Nat → Nat → FpRes) : Nat → List Nat → List Nat × Flags
  | 0, l => (l, {})
  | n + 1, l =>
    if l.length ≤ 1 then (l, {})
    else
      let r := pairLevel f l
      let t := reduceTree f n r.1
      (t.1, r.2.or t.2)

/-- A single value: itself, a NaN made canonical (R73, R95). -/
def singleValue (k v : Nat) : FpRes :=
  match fpDecode k v with
  | .nan sig => { bits := fpNaN k, flags := Flags.invalid sig }
  | _ => { bits := v }

/-- The reduction of a list of elements (R95). -/
def reduceElems (op k rm : Nat) (vs : List Nat) : FpRes :=
  match vs with
  | [v] => singleValue k v
  | _ =>
    let r := reduceTree (combineElem op k rm) 6 vs
    { bits := r.1.headD 0, flags := r.2 }

/-- A reduction of packed values, each element position by itself (R212). -/
def reducePacked (k : Nat) (f : Nat → List Nat → FpRes) (vs : List Nat) : LaneOut :=
  let w := fmtBits k
  let rs := (List.range (64 / w)).map (fun e => f e (vs.map (elem w e)))
  { d := some (pack w (rs.map (·.bits))), flags := rs.foldl (fun acc r => acc.or r.flags) {} }

/-- `cred` (R212). -/
def execCred (d a : BitVec 6) (m : BitVec 2) (s : State) : Result :=
  let x := s.pfx
  let k := orDefault x.dfmt 1
  runCross s .fpu
    { d := opD x d, a := opA x a, reads := CrossWord.alike (0, 0xFF, 0)
      run := fun ins =>
        let r := reducePacked k (fun _ => reduceElems m.toNat k x.rm) (ins.map (·.2.a))
        ins.map (fun _ => r) }

/-- `mred` (R212): over the participants of equal key. -/
def execMred (d a b : BitVec 6) (m : BitVec 2) (s : State) : Result :=
  let x := s.pfx
  let k := orDefault x.dfmt 1
  runCross s .fpu
    { d := opD x d, a := opA x a, b := some (opB x b), reads := CrossWord.alike (0, 0xFF, 0xFF)
      run := fun ins => ins.map (fun t =>
        reducePacked k (fun _ => reduceElems m.toNat k x.rm) ((ins.filter (fun u => u.2.b == t.2.b)).map (·.2.a))) }

/-- Element n of a list taken out. -/
def takeAt (n : Nat) (l : List Nat) : Nat × List Nat := (l.getD n 0, l.take n ++ l.drop (n + 1))

/-- Some tree of rounded pairwise combinations (R102): which two combine next is free, drawn with a counter (log 6). -/
def scanTree (f : Nat → Nat → FpRes) : Nat → Nat → List Nat → List Nat × Flags
  | 0, _, l => (l, {})
  | n + 1, key, l =>
    match l with
    | x :: y :: rest =>
      if rest.isEmpty then ([(f x y).bits], (f x y).flags)
      else
        let c := Config.scanPair key
        let (u, l) := takeAt (c.1 % l.length) l
        let (v, l) := takeAt (c.2 % l.length) l
        let r := f u v
        let t := scanTree f n (key + 1) (r.bits :: l)
        (t.1, r.flags.or t.2)
    | l => (l, {})

/-- The prefix of values that a participant receives (R213). -/
def scanElems (op k rm key : Nat) (vs : List Nat) : FpRes :=
  match vs with
  | [] => { bits := 0 }
  | [v] => singleValue k v
  | _ =>
    let r := scanTree (combineElem op k rm) 32 key vs
    { bits := r.1.headD 0, flags := r.2 }

/-- `mscan` (R213): the prefix of each participant; the trees are free (R102). -/
def execMscan (d a : BitVec 6) (m : BitVec 2) (s : State) : Result :=
  let x := s.pfx
  let k := orDefault x.dfmt 1
  let op := match m.toNat with | 0 | 1 => 0 | n => n - 1
  let key := fun (n e : Nat) (vs : List Nat) => (((pack 64 vs * 8 + e) * 32 + n) * 2 ^ 64 + s.ctl.fresh) * 64
  match runCross s .fpu
    { d := opD x d, a := opA x a
      -- no prefix depends on the last participant's value where it is left out
      reads := fun ins => (List.range ins.length).map (fun n => (0, if m = 1 ∧ n + 1 = ins.length then 0 else 0xFF, 0))
      run := fun ins => (List.range ins.length).map (fun n =>
        let vs := (ins.take (if m = 1 then n else n + 1)).map (·.2.a)
        reducePacked k (fun e es => scanElems op k x.rm (key n e vs) es) vs) } with
  | .next s => .next (s.modCtl (fun c => { c with fresh := c.fresh + 1 }))
  | r => r

end Sys2Proof.Machine
end

