-- ==== Sys2Proof/Machine/ScratchWords.lean ====
section
/-! DEFINITION. The scratchpad words (spec/08 R226, R228-R234, R237, R240-R244). -/
namespace Sys2Proof.Machine

/-- A word's access to a scratchpad in a thread: level as R242 codes it, offset, the register value that VAL shows. -/
structure ScrTarget where
  level : Nat
  off : Nat
  val : Nat
  deriving DecidableEq, Repr

/-- What a scratchpad word is: the operation, its registers, how many bytes, how its address is read. -/
structure ScrWord where
  op : MemOp
  d : Operand
  a : Operand
  size : Nat
  dfmt : Nat
  noReturn : Bool := false
  /-- A level of its own, or the level in a[33:32] (R242). -/
  level : Option Nat
  la : Nat
  sb : Nat

/-- Where the word's access goes in a thread (R241, R242). -/
def ScrWord.target (w : ScrWord) (i : IssueCtx) (t : Thread) : ScrTarget :=
  let v := (w.a.val t i.beforeQ).toNat
  match w.level with
  | some l => { level := l, off := fld v 0 32, val := fld v 0 32 }
  | none =>
    let l := fld v 32 2
    { level := l, off := fld v 0 32, val := fld v 0 34 }

/-- The bytes of operands that the word reads in a thread: its address, and the data or operands of a write. -/
def ScrWord.reads (w : ScrWord) : List (Operand × Nat) :=
  let data := match w.op with
    | .store => [(w.d, w.size)]
    | .atom .cas => [(w.d, w.size), ({ w.d with reg := w.d.reg + 1, count := 1 }, w.size)]
    | .atom _ => [(w.d, w.size)]
    | _ => []
  (w.a, if w.level.isSome then 4 else 5) :: data

/-- R226 and R225, in this order; level 3 of R242 is no level. -/
def State.scrVerdict (s : State) (t : Thread) (x : ScrTarget) (size : Nat) (own : Bool) : Verdict :=
  (Verdict.require (x.off % size == 0) Cause.misaligned x.val).andThen
    (.require ((own || x.level != 3) && decide (x.off + size ≤ (s.scr x.level (s.scrOwner t x.level)).size)) Cause.scratchRange x.val)

/-- The participants that access: all, or the first alone for a uniform load (R108, R241). -/
def ScrWord.accessors (w : ScrWord) (ps : List Thread) : List Thread :=
  if w.d.isQ then ps.take 1 else ps

/-- The lines with presence bits that a word's accesses touch (R234). -/
def ScrWord.lines (w : ScrWord) (s : State) (i : IssueCtx) (ps : List Thread) : List ScrLine :=
  (w.accessors ps).flatMap (fun t =>
    let x := w.target i t
    if x.level = 3 then [] else (linesOf x.off w.size).map (fun l => ⟨x.level, s.scrOwner t x.level, l⟩))

/-- A crew parked until the lines that its word touches are all present (R234, R114): it leaves the active set. -/
def State.park (s : State) (crew : Nat) (lines : List ScrLine) : State :=
  (s.modCrew crew (fun c => { c with parked := lines, lane := none })).modIssue (fun i => { i with status := .parked })

/-! ### Passes of the core scratchpad (R228, R230, R231) -/

/-- The bank of a word under a key (R228). -/
def bankOf (key w : Nat) : Nat := fld w 0 5 ^^^ (fld key 0 5 &&& fld w 5 5) ^^^ (fld key 5 5 &&& fld w 10 5)

/-- The passes of one group: the most distinct words wanted from one bank; operations count separately for `atoms`. -/
def groupPasses (key : Nat) (merge : Bool) (ws : List Nat) : Nat :=
  let ws := if merge then dedup ws else ws
  (List.range 32).foldl (fun acc b => max acc (ws.filter (fun w => bankOf key w == b)).length) 0

/-- A list cut into groups of n. -/
def chunksOf (n : Nat) : Nat → List Nat → List (List Nat)
  | 0, _ => []
  | k + 1, l => if l.isEmpty then [] else l.take n :: chunksOf n k (l.drop n)

/-- The passes of an instruction, from its participants' offsets (R230). -/
def passesOf (key size : Nat) (merge : Bool) (offs : List Nat) : Nat :=
  let per := if size ≤ 4 then 32 else if size = 8 then 16 else 8
  let words := fun off => (List.range (max 1 (size / 4))).map (· + off / 4)
  (chunksOf per 32 offs).foldl (fun acc g => acc + groupPasses key merge (g.flatMap words)) 0

/-- The passes of a word in the core scratchpad, from the participants that access it (R230). DESIGN CHOICE (log 31): where the participants
of a word name different levels, the groups are formed of those at level 0 alone. -/
def ScrWord.passes (w : ScrWord) (s : State) (i : IssueCtx) (ps : List Thread) : Nat :=
  let offs := (((w.accessors ps).map (w.target i)).filter (fun x => x.level == 0)).map (·.off)
  match ps.head?.bind (fun t => s.team? t.team) with
  | some m => passesOf m.hkey w.size (match w.op with | .atom _ => false | _ => true) offs
  | none => 0

/-! ### The word -/

/-- The access record of a thread. -/
def ScrWord.access (w : ScrWord) (i : IssueCtx) (passes : Nat) (t : Thread) : ScrAcc :=
  let x := w.target i t
  let data := match w.op with
    | .store => (w.d.bytes t i.beforeQ).take w.size
    | .atom .cas => (w.d.bytes t i.beforeQ).take w.size ++ (({ w.d with reg := w.d.reg + 1, count := 1 } : Operand).bytes t i.beforeQ).take w.size
    | .atom _ => (w.d.bytes t i.beforeQ).take w.size
    | _ => []
  { op := w.op, level := x.level, off := x.off, size := w.size, dfmt := w.dfmt
    dst := match w.op with | .store => .none | _ => if w.noReturn then .none else w.d.dst i t
    data, noReturn := w.noReturn, passes }

/-- A scratchpad word at issue (R234, R240-R242): operands, R226, R225 in every participant; then absent lines park the crew; then
poison; then one word in flight per access. -/
def scratchWord (w : ScrWord) (s : State) : Result :=
  let own := w.level == some 3
  let pre := fun (i : IssueCtx) (t : Thread) =>
    ((s.slotVerdict t.id w.sb 1).andThen (partialVerdict i.beforeQ t [w.d, w.a] w.reads)).andThen
      (s.scrVerdict t (w.target i t) w.size own)
  let poison := fun (i : IssueCtx) (t : Thread) =>
    let x := w.target i t
    if w.op == .store then Verdict.pass
    else .require (!(s.scr x.level (s.scrOwner t x.level)).bad x.off w.size) Cause.scratchPoison x.val
  match s.ctl.issue with
  | none => .next s
  | some i =>
    let passes := w.passes s i i.parts
    let lines := w.lines s i i.parts
    let sound := (w.accessors i.parts).all (fun t => pre i t == .pass)
    if !i.checked && sound && lines.any s.lineAbsent then .next (s.park i.crew lines)
    else
      issueWord s .lsu (fun i t =>
          if !(w.accessors i.parts).any (fun u => u.id == t.id) then s.slotVerdict t.id w.sb 1
          else (pre i t).andThen (if sound then poison i t else .pass))
        (fun i ps s => (w.accessors ps).foldl (fun s t =>
          s.launchFlight i (if w.d.isQ then ps.map (·.id) else [t.id]) w.la (some w.sb) .lsu (.scr (w.access i passes t))) s)

/-- A load or store of a level (R241). -/
def scrMove (s : State) (op : MemOp) (level : Nat) (d a : BitVec 6) (la : BitVec 4) (sb : BitVec 3) (m : BitVec 1) : Result :=
  let x := s.pfx
  scratchWord { op, level := some level, d := .run d (if m = 1 then 2 else 1) x.ud, a := .vv a x.ua
                size := if m = 1 then 16 else accBytes x.dfmt, dfmt := x.dfmt, la := la.toNat, sb := sb.toNat } s

def execLdl (d a : BitVec 6) (la : BitVec 4) (sb : BitVec 3) (m : BitVec 1) (s : State) : Result := scrMove s .load 3 d a la sb m
def execStl (d a : BitVec 6) (la : BitVec 4) (sb : BitVec 3) (m : BitVec 1) (s : State) : Result := scrMove s .store 3 d a la sb m
def execLds (d a : BitVec 6) (la : BitVec 4) (sb : BitVec 3) (m : BitVec 1) (s : State) : Result := scrMove s .load 0 d a la sb m
def execSts (d a : BitVec 6) (la : BitVec 4) (sb : BitVec 3) (m : BitVec 1) (s : State) : Result := scrMove s .store 0 d a la sb m
def execLdc (d a : BitVec 6) (la : BitVec 4) (sb : BitVec 3) (m : BitVec 1) (s : State) : Result := scrMove s .load 1 d a la sb m
def execStc (d a : BitVec 6) (la : BitVec 4) (sb : BitVec 3) (m : BitVec 1) (s : State) : Result := scrMove s .store 1 d a la sb m
def execLdk (d a : BitVec 6) (la : BitVec 4) (sb : BitVec 3) (m : BitVec 1) (s : State) : Result := scrMove s .load 2 d a la sb m
def execStk (d a : BitVec 6) (la : BitVec 4) (sb : BitVec 3) (m : BitVec 1) (s : State) : Result := scrMove s .store 2 d a la sb m

/-- An `atoms` word (R242). -/
def scrAtomic (s : State) (op : AtomOp) (d a : BitVec 6) (la : BitVec 4) (sb : BitVec 3) (m : BitVec 1) : Result :=
  let x := s.pfx
  scratchWord { op := .atom op, level := none, d := .run d (if op == .cas then 2 else 1), a := .vv a x.ua, noReturn := m == 1
                size := accBytes x.dfmt, dfmt := x.dfmt, la := la.toNat, sb := sb.toNat } s

def execAtomsAdd (d a : BitVec 6) (la : BitVec 4) (sb : BitVec 3) (m : BitVec 1) (s : State) : Result := scrAtomic s .add d a la sb m
def execAtomsMin (d a : BitVec 6) (la : BitVec 4) (sb : BitVec 3) (m : BitVec 1) (s : State) : Result := scrAtomic s .min d a la sb m
def execAtomsMax (d a : BitVec 6) (la : BitVec 4) (sb : BitVec 3) (m : BitVec 1) (s : State) : Result := scrAtomic s .max d a la sb m
def execAtomsAnd (d a : BitVec 6) (la : BitVec 4) (sb : BitVec 3) (m : BitVec 1) (s : State) : Result := scrAtomic s .and d a la sb m
def execAtomsOr (d a : BitVec 6) (la : BitVec 4) (sb : BitVec 3) (m : BitVec 1) (s : State) : Result := scrAtomic s .or d a la sb m
def execAtomsXor (d a : BitVec 6) (la : BitVec 4) (sb : BitVec 3) (m : BitVec 1) (s : State) : Result := scrAtomic s .xor d a la sb m
def execAtomsXchg (d a : BitVec 6) (la : BitVec 4) (sb : BitVec 3) (m : BitVec 1) (s : State) : Result := scrAtomic s .xchg d a la sb m
def execAtomsCas (d a : BitVec 6) (la : BitVec 4) (sb : BitVec 3) (m : BitVec 1) (s : State) : Result := scrAtomic s .cas d a la sb m

/-- `spres` (R243). -/
def execSpres (set : BitVec 1) (a : BitVec 6) (count : BitVec 8) (s : State) : Result :=
  let o : Operand := .vv a s.pfx.ua
  let n := count.toNat + 1
  let target := fun (i : IssueCtx) (t : Thread) =>
    let v := (o.val t i.beforeQ).toNat
    ({ level := fld v 32 2, off := fld v 0 32, val := fld v 0 34 } : ScrTarget)
  issueWord s .lsu
    (fun i t =>
      let x := target i t
      (((if set = 1 then s.waitFor t.id Flight.isScrWrite else .pass).andThen (partialVerdict i.beforeQ t [o] [(o, 5)])).andThen
        (.require (x.off % 128 == 0) Cause.misaligned x.val)).andThen
        (.require (x.level != 3 && decide (x.off + 128 * n ≤ (s.scr x.level (s.scrOwner t x.level)).size)) Cause.scratchRange x.val))
    (fun i ps s => ps.foldl (fun s t =>
      let x := target i t
      s.setPresence x.level (s.scrOwner t x.level) ((List.range n).map (· + x.off / 128)) (set == 1)) s)

/-- `swf` (R244): waits for the thread's scratchpad writes, then the team's generation in the operand cache advances. -/
def execSwf (s : State) : Result :=
  issueWord s .lsu (fun _ t => s.waitFor t.id Flight.isScrWrite)
    (fun _ ps s => match ps with
      | t :: _ => s.modTeam t.team (fun m => { m with opgen := m.opgen + 1 })
      | [] => s)

end Sys2Proof.Machine
end

