-- ==== Sys2Proof/Machine/MemWords.lean ====
section
/-! DEFINITION. The words of virtual memory: loads, stores, prefetches, atomics, reductions, moment words, `hrel`, `ldv` and the
cache operations (spec/09 R245, R268-R275; spec/12 R334, R337; spec/15 R411, R412). -/
namespace Sys2Proof.Machine

/-- What a memory word is: the operation, its registers, its bytes, what of d it reads, how its address is checked. -/
structure MemWord where
  op : MemOp
  d : Option Operand
  a : Operand
  size : Nat
  /-- Bytes checked under R245. -/
  span : Nat
  align : Nat
  dfmt : Nat := 0
  vol : Bool := false
  noReturn : Bool := false
  /-- Bytes of d (and, for `cas`, of the register after it) that are read. -/
  dRead : Nat := 0
  la : Nat := 0
  sb : Option Nat
  pipe : Pipe := .lsu

/-- The address in a thread. -/
def MemWord.va (w : MemWord) (i : IssueCtx) (t : Thread) : Nat := (w.a.val t i.beforeQ).toNat

/-- Whether d names a `q` register: the word is uniform. -/
def MemWord.uniform (w : MemWord) : Bool := match w.d with | some o => o.isQ | none => false

/-- The registers whose first bytes are read, in order. -/
def MemWord.sources (w : MemWord) : List Operand :=
  match w.d, w.op with
  | some o, .atom .cas => [{ o with count := 1 }, { o with reg := o.reg + 1, count := 1 }]
  | some o, _ => if w.dRead = 0 then [] else [o]
  | none, _ => []

/-- The participants that access: all, or the first alone for a uniform word (R108, R269). -/
def MemWord.accessors (w : MemWord) (ps : List Thread) : List Thread := if w.uniform then ps.take 1 else ps

/-- The version that a word asks for (R52, R334). -/
def verOf (i : IssueCtx) : VerSel :=
  let x := i.pfx
  if x.verMode = 1 then { byVersion := true, sel := fld (i.beforeQ.get x.verSel).toNat 0 24, old := x.verOld, pred := x.verP }
  else { sel := x.verSel, old := x.verOld, pred := x.verP }

/-- The poison check of the `q` register that MODE 1 of `ver` reads (R181, R334). -/
def verPoison (i : IssueCtx) (t : Thread) : Verdict :=
  if i.pfx.verMode = 1 then poisonVerdict t i.beforeQ [] [(8 * i.pfx.verSel, 3)] else .pass

/-- R245 and MISALIGNED (R268). -/
def addressVerdict (va span align : Nat) : Verdict :=
  (Verdict.require (inRange va span) Cause.addrRange va).andThen (.require (va % align == 0) Cause.misaligned va)

/-- The checks of a memory word in a participant that accesses (R268). -/
def MemWord.verdict (w : MemWord) (i : IssueCtx) (t : Thread) : Verdict :=
  ((partialVerdict i.beforeQ t (w.a :: w.d.toList) ((w.a, 8) :: w.sources.map (fun o => (o, w.dRead)))).andThen (verPoison i t)).andThen
    (addressVerdict (w.va i t) w.span w.align)

/-- The access record of a thread. -/
def MemWord.access (w : MemWord) (s : State) (i : IssueCtx) (t : Thread) : MemAcc :=
  { op := w.op, place := s.placeOf t, asid := s.asidOf t, va := w.va i t, size := w.size, dfmt := w.dfmt, vol := w.vol, ver := verOf i
    dst := match w.op, w.d with
      | .load, some o | .ldv, some o | .hrel, some o | .momRes _, some o => o.dst i t
      | .atom _, some o => if w.noReturn then .none else o.dst i t
      | _, _ => .none
    data := w.sources.flatMap (fun o => (o.bytes t i.beforeQ).take w.dRead)
    noReturn := w.noReturn }

/-- A memory word at issue (R268): its checks, then one access in flight per participant, or one for a uniform word. -/
def memWord (w : MemWord) (s : State) : Result :=
  let slot := fun (t : Thread) => match w.sb with | some n => s.slotVerdict t.id n 1 | none => .pass
  issueWord s w.pipe
    (fun i t => (slot t).andThen (if (w.accessors i.parts).any (fun u => u.id == t.id) then w.verdict i t else .pass))
    (fun i ps s => (w.accessors ps).foldl (fun s t =>
      s.launchFlight i (if w.uniform then ps.map (·.id) else [t.id]) w.la w.sb w.pipe (.mem (w.access s i t))) s)

/-- Bytes and type of a load or store: a pair's or the datum's (R269). -/
def moveBytes (x : Pfx) (m : BitVec 1) : Nat := if m = 1 then 16 else accBytes x.dfmt

/-- `ld` (R269). -/
def execLd (d a : BitVec 6) (la : BitVec 4) (sb : BitVec 3) (m : BitVec 1) (s : State) : Result :=
  let x := s.pfx
  memWord { op := .load, d := some (.run d (if m = 1 then 2 else 1) x.ud), a := .vv a x.ua, size := moveBytes x m, span := moveBytes x m
            align := moveBytes x m, dfmt := x.dfmt, vol := x.sat, la := la.toNat, sb := some sb.toNat } s

/-- `st` (R269). -/
def execSt (d a : BitVec 6) (la : BitVec 4) (sb : BitVec 3) (m : BitVec 1) (s : State) : Result :=
  let x := s.pfx
  memWord { op := .store, d := some (.run d (if m = 1 then 2 else 1)), a := .vv a x.ua, size := moveBytes x m, span := moveBytes x m
            align := moveBytes x m, dfmt := x.dfmt, vol := x.sat, dRead := moveBytes x m, la := la.toNat, sb := some sb.toNat } s

/-- `pf` (R271): no slot, no alignment. -/
def execPf (a : BitVec 6) (m : BitVec 1) (s : State) : Result :=
  memWord { op := .pf (m == 1), d := none, a := .vv a s.pfx.ua, size := 1, span := 1, align := 1, sb := none } s

/-- An `atom` word (R272). -/
def memAtomic (s : State) (op : AtomOp) (d a : BitVec 6) (la : BitVec 4) (sb : BitVec 3) (m : BitVec 1) : Result :=
  let x := s.pfx
  let n := accBytes x.dfmt
  memWord { op := .atom op, d := some (.run d (if op == .cas then 2 else 1)), a := .vv a x.ua, size := n, span := n, align := n
            dfmt := x.dfmt, noReturn := m == 1, dRead := n, la := la.toNat, sb := some sb.toNat } s

def execAtomAdd (d a : BitVec 6) (la : BitVec 4) (sb : BitVec 3) (m : BitVec 1) (s : State) : Result := memAtomic s .add d a la sb m
def execAtomMin (d a : BitVec 6) (la : BitVec 4) (sb : BitVec 3) (m : BitVec 1) (s : State) : Result := memAtomic s .min d a la sb m
def execAtomMax (d a : BitVec 6) (la : BitVec 4) (sb : BitVec 3) (m : BitVec 1) (s : State) : Result := memAtomic s .max d a la sb m
def execAtomAnd (d a : BitVec 6) (la : BitVec 4) (sb : BitVec 3) (m : BitVec 1) (s : State) : Result := memAtomic s .and d a la sb m
def execAtomOr (d a : BitVec 6) (la : BitVec 4) (sb : BitVec 3) (m : BitVec 1) (s : State) : Result := memAtomic s .or d a la sb m
def execAtomXor (d a : BitVec 6) (la : BitVec 4) (sb : BitVec 3) (m : BitVec 1) (s : State) : Result := memAtomic s .xor d a la sb m
def execAtomXchg (d a : BitVec 6) (la : BitVec 4) (sb : BitVec 3) (m : BitVec 1) (s : State) : Result := memAtomic s .xchg d a la sb m
def execAtomCas (d a : BitVec 6) (la : BitVec 4) (sb : BitVec 3) (m : BitVec 1) (s : State) : Result := memAtomic s .cas d a la sb m

/-- `red` (R273). -/
def execRed (d a : BitVec 6) (la : BitVec 4) (sb : BitVec 3) (m : BitVec 1) (s : State) : Result :=
  let x := s.pfx
  let n := accBytes x.dfmt
  memWord { op := .red (if m = 1 then .max else .add), d := some (.vv d false), a := .vv a x.ua, size := n, span := n, align := n
            dfmt := x.dfmt, noReturn := true, dRead := n, la := la.toNat, sb := some sb.toNat } s

/-- `hrel` (R274). -/
def execHrel (d a : BitVec 6) (la : BitVec 4) (sb : BitVec 3) (s : State) : Result :=
  memWord { op := .hrel, d := some (.vv d s.pfx.ud), a := .vv a s.pfx.ua, size := 8, span := 8, align := 8
            la := la.toNat, sb := some sb.toNat } s

/-- `ldv` (R337): any address in the page. -/
def execLdv (d a : BitVec 6) (la : BitVec 4) (sb : BitVec 3) (s : State) : Result :=
  memWord { op := .ldv, d := some (.vv d s.pfx.ud), a := .vv a s.pfx.ua, size := 8, span := 1, align := 1
            la := la.toNat, sb := some sb.toNat } s

/-- `mom.acc` (R411): a 32-byte aligned record whose first 20 bytes change. -/
def execMomAcc (d a : BitVec 6) (la : BitVec 4) (sb : BitVec 3) (s : State) : Result :=
  memWord { op := .momAcc, d := some (.vv d false), a := .vv a s.pfx.ua, size := 20, span := 32, align := 32, pipe := .gfx
            noReturn := true, dRead := 8, la := la.toNat, sb := some sb.toNat } s

/-- `mom.res` (R412): reads the record; d gives the depth and takes the result. -/
def execMomRes (d a : BitVec 6) (la : BitVec 4) (sb : BitVec 3) (_m : BitVec 1) (s : State) : Result :=
  issueWord s .gfx
    (fun i t => (s.slotVerdict t.id sb.toNat 1).andThen
      (MemWord.verdict { op := .momRes 0, d := some (.vv d false), a := .vv a false, size := 20, span := 32, align := 32, dRead := 4, sb := none } i t))
    (fun i ps s => ps.foldl (fun s t =>
      let z := BitVec.ofNat 32 ((Operand.vv d false).val t i.beforeQ).toNat
      let w : MemWord := { op := .momRes z, d := some (.vv d false), a := .vv a false, size := 20, span := 32, align := 32, sb := none }
      s.launchFlight i [t.id] la.toNat (some sb.toNat) .gfx (.mem (w.access s i t))) s)

/-! ### Cache operations (R275) -/

/-- A range of lines of an address space. -/
structure LineRange where
  asid : Nat
  first : Nat
  count : Nat
  deriving DecidableEq, Repr

/-- The lines that [va, va + len) touches. -/
def lineRange (asid va len : Nat) : LineRange :=
  { asid, first := lineOf va, count := if len = 0 then 0 else lineOf (va + len - 1) - lineOf va + 1 }

/-- Whether a line of an address space lies in a range. -/
def LineRange.has (r : LineRange) (asid line : Nat) : Bool := r.asid == asid && decide (r.first ≤ line) && decide (line < r.first + r.count)

/-- Fills on their way to a place lose their right to be held there (R259). -/
def State.unholdRange (s : State) (r : LineRange) (p : MemAcc → Bool) : State :=
  let f := fun (f : Flight) => match f.kind, f.stage with
    | .mem a, .fill g => if r.has a.asid g.line && p a then { f with stage := .fill { g with state := none } } else f
    | _, _ => f
  { s with flights := s.flights.map f }

/-- `cinval.l1`: a core's L1 drops the lines. -/
def State.dropL1 (s : State) (p : Place) (r : LineRange) : State :=
  s.modMem (fun m => { m with l1 := m.l1.filter (fun l => !(l.place == p && r.has l.asid l.line)) })

/-- `cinval.l2`: the die's copies as well, dirty ones written back. -/
def State.dropL2 (s : State) (p : Place) (r : LineRange) : State :=
  ((s.dropL1 p r).giveUp (fun l => l.die == p.die && r.has l.asid l.line)).unholdRange r (fun a => a.place.die == p.die)

/-- `cwb`: a line after its write-back: M becomes E, O becomes S under EXP. -/
def L2Line.cleaned (l : L2Line) : L2Line :=
  match l.state with
  | .m => { l with state := .e }
  | .o => { l with state := .s, expiry := l.exp }
  | _ => l

/-- `cwb`: the die's dirty copies written back. -/
def State.cleanL2 (s : State) (p : Place) (r : LineRange) : State :=
  let hit := fun (l : L2Line) => l.die == p.die && r.has l.asid l.line && l.dirty
  let ls := s.mem.l2.filter hit
  let s := ls.foldl State.writeBack s
  let s := (ls.filter (fun l => l.state == .o)).foldl (fun s l => s.setDir { s.dirEntry l.pa with owner := none }) s
  s.modMem (fun m => { m with l2 := m.l2.map (fun l => if hit l then l.cleaned else l) })

/-- `hflush` and `hinval`: every die's copies, dirty ones written back. -/
def State.dropAll (s : State) (r : LineRange) : State :=
  (s.giveUp (fun l => r.has l.asid l.line)).unholdRange r (fun _ => true)

/-- A cache operation at issue: its operands, the wait for the thread's writes, R245 of the range as a whole. -/
def cacheWord (s : State) (a b : BitVec 6) (wait : Bool) (effect : Place → LineRange → State → State) : Result :=
  let x := s.pfx
  let oa : Operand := .vv a x.ua
  let ob : Operand := .vv b x.ub
  let va := fun (i : IssueCtx) (t : Thread) => (oa.val t i.beforeQ).toNat
  let len := fun (i : IssueCtx) (t : Thread) => fld (ob.val t i.beforeQ).toNat 0 48
  issueWord s .lsu
    (fun i t =>
      ((if wait then s.waitFor t.id Flight.isWrite else .pass).andThen (partialVerdict i.beforeQ t [oa, ob] [(oa, 8), (ob, 6)])).andThen
        (.require (decide (va i t < 2 ^ 52) && inRange (va i t) (len i t)) Cause.addrRange (va i t)))
    (fun i ps s => ps.foldl (fun s t => effect (s.placeOf t) (lineRange (s.asidOf t) (va i t) (len i t)) s) s)

/-- `cinval.l1` (m 0) and `cinval.l2` (m 1). -/
def execCinval (a b : BitVec 6) (m : BitVec 2) (s : State) : Result :=
  cacheWord s a b false (fun p r s => if m = 0 then s.dropL1 p r else s.dropL2 p r)
/-- `cwb`. -/
def execCwb (a b : BitVec 6) (s : State) : Result := cacheWord s a b true (fun p r s => s.cleanL2 p r)
/-- `hflush`. -/
def execHflush (a b : BitVec 6) (s : State) : Result := cacheWord s a b true (fun _ r s => s.dropAll r)
/-- `hinval`. -/
def execHinval (a b : BitVec 6) (s : State) : Result := cacheWord s a b true (fun _ r s => s.dropAll r)

end Sys2Proof.Machine
end

