-- ==== Sys2Proof/Machine/Versions.lean ====
section
/-! DEFINITION. Steps, publication, view slots and reclamation (spec/12 R317-R319, R326-R333, R338, R339). -/
namespace Sys2Proof.Machine

/-- STEP_RANGE (R339). -/
def Cause.stepRange : Cause := 0x2C

/-- `vstep` (R319): acts once, with the first participant. -/
def execVstep (a : BitVec 6) (m : BitVec 2) (s : State) : Result :=
  let o : Operand := .vv a s.pfx.ua
  issueWord s .ctl
    (fun i t =>
      if (i.parts.take 1).any (fun u => u.id == t.id) then
        if m = 0 then partialVerdict i.beforeQ t [o] [(o, 3)] else .require (i.beforeStep != 0xFFFFFF) Cause.stepRange 0
      else .pass)
    (fun i ps s => match ps with
      | t :: _ =>
        let v := if m = 0 then fld (o.val t i.beforeQ).toNat 0 24 else i.beforeStep + 1
        s.modCrew i.crew (fun c => { c with step := v })
      | [] => s)

/-! ### Publication (R329) -/

/-- `vpub`: its job waits for the thread's earlier loads, the word for its writes. -/
def execVpub (d a : BitVec 6) (la : BitVec 4) (sb : BitVec 3) (s : State) : Result :=
  let od : Operand := .vv d false
  let oa : Operand := .vv a s.pfx.ua
  issueWord s .eng
    (fun i t =>
      ((s.slotVerdict t.id sb.toNat 1).andThen (s.waitFor t.id Flight.isWrite)).andThen
        (fieldVerdict i.beforeQ t [od, oa] [(oa, 0, 3), (oa, 4, 1)]))
    (fun i ps s => ps.foldl (fun s t =>
      let v := (oa.val t i.beforeQ).toNat
      s.launchFlight i [t.id] la.toNat (some sb.toNat) .eng (.vpub (fld v 0 24) (fld v 32 3) (od.dst i t))) s)

/-- Whether a line number lies in a region. -/
def Region.hasLine (r : Region) (line : Nat) : Bool := decide (r.base ≤ line / 16384) && decide (line / 16384 < r.base + r.count)

/-- Every M, O and E copy of a region's lines recalled, fills of an owner on their way included. -/
def State.recallRegion (s : State) (asid : Nat) (r : Region) : State :=
  let s := s.finishHalves asid (r.base * 2 ^ 21) (r.count * 2 ^ 21)
  let s := s.giveUp (fun l => l.asid == asid && l.state != .s && r.hasLine l.line)
  let f := fun (f : Flight) => match f.kind, f.stage with
    | .mem a, .fill g =>
      if a.asid == asid && g.owns && r.hasLine g.line then { f with stage := .fill { g with state := none } } else f
    | _, _ => f
  { s with flights := s.flights.map f }

/-- PUB and PEND of a region set, with PBUSY clear. -/
def State.setPub (s : State) (asid i v : Nat) : State :=
  s.modAsid asid (fun a => { a with vrgns := modAt (fun x =>
    BitVec.ofNat 64 (setFld (setFld (setFld x.toNat 0 24 v) 24 24 v) 63 1 0)) i a.vrgns })

/-- VPUB_JOB_RUN (R329): whole and indivisible, so that no write reaches a home of the region within it; it waits for the thread's earlier
accesses, those that have faulted among them (R296). -/
def execVpubJobRun (fid : Nat) (s : State) : Result :=
  match s.flight? fid with
  | none => notNow "VPUB_JOB_RUN"
  | some f => match f.kind, f.tids with
    | .vpub v i dst, t :: _ =>
      let earlier := s.flights.any (fun g => decide (g.id < fid) && g.tids.contains t && g.isAccess) || s.faultedBefore f Flight.isAccess
      if earlier then notNow "VPUB_JOB_RUN"
      else
        let asid := match s.thread? t with | some x => s.asidOf x | none => 0
        let r := (s.asidBlock asid).region i
        if r.busy then notNow "VPUB_JOB_RUN"
        else
          let (code, pub, s) : Nat × Nat × State :=
            if !r.valid then (2, r.pub, s)
            else if v ≤ r.pub then (1, r.pub, s)
            else (0, v, (s.recallRegion asid r).setPub asid i v)
          .next ((s.land64 t dst (BitVec.ofNat 64 (pub * 2 ^ 32 + code))).completeFlight f)
    | _, _ => notNow "VPUB_JOB_RUN"

/-! ### View slots (R330, R332) -/

/-- A view slot set. -/
def State.setSlot (s : State) (asid n : Nat) (x : ViewSlot) : State :=
  s.modAsid asid (fun a => { a with vslots := modAt (fun _ => x) n a.vslots })

/-- `vbind` in one thread: the code, READERS after, the state. -/
def State.bindSlot (s : State) (asid n v : Nat) : Nat × Nat × State :=
  let a := s.asidBlock asid
  let x := a.vslots.getD n ⟨false, 0, 0⟩
  if n = 0 ∨ n > 15 then (5, 0, s)
  else if !a.published v then (2, x.readers, s)
  else if x.bound && x.version == v then
    if x.readers = 65535 then (4, x.readers, s) else (0, x.readers + 1, s.setSlot asid n { x with readers := x.readers + 1 })
  else if x.bound then (1, x.readers, s)
  else if !a.held v then (3, x.readers, s)
  else (0, 1, s.setSlot asid n { bound := true, readers := 1, version := v })

/-- Every L1 and L2 line tagged with a slot of an address space is dropped, on every die. -/
def State.dropSlot (s : State) (asid n : Nat) : State :=
  let s := s.giveUp (fun l => l.asid == asid && l.slot == n)
  let f := fun (f : Flight) => match f.kind, f.stage with
    | .mem a, .fill g => if a.asid == asid && g.slot == n then { f with stage := .fill { g with state := none } } else f
    | _, _ => f
  { s with flights := s.flights.map f }

/-- `vrel` in one thread. -/
def State.releaseSlot (s : State) (asid n : Nat) : Nat × Nat × State :=
  let x := (s.asidBlock asid).vslots.getD n ⟨false, 0, 0⟩
  if n = 0 ∨ n > 15 then (5, 0, s)
  else if !x.bound then (1, x.readers, s)
  else if x.readers ≤ 1 then (0, 0, (s.dropSlot asid n).setSlot asid n { x with bound := false, readers := 0 })
  else (0, x.readers - 1, s.setSlot asid n { x with readers := x.readers - 1 })

/-- What `vbind` and `vrel` write to d. -/
def State.landSlot (s : State) (tid : Nat) (dst : Dst) (code readers : Nat) : State :=
  s.land64 tid dst (BitVec.ofNat 64 (readers * 2 ^ 16 + code))

/-- `vbind` (R332). -/
def execVbind (d a b : BitVec 6) (s : State) : Result :=
  let od : Operand := .vv d false
  let oa : Operand := .vv a s.pfx.ua
  let ob : Operand := .vv b s.pfx.ub
  issueWord s .eng (fun i t => partialVerdict i.beforeQ t [od, oa, ob] [(oa, 8), (ob, 3)])
    (fun i ps s => ps.foldl (fun s t =>
      let (code, n, s) := s.bindSlot (s.asidOf t) (oa.val t i.beforeQ).toNat (fld (ob.val t i.beforeQ).toNat 0 24)
      s.landSlot t.id (od.dst i t) code n) s)

/-- `vrel` (R332). -/
def execVrel (d a : BitVec 6) (s : State) : Result :=
  let od : Operand := .vv d false
  let oa : Operand := .vv a s.pfx.ua
  issueWord s .eng (fun i t => partialVerdict i.beforeQ t [od, oa] [(oa, 8)])
    (fun i ps s => ps.foldl (fun s t =>
      let (code, n, s) := s.releaseSlot (s.asidOf t) (oa.val t i.beforeQ).toNat
      s.landSlot t.id (od.dst i t) code n) s)

/-! ### `vq` (R338) -/

/-- FREE, RETAINED and EMPTY entries of a pool. -/
def poolCounts (es : List PoolEntry) : Nat :=
  let n := fun k => (es.filter (fun e => e.state == k)).length % 2 ^ 20
  n 1 * 2 ^ 40 + n 2 * 2 ^ 20 + n 0

/-- The result of `vq`. -/
def State.poolQuery (s : State) (asid m v : Nat) : Nat :=
  let a := s.asidBlock asid
  match m with
  | 0 => (a.published (fld v 0 24)).toNat * 2 + (a.held (fld v 0 24)).toNat
  | 1 => poolCounts (s.pool asid)
  | _ => if fld v 0 4 > 11 then 0 else poolCounts ((s.pool asid).filter (fun e => e.state != 3 && e.stack == fld v 0 4))

/-- `vq` (R338), uniform under UD. -/
def execVq (d a : BitVec 6) (m : BitVec 2) (s : State) : Result :=
  let od : Operand := .vv d s.pfx.ud
  let oa : Operand := .vv a s.pfx.ua
  let verdict := fun (i : IssueCtx) (t : Thread) =>
    match m.toNat with
    | 0 => partialVerdict i.beforeQ t [od, oa] [(oa, 3)]
    | 1 => partialVerdict i.beforeQ t [od] []
    | _ => partialVerdict i.beforeQ t [od, oa] [(oa, 1)]
  let one := fun (i : IssueCtx) (t : Thread) (s : State) =>
    s.land64 t.id (od.dst i t) (BitVec.ofNat 64 (s.poolQuery (s.asidOf t) m.toNat (oa.val t i.beforeQ).toNat))
  if od.isQ then issueUniform s .eng verdict one else issueWord s .eng verdict (fun i ps s => ps.foldl (fun s t => one i t s) s)

/-! ### Reclamation (R333) -/

/-- The held versions of an address space (R331). -/
def Asid.heldVersions (a : Asid) : List Nat :=
  ((a.vslots.drop 1).filter (·.bound)).map (·.version)
  ++ (((List.range 8).map a.region).filter (·.valid)).flatMap (fun r => ((List.range a.keep).filter (fun k => decide (k ≤ r.pub))).map (fun k => r.pub - k))

/-- Whether a RETAINED entry is reachable (R333). -/
def State.reachable (s : State) (asid : Nat) (e : PoolEntry) : Bool :=
  let live := match s.page? asid (e.page * 65536) with | some p => if p.ver then [p.version] else [] | none => []
  let others := live ++ ((s.pool asid).filter (fun x => x.state == 2 && x.page == e.page && x.index != e.index)).map (·.version)
  (s.asidBlock asid).heldVersions.any (fun h => decide (e.version ≤ h) && !others.any (fun v => decide (e.version < v) && decide (v ≤ h)))

/-- VERSION_RECLAIM (R333, R326): an unreachable entry becomes FREE; a bad one stays and is recorded. -/
def execVersionReclaim (asid entry : Nat) (s : State) : Result :=
  match (s.pool asid).find? (fun e => e.index == entry) with
  | none => notNow "VERSION_RECLAIM"
  | some e =>
    let fenced := (s.time.receivers.getD (4 + e.stack / 3) {}).fenced
    if e.state != 2 || s.reachable asid e || fenced then notNow "VERSION_RECLAIM"
    else if e.bad then .next (s.writeRecord 0 { cause := 0x2D, asid, noThread := true })
    else .next (s.writePool asid entry (setFld (setFld (setFld (setFld e.bits 200 24 0) 164 36 0) 64 64 0) 138 2 1))

end Sys2Proof.Machine
end

