-- ==== Sys2Proof/Machine/JobOps.lean ====
section
/-! DEFINITION. Jobs of the copy engines: cards, layout records, extents and footprints, their checks, what a unit moves, the
task scheduler's order, landing and completion, schedules (spec/14 R368-R384; spec/08 R233; spec/10 R288). -/
namespace Sys2Proof.Machine

/-- COPY_CARD, COPY_FOOTPRINT, TENSOR_RECORD (R387). -/
def Cause.copyCard : Cause := 0x40
def Cause.copyFootprint : Cause := 0x41
def Cause.tensorRecord : Cause := 0x42

/-! ### Cards and records (R368-R371) -/

/-- A job card's 1,024 bits. -/
structure Card where
  bits : Nat
  deriving DecidableEq, Repr

def Card.src (c : Card) : Nat := fld c.bits 0 64
def Card.dst (c : Card) : Nat := fld c.bits 64 64
def Card.kind (c : Card) : Nat := fld c.bits 128 4
def Card.sscr (c : Card) : Bool := bit c.bits 132
def Card.dscr (c : Card) : Bool := bit c.bits 133
def Card.iscr (c : Card) : Bool := bit c.bits 134
def Card.fpn (c : Card) : Nat := fld c.bits 138 3
def Card.tail (c : Card) : Nat := fld c.bits 448 64
/-- n bytes of PARAM from a byte of the card (R370). -/
def Card.param (c : Card) (byte n : Nat) : Nat := fld c.bits (8 * byte) (8 * n)
def Card.len (c : Card) : Nat := fld c.bits 192 40
def Card.start (c : Card) (i : Nat) : Int := toSigned 32 (c.param (24 + 4 * i) 4)
def Card.ext (c : Card) (i : Nat) : Nat := c.param (44 + 2 * i) 2

/-- The parameters of KIND 5 (R370): NIDX, ROWBYTES, SPITCH, NROWS, bytes of an index. -/
def Card.nidx (c : Card) : Nat := c.param 32 4
def Card.gatRow (c : Card) : Nat := c.param 36 4
def Card.gatPitch (c : Card) : Nat := fld c.bits 320 40
def Card.nrows (c : Card) : Nat := c.param 48 4
def Card.idxBytes (c : Card) : Nat := if c.param 52 1 = 2 then 4 else 8

/-- A tensor layout record's 512 bits (R369). -/
structure TensorRec where
  bits : Nat
  deriving DecidableEq, Repr

def TensorRec.esize (r : TensorRec) : Nat := fld r.bits 451 3
def TensorRec.rank (r : TensorRec) : Nat := fld r.bits 448 3
def TensorRec.size (r : TensorRec) : Nat := 2 ^ r.esize
def TensorRec.dim (r : TensorRec) (i : Nat) : Nat := fld r.bits (64 + 32 * i) 32
def TensorRec.stride (r : TensorRec) (i : Nat) : Nat := if i = 0 then r.size else fld r.bits (224 + 40 * (i - 1)) 40
def TensorRec.base (r : TensorRec) : Nat := fld r.bits 0 64

/-- The bytes that fill an element out of bounds. -/
def TensorRec.fill (r : TensorRec) : List Byte :=
  let b := natToBytes 8 (fld r.bits 384 64)
  (b ++ b).take r.size

/-- Whether a record is valid (R369). -/
def TensorRec.valid (r : TensorRec) : Bool :=
  decide (1 ≤ r.rank) && decide (r.rank ≤ 5) && decide (r.esize ≤ 4)
  && (List.range 5).all (fun i => if i < r.rank then decide (1 ≤ r.dim i) else r.dim i == 1)
  && [1, 2, 3, 4].all (fun i => if i < r.rank then r.stride i % r.size == 0 else r.stride i == 0)
  && r.base % r.size == 0 && fld r.bits 454 58 == 0

/-- The address of an element in bounds (R369), not cut to 64 bits: R374 refuses a range that leaves R245. -/
def TensorRec.addr (r : TensorRec) (c : List Int) : Nat :=
  ((r.base : Int) + ((List.range 5).zip c).foldl (fun a x => a + x.2 * (r.stride x.1 : Int)) 0).toNat

/-- Whether an element is in bounds. -/
def TensorRec.inBounds (r : TensorRec) (c : List Int) : Bool :=
  ((List.range 5).zip c).all (fun x => decide (0 ≤ x.2) && decide (x.2 < (r.dim x.1 : Int)))

/-- The elements of a box. -/
def Card.boxCount (c : Card) : Nat := (List.range 5).foldl (fun n i => n * c.ext i) 1

/-- The coordinates of box index e, e0 fastest (R372). -/
def Card.coords (c : Card) (e : Nat) : List Int :=
  (List.range 5).map (fun i => c.start i + ((e / (List.range i).foldl (fun n k => n * c.ext k) 1) % c.ext i : Nat))

/-- Units of a job (R372). -/
def Card.count (c : Card) : Nat :=
  match c.kind with
  | 1 => c.len
  | 2 => c.param 28 4
  | 5 => c.nidx
  | _ => c.boxCount

/-- Words that issue a job. -/
def kindOk (word kind : Nat) (dscr : Bool) : Bool :=
  match word with
  | 0 => decide (1 ≤ kind) && decide (kind ≤ 4)
  | 1 => (kind == 1 || kind == 2) && !dscr
  | 2 => kind == 5
  | _ => decide (1 ≤ kind) && decide (kind ≤ 3) && dscr

/-- PARAM as R370 gives it for the KIND. -/
def Card.paramOk (c : Card) : Bool :=
  let rows := fun n => decide (1 ≤ n) && decide (n ≤ 1048576)
  match c.kind with
  | 1 => c.param 29 27 == 0
  | 2 => rows (c.param 24 4) && decide (c.param 28 4 ≤ 1048576) && c.param 37 3 == 0 && c.param 45 11 == 0
  | 5 => rows c.gatRow && c.param 45 3 == 0 && (c.param 52 1 == 2 || c.param 52 1 == 3) && c.param 53 3 == 0
  | _ => (List.range 5).all (fun i => decide (1 ≤ c.ext i)) && c.param 54 2 == 0
      && !(if c.kind = 3 then c.sscr else c.dscr)

/-- TAIL as R371 gives it for the issuer; `window` is COUNT of the counter window (R465). -/
def Card.tailOk (c : Card) (word window : Nat) : Bool :=
  match word with
  | 1 => fld c.tail 16 48 == 0 && !(bit c.tail 2 && decide (fld c.tail 4 12 ≥ window))
  | 4 => fld c.tail 18 46 == 0
  | _ => true

/-- Step 3 of R374. -/
def Card.ok (c : Card) (word window : Nat) : Bool :=
  kindOk word c.kind c.dscr && decide (c.fpn ≤ 4) && fld c.bits 141 51 == 0 && fld c.bits 135 3 == 0
  && (List.range 4).all (fun e => fld c.bits (512 + 128 * e + 106) 22 == 0) && c.paramOk && c.tailOk word window

/-- Whether a card has a layout record, and where it lies. -/
def Card.recordAt (c : Card) : Option Nat := if c.kind = 3 then some c.src else if c.kind = 4 then some c.dst else none

/-- Step 4 of R374. -/
def Card.recordVerdict (c : Card) (r : TensorRec) : Verdict :=
  if c.recordAt.isNone then .pass
  else (Verdict.require r.valid Cause.tensorRecord 0).andThen
    (.require ((List.range 5).all (fun i => decide (i < r.rank) || (c.start i == 0 && c.ext i == 1))) Cause.copyCard 0)

/-! ### Extents and footprints (R373, R380) -/

/-- A range as a card names it. -/
structure CardRange where
  scr : Bool
  addr : Nat
  len : Nat
  write : Bool
  deriving DecidableEq, Repr

/-- The bytes from the lowest to the highest of the box's elements in bounds. -/
def Card.boxRange (c : Card) (r : TensorRec) : Nat × Nat :=
  let lo := (List.range 5).map (fun i => max (c.start i) 0)
  let hi := (List.range 5).map (fun i => min (c.start i + c.ext i) (r.dim i) - 1)
  if (lo.zip hi).all (fun x => decide (x.1 ≤ x.2)) then (r.addr lo, r.addr hi + r.size - r.addr lo) else (0, 0)

/-- The extent of a job (R373). -/
def Card.extent (c : Card) (r : TensorRec) : List CardRange :=
  let span := fun (n pitch row : Nat) => if n = 0 then 0 else (n - 1) * pitch + row
  let l : List CardRange := match c.kind with
    | 1 => [⟨c.sscr, c.src, c.len, false⟩, ⟨c.dscr, c.dst, c.len, true⟩]
    | 2 => [⟨c.sscr, c.src, span (c.param 28 4) (fld c.bits 256 40) (c.param 24 4), false⟩,
            ⟨c.dscr, c.dst, span (c.param 28 4) (fld c.bits 320 40) (c.param 24 4), true⟩]
    | 3 => [⟨false, (c.boxRange r).1, (c.boxRange r).2, false⟩, ⟨c.dscr, c.dst, r.size * c.boxCount, true⟩]
    | 4 => [⟨c.sscr, c.src, r.size * c.boxCount, false⟩, ⟨false, (c.boxRange r).1, (c.boxRange r).2, true⟩]
    | _ => [⟨c.iscr, c.param 24 8, c.nidx * c.idxBytes, false⟩, ⟨c.sscr, c.src, span c.nrows c.gatPitch c.gatRow, false⟩,
            ⟨c.dscr, c.dst, c.nidx * c.gatRow, true⟩]
  l.filter (fun x => x.len != 0)

/-- The declared entries (R368). -/
def Card.declared (c : Card) : List CardRange :=
  (List.range c.fpn).map (fun e =>
    let x := fld c.bits (512 + 128 * e) 128
    ⟨bit x 105, fld x 0 64, fld x 64 40, bit x 104⟩)

/-- A scratch address's level (R242). -/
def scrLevel (a : Nat) : Nat := fld a 32 2

/-- The owner of the allotment that a team's jobs reach at a level (R222). -/
def State.teamOwner (s : State) (team level : Nat) : Nat :=
  match level, s.team? team with
  | 1, some m => m.cluster
  | 2, some m => match s.grid? m.grid with | some g => g.asid | none => 0
  | _, _ => team

/-- The address space of a team. -/
def State.teamAsid (s : State) (team : Nat) : Nat := s.teamOwner team 2

/-- A range as the scheduler compares it. -/
def State.jobRange (s : State) (team : Nat) (r : CardRange) : JobRange :=
  if r.scr then { level := scrLevel r.addr, owner := s.teamOwner team (scrLevel r.addr), base := fld r.addr 0 32, len := r.len, write := r.write }
  else { level := 4, owner := s.teamAsid team, base := r.addr, len := r.len, write := r.write }

/-- Step 5 of R374 for one range. -/
def State.rangeOk (s : State) (team : Nat) (r : CardRange) : Verdict :=
  if r.len = 0 then .pass
  else if r.scr then
    .require (scrLevel r.addr != 3 && decide (fld r.addr 0 32 + r.len ≤ (s.scr (scrLevel r.addr) (s.teamOwner team (scrLevel r.addr))).size))
      Cause.scratchRange (fld r.addr 0 34)
  else .require (decide (r.addr < 2 ^ 52) && inRange r.addr r.len) Cause.addrRange r.addr

/-- Whether [lo, hi) lies in the union of ranges: each of n rounds takes a range that holds the first byte still open. -/
def coveredBy (l : List JobRange) (lo hi : Nat) : Nat → Bool
  | 0 => decide (hi ≤ lo)
  | n + 1 => if hi ≤ lo then true else
    match l.find? (fun r => decide (r.base ≤ lo) && decide (lo < r.base + r.len)) with
    | none => false
    | some r => coveredBy l (r.base + r.len) hi n

/-- Step 6 of R374 for one range of the extent. -/
def covered (foot : List JobRange) (r : JobRange) : Bool :=
  let l := foot.filter (fun x => x.level == r.level && x.owner == r.owner && (x.write || !r.write))
  coveredBy l r.base (r.base + r.len) (l.length + 1)

/-- The footprint (R373). -/
def State.footprint (s : State) (team : Nat) (c : Card) (r : TensorRec) : List JobRange :=
  (if c.fpn = 0 then c.extent r else c.declared).map (s.jobRange team)

/-- Steps 5 and 6 of R374: every virtual range before any scratch range (R298). -/
def State.extentVerdict (s : State) (team : Nat) (c : Card) (r : TensorRec) : Verdict :=
  let all := c.extent r ++ c.declared
  let ranges := (all.filter (fun x => !x.scr) ++ all.filter (·.scr)).foldl (fun v x => v.andThen (s.rangeOk team x)) Verdict.pass
  ranges.andThen (.require ((c.extent r).all (fun x => covered (s.footprint team c r) (s.jobRange team x))) Cause.copyFootprint 0)

/-- Whether two footprints conflict (R380). -/
def footConflict (a b : List JobRange) : Bool :=
  a.any (fun x => b.any (fun y => x.level == y.level && x.owner == y.owner && overlap x.base x.len y.base y.len && (x.write || y.write)))

/-- Whether a job must wait for an earlier-accepted one of its grid (R380); completed jobs have left the list. -/
def State.jobHeld (s : State) (j : Job) : Bool :=
  (s.jobs.takeWhile (fun x => x.id != j.id)).any (fun x => x.grid == j.grid && footConflict x.foot j.foot)

/-- Room for n more jobs in a grid's task scheduler (R379). -/
def State.schedulerRoom (s : State) (grid n : Nat) : Bool := decide ((s.jobs.filter (fun x => x.grid == grid)).length + n ≤ 1024)

/-- The copy queue of a `cpyq` (R381): the issuing die and TDIE. -/
def Job.queue (j : Job) : Nat × Nat := (j.die, fld (fld j.card 448 64) 0 2)

/-! ### What a unit moves (R372, R378) -/

/-- Bytes read by a job, whether from a substituted frame; a stop carries the first byte refused (R377). -/
def State.jobReadRun (s : State) (asid va n : Nat) (x : VerSel) : Except EngineStop (List Byte × Bool) × State :=
  if s.homeFenced va then (.error (.fenced va), s)
  else match s.translate asid va .read with
  | .fault c => (.error (.fault c va), s)
  | .demand => (.error (.demand va false), s)
  | .ok p =>
    let s := s.touchPage p false
    let c := s.chooseFrame asid p x
    if c.bad then (.error (.fault 0x2D va), s)
    else match c with
      | .gone => (.error (.fault Cause.versionGone va), s)
      | _ =>
        let pa := c.phys p va
        match (List.range n).find? (fun k => s.latestBad (pa + k) 1) with
        | some k => (.error (.fault Cause.memPoison (va + k)), s)
        | none => (.ok (s.latest pa n, c.wasGone), s)

/-- Bytes read by a job of a team at a scratch or virtual address. -/
def State.jobRead (s : State) (team : Nat) (scr : Bool) (addr n : Nat) (x : VerSel) : Except EngineStop (List Byte × Bool) × State :=
  if scr then
    let y := s.scr (scrLevel addr) (s.teamOwner team (scrLevel addr))
    match lowestMarked y.poison (fld addr 0 32) n with
    | some k => (.error (.fault Cause.scratchPoison (scrLevel addr * 2 ^ 32 + k)), s)
    | none => (.ok (y.bytes.readN (fld addr 0 32) n, false), s)
  else (runsOf addr n).foldl (fun acc r => match acc with
    | (.error e, s) => (.error e, s)
    | (.ok (bs, sub), s) => match s.jobReadRun (s.teamAsid team) r.1 r.2 x with
      | (.error e, s) => (.error e, s)
      | (.ok (cs, u), s) => (.ok (bs ++ cs, sub || u), s)) (.ok ([], false), s)

/-- Bytes of one line written as stores of a die, in a line that its L2 obtains (R381). -/
def State.dieWriteLine (s : State) (die asid step va : Nat) (bs : List Byte) : Except EngineStop Nat × State :=
  if s.homeFenced va then (.error (.fenced va), s)
  else match s.translate asid va .write with
  | .fault c => (.error (.fault c va), s)
  | .demand => (.error (.demand va true), s)
  | .ok p =>
    if p.mt ≠ 0 then s.engineWriteLine asid step va bs
    else match s.readyPage asid step va p with
      | (.error e, s) => (.error e, s)
      | (.ok p, s) =>
        let a : MemAcc := { op := .store, place := ⟨die, 0, 0⟩, asid, va, size := bs.length, dfmt := 0, vol := false, ver := {}, dst := .none
                            data := bs, noReturn := true }
        let s := s.touchPage p true
        let own := fun (s : State) => let (g, s) := s.grantOwn a p; s.arrive a g
        let s := match s.l2? die asid 0 (lineOf va) with
          | some l => if l.state == L2State.s then own s else s
          | none => own s
        match s.l2? die asid 0 (lineOf va) with
        | some l => (.ok (visibility l.exp (s.localTime die)), s.modL2 die asid 0 (lineOf va) (·.put (va % 128) bs))
        | none => s.engineWriteLine asid step va bs

/-- Bytes written by a job: the latest visibility time. -/
def State.jobWrite (s : State) (j : Job) (scr : Bool) (addr : Nat) (bs : List Byte) : Except EngineStop Nat × State :=
  if scr then
    (.ok 0, s.modScr (scrLevel addr) (s.teamOwner j.team (scrLevel addr)) (·.store (fld addr 0 32) bs))
  else (runsOf addr bs.length).foldl (fun acc r => match acc with
    | (.error e, s) => (.error e, s)
    | (.ok vt, s) =>
      let piece := (bs.drop (r.1 - addr)).take r.2
      let out := if j.word = 1 then s.dieWriteLine j.queue.2 (s.teamAsid j.team) j.step r.1 piece
        else s.engineWriteLine (s.teamAsid j.team) j.step r.1 piece
      match out with
      | (.error .poolBad, s) => (.error (.fault 0x2D r.1), s)
      | (.error e, s) => (.error e, s)
      | (.ok v, s) => (.ok (max vt v), s)) (.ok 0, s)

/-- Where a unit's bytes go, and how many; none where nothing is written (R372). -/
def Card.unitDst (c : Card) (r : TensorRec) (u : Nat) : Option (Nat × Nat) :=
  match c.kind with
  | 1 => some (c.dst + u, 1)
  | 2 => some (c.dst + u * fld c.bits 320 40, c.param 24 4)
  | 3 => some (c.dst + u * r.size, r.size)
  | 4 => if r.inBounds (c.coords u) then some (r.addr (c.coords u), r.size) else none
  | _ => some (c.dst + u * c.gatRow, c.gatRow)

/-- Whether a job writes a scratchpad. -/
def Card.toScratch (c : Card) : Bool := c.kind != 4 && c.dscr

/-- Where a unit's bytes come from: an address, or bytes that fill (R372). -/
inductive UnitSource where
  | read (scr : Bool) (addr n : Nat)
  | fill (bytes : List Byte)
  deriving DecidableEq, Repr

/-- The source of a unit; KIND 5 reads its index first. -/
def State.unitSource (s : State) (j : Job) (u : Nat) : Except EngineStop UnitSource × State :=
  let c : Card := ⟨j.card⟩
  let r : TensorRec := ⟨j.record⟩
  match c.kind with
  | 1 => (.ok (.read c.sscr (c.src + u) 1), s)
  | 2 => (.ok (.read c.sscr (c.src + u * fld c.bits 256 40) (c.param 24 4)), s)
  | 3 => (.ok (if r.inBounds (c.coords u) then .read false (r.addr (c.coords u)) r.size else .fill r.fill), s)
  | 4 => (.ok (.read c.sscr (c.src + u * r.size) r.size), s)
  | _ => match s.jobRead j.team c.iscr (c.param 24 8 + u * c.idxBytes) c.idxBytes {} with
    | (.error e, s) => (.error e, s)
    | (.ok (bs, _), s) =>
      let k := bytesToNat bs
      (.ok (if k < c.nrows then .read c.sscr (c.src + k * c.gatPitch) c.gatRow
        else .fill ((List.range c.gatRow).map (fun b => BitVec.ofNat 8 (fld c.tail (8 * (b % 8)) 8)))), s)

/-- What a job has done within one event: the state, the state the event began with, where it stops. -/
structure JobRun where
  s : State
  before : State
  vt : Nat := 0
  sub : Bool := false
  stop : Option (Nat × EngineStop) := none

/-- Whether a job that has stopped at a unit no longer performs unit u: only those below are still owed (R220, R376). -/
def beyondStop (stop : Option (Nat × EngineStop)) (u : Nat) : Bool :=
  match stop with | none => false | some (w, _) => decide (w ≤ u)

/-- A unit placed before the first whose key is not lower. -/
def placeUnit (key : Nat → Nat) (u : Nat) : List Nat → List Nat
  | [] => [u]
  | v :: vs => if key u ≤ key v then u :: v :: vs else v :: placeUnit key u vs

/-- The units of a job in the order in which it performs them, a free choice (R221, R378). -/
def unitOrder (fresh : Nat) (us : List Nat) : List Nat := us.foldr (placeUnit (Config.unitKey fresh)) []

/-- One unit, whole: on a stop it has done nothing. -/
def JobRun.unit (x : JobRun) (j : Job) (u : Nat) : JobRun :=
  let c : Card := ⟨j.card⟩
  match beyondStop x.stop u, c.unitDst ⟨j.record⟩ u with
  | true, _ => x
  | false, none => x
  | false, some (dst, _) =>
    match x.s.unitSource j u with
    | (.error e, _) => { x with stop := some (u, e) }
    | (.ok src, s) =>
      let got : Except EngineStop (List Byte × Bool) × State := match src with
        | .fill bs => (.ok (bs, false), s)
        | .read scr addr n => match s.jobRead j.team scr addr n (j.ver.getD {}) with
          | (.error e, s) => (.error e, s)
          | (.ok (bs, sub), s) => match (x.before.jobRead j.team scr addr n (j.ver.getD {})).1 with
            | .ok (old, _) => (.ok (mixBytes s.ctl.fresh u addr old bs, sub), s)
            | .error _ => (.ok (bs, sub), s)
      match got with
      | (.error e, _) => { x with stop := some (u, e) }
      | (.ok (bs, sub), s) => match s.jobWrite j c.toScratch dst bs with
        | (.error e, _) => { x with stop := some (u, e) }
        | (.ok vt, s) => { x with s, vt := max x.vt vt, sub := x.sub || sub }

/-- The lines of its destination that a unit touches. -/
def Card.unitLines (c : Card) (r : TensorRec) (u : Nat) : List Nat :=
  match c.unitDst r u with
  | some (dst, n) => linesOf (if c.toScratch then fld dst 0 32 else dst) n
  | none => []

/-- The units that have not been performed: those of landed lines have been, whole. -/
def Job.openUnits (j : Job) : List Nat :=
  (List.range (⟨j.card⟩ : Card).count).filter (fun u => !((⟨j.card⟩ : Card).unitLines ⟨j.record⟩ u).any j.landed.contains)

/-- Units performed in a free order. The lowest that stops is where the job stops: every unit below it is performed, and of those
beyond it the ones whose turn came before (R376). -/
def State.runUnits (s : State) (j : Job) (us : List Nat) : JobRun :=
  (unitOrder s.ctl.fresh us).foldl (fun (x : JobRun) u => x.unit j u) ({ s, before := s } : JobRun)

/-- The scratch lines a job writes (R233). -/
def State.jobLines (s : State) (team : Nat) (c : Card) (r : TensorRec) : List ScrLine :=
  if !c.toScratch then []
  else
    let level := scrLevel c.dst
    let owner := s.teamOwner team level
    let lines := if c.kind = 2 then (List.range c.count).flatMap (c.unitLines r)
      else (c.extent r).flatMap (fun x => if x.write then linesOf (fld x.addr 0 32) x.len else [])
    (dedup lines).map (fun l => ⟨level, owner, l⟩)

/-- The presence bits of lines set or cleared. -/
def State.setLines (s : State) (ls : List ScrLine) (p : Bool) : State :=
  match ls with
  | [] => s
  | l :: _ => s.setPresence l.level l.owner (ls.map (·.line)) p

/-- A job accepted (R375): presence bits fall, it joins the scheduler. -/
def State.acceptJob (s : State) (j : Job) : State :=
  let ls := s.jobLines j.team ⟨j.card⟩ ⟨j.record⟩
  { (s.setLines ls false) with jobs := (s.setLines ls false).jobs ++ [{ j with cleared := ls }] }

/-! ### Schedules (R382-R385) -/

/-- An entry's card and record for a team (R382). -/
def Grid.teamEntry (g : Grid) (index : Nat) (e : Nat × Nat) : Card × TensorRec :=
  let c : Card := ⟨e.1⟩
  let move := fun (a stride : Nat) => ofSigned 64 ((a : Int) + (index : Int) * toSigned 64 stride)
  let ts := fld g.schedHeader 0 64
  let td := fld g.schedHeader 64 64
  let src := if bit c.tail 16 && c.kind != 3 then move c.src ts else c.src
  let dst := if bit c.tail 17 then move c.dst td else c.dst
  let r : TensorRec := ⟨e.2⟩
  (⟨setFld (setFld e.1 0 64 src) 64 64 dst⟩, if bit c.tail 16 && c.kind == 3 then ⟨setFld e.2 0 64 (move r.base ts)⟩ else r)

/-- `cr.sched` after an entry has ended (R383): LANDED, and its error if it is the first. -/
def schedEnded (v : W64) (entry err cause : Nat) : W64 :=
  let n := setFld v.toNat 16 9 (fld v.toNat 16 9 + 1)
  BitVec.ofNat 64 (if err ≠ 0 ∧ fld n 56 8 = 0 then setFld (setFld (setFld n 56 8 err) 48 8 cause) 40 8 entry else n)

/-- The entries of a team that its stage counter lets go are released, in ascending index, while the scheduler has room
(R384). -/
def State.releaseSchedule (s : State) (tm : Nat) : State :=
  match s.team? tm with
  | none => s
  | some m => match s.grid? m.grid with
    | none => s
    | some g =>
      let stage := fld m.regs.sched.toNat 0 16
      let due := m.unreleased.filter (fun k => match g.sched[k]? with | some e => decide (fld (⟨e.1⟩ : Card).tail 0 16 ≤ stage) | none => false)
      due.foldl (fun s k => match g.sched[k]? with
        | none => s
        | some e =>
          if !s.schedulerRoom g.event 1 then s
          else
            let s := s.modTeam tm (fun m => { m with unreleased := m.unreleased.filter (fun x => x != k) })
            let (c, r) := g.teamEntry m.index e
            match s.extentVerdict tm c r with
            | .trap cause _ => s.modTeam tm (fun m => { m with regs := { m.regs with sched := schedEnded m.regs.sched k 4 cause } })
            | _ =>
              let (id, s) := s.newId
              s.acceptJob { id, grid := g.event, team := tm, die := m.place.die, word := 4, entry := some k, card := c.bits, record := r.bits
                            step := fld g.record 288 24, foot := s.footprint tm c r }) s

/-! ### Events of jobs -/

/-- JOB_START (R380). -/
def execJobStart (jid : Nat) (s : State) : Result :=
  match s.job? jid with
  | none => notNow "JOB_START"
  | some j => if j.started || j.word == 3 || s.jobHeld j then notNow "JOB_START" else .next (s.modJob jid (fun j => { j with started := true }))

/-- Whether the `ver` of a job makes it stop at once (R378). -/
def Job.verOnScratch (j : Job) : Bool := j.ver.isSome && (⟨j.card⟩ : Card).sscr

/-- COPY_LINE_LANDING (R233): the job finishes writing one line of its destination; a scratch line becomes present. -/
def execCopyLineLanding (jid line : Nat) (s : State) : Result :=
  match s.job? jid with
  | none => notNow "COPY_LINE_LANDING"
  | some j =>
    let c : Card := ⟨j.card⟩
    let us := j.openUnits.filter (fun u => (c.unitLines ⟨j.record⟩ u).contains line)
    let mine := c.toScratch && j.cleared.any (fun l => l.line == line) || (!c.toScratch && !us.isEmpty)
    if !j.started || j.word == 3 || j.landed.contains line || j.verOnScratch || !mine then notNow "COPY_LINE_LANDING"
    else
      let x := s.runUnits j us
      if x.stop.isSome then notNow "COPY_LINE_LANDING"
      else
        let s := x.s.useFresh.modJob jid (fun j => { j with landed := j.landed ++ [line], vt := max j.vt x.vt, sub := j.sub || x.sub })
        .next (s.setLines (j.cleared.filter (fun l => l.line == line)) true)

/-- ERR of R376 for a cause. -/
def jobErr (cause : Nat) : Nat :=
  if cause = Cause.memPoison ∨ cause = Cause.scratchPoison then 2
  else if [Cause.versionGone, 0x29, 0x2A, 0x2B, 0x2D].contains cause then 3 else 1

/-- A job's edge waits for the thread's own wait on its slot or window (R288). -/
def Thread.jobMark (t : Thread) (f : Flight) (mark : Nat) : Thread :=
  t.modWordCtx f.trapCtx (fun c => { c with marks := c.marks ++ [(f.sb.getD 8, f.id, mark)] })

/-- A job's status written, its slot lowered (R376, R377). -/
def State.landStatus (s : State) (j : Job) (f : Flight) (status vt : Nat) (sub : Bool) (bad : Option Nat) : State :=
  match f.tids with
  | t :: _ =>
    let s := s.land64 t j.dst (BitVec.ofNat 64 status)
    let s := s.modThread t (fun t =>
      let t := (t.raiseTm vt).jobMark f vt
      let t := match j.ver with
        | some x => if x.old then t.modWordCtx f.trapCtx (fun c => { c with preds := setPredBits c.preds x.pred sub }) else t
        | none => t
      match bad with | some a => { t with cpyerr := BitVec.ofNat 64 a } | none => t)
    s.completeFlight f
  | [] => s.completeFlight f

/-- The counter add of a `cpyq` (R381, R465): as a `cnt.add` of the issuing thread after the job's writes. -/
def State.queueAdd (s : State) (j : Job) (f : Flight) (vt : Nat) : State :=
  match f.tids.head?.bind s.thread? with
  | none => s
  | some t =>
    let base := fld (s.asidBlock (s.teamAsid j.team)).cntwin.toNat 0 12
    (s.setNrp t.id).addCounter (base + fld (⟨j.card⟩ : Card).tail 4 12) 1 (max t.tm vt)

/-- VPOOL_BAD is a grid error too (R376). -/
def State.poolBadRecord (s : State) (f : Flight) : State :=
  match f.tids.head?.bind s.thread? with
  | some t => s.gridError t 0x2D 0
  | none => s

/-- A job ends: presence bits, counter, status, `cr.sched`; it leaves the scheduler, and held schedule entries may enter. -/
def State.endJob (s : State) (j : Job) (done vt : Nat) (sub : Bool) (stop : Option (Nat × Nat)) : State :=
  let s := s.setLines (j.cleared.filter (fun l => stop.isSome || !j.landed.contains l.line)) true
  let err := match stop with | some (c, _) => jobErr c | none => 0
  let cause := match stop with | some (c, _) => c | none => 0
  let status := err * 2 ^ 56 + cause * 2 ^ 48 + sub.toNat * 2 ^ 40 + done % 2 ^ 40
  let s : State := match j.flight.bind s.flight? with
    | none => s
    | some f =>
      let s := if j.word = 1 && bit (⟨j.card⟩ : Card).tail 2 && stop.isNone then s.queueAdd j f vt else s
      let s := if cause = 0x2D then s.poolBadRecord f else s
      s.landStatus j f status vt sub (stop.map (fun x => x.2))
  let s := match j.entry with
    | some k => s.modTeam j.team (fun m => { m with regs := { m.regs with sched := schedEnded m.regs.sched k err cause } })
    | none => s
  let s := { s with jobs := s.jobs.filter (fun x => x.id != j.id) }
  ((s.teams.filter (fun m => m.grid == j.grid && !m.unreleased.isEmpty && m.status == .resident)).map (·.id)).foldl State.releaseSchedule s
/-- Whether a `cpyq` must wait for the adds of jobs that entered its queue before it (R381). -/
def State.addsBefore (s : State) (j : Job) : Bool :=
  (s.jobs.takeWhile (fun x => x.id != j.id)).any (fun x => x.word == 1 && x.queue == j.queue && bit (⟨x.card⟩ : Card).tail 2)

/-- JOB_COMPLETE (R376): the remaining units are performed, or the job stops. A page that waits for the driver leaves the job as
it stands. -/
def execJobComplete (jid : Nat) (s : State) : Result :=
  match s.job? jid with
  | none => notNow "JOB_COMPLETE"
  | some j =>
    if !j.started || j.word == 3 then notNow "JOB_COMPLETE"
    else
      let c : Card := ⟨j.card⟩
      let asid := s.teamAsid j.team
      let counted := j.word == 1 && bit c.tail 2
      let x : JobRun := if j.verOnScratch && c.count != 0 then { s, before := s, stop := some (0, .fault Cause.versionGone (fld c.src 0 34)) }
        else s.runUnits j j.openUnits
      match x.stop with
      | none =>
        if counted && s.addsBefore j then notNow "JOB_COMPLETE"
        else .next (x.s.useFresh.endJob j c.count (max j.vt x.vt) (j.sub || x.sub) none)
      | some (u, e) => match s.stopCause asid e none jid, e with
        | some (cause, va), _ =>
          if j.word == 1 && s.addsBefore j then notNow "JOB_COMPLETE"
          else .next ((x.s.useFresh.takeRefusal jid asid va).endJob j u (max j.vt x.vt) (j.sub || x.sub) (some (cause, va)))
        | none, .demand va write =>
          if (s.request? asid va).any (fun r => r.engines.contains jid) then notNow "JOB_COMPLETE"
          else .next (s.engineDemand asid va write none jid)
        | none, e => match s.holdEngine e (some j.grid) with | some s => .next s | none => notNow "JOB_COMPLETE"

end Sys2Proof.Machine
end

