-- ==== Sys2Proof/Machine/Copy.lean ====
section
/-! DEFINITION. The words of the copy engines: `cpy`, `cpyq`, `gat`, `stage` (spec/14 R374, R375, R385, R386), and how a word reads
memory at issue. -/
namespace Sys2Proof.Machine

/-! ### Reads made at issue (R374, R217, R151) -/

/-- What a read that its reader waits for waits for: the driver's answer on a page (R253), or a fenced quadrant's return (R22, R312). -/
inductive ReadWait where
  | driver (va : Nat)
  | home (va : Nat)
  deriving DecidableEq, Repr

/-- What a read at issue comes to. -/
inductive IssueRead where
  | bytes (bs : List Byte)
  | trap (cause val : Nat)
  | wait (w : ReadWait)
  deriving DecidableEq, Repr

/-- A read of the live state at issue: its faults are precise; a page that the driver has refused to the crew is a PAGE_FAULT
(R252, R253). -/
def State.issueRead (s : State) (crew asid va n : Nat) : IssueRead × State :=
  if !(decide (va < 2 ^ 52) && inRange va n) then (.trap Cause.addrRange va, s)
  else match s.engineRead asid va n with
    | (.ok bs, s) => (.bytes bs, s)
    | (.error (.fault c _), s) => (.trap c va, s)
    | (.error .poolBad, s) => (.trap 0x2D 0, s)
    | (.error (.fenced v), s) | (.error (.snoop v), s) | (.error (.held v), s) => (.wait (.home v), s)
    | (.error (.demand v _), s) =>
      (if ((s.crew? crew).bind (·.refused)) == some (v / 65536 * 65536) then .trap Cause.pageFault va else .wait (.driver v), s)

/-- A word at issue whose read waits: for the driver, its crew is not ready until the answer (R253); for a fenced quadrant, that its grid
waits is noted (R312). -/
def State.waitIssue (s : State) (i : IssueCtx) (t : Thread) (w : ReadWait) : State :=
  match w with
  | .driver va => (s.postRequest (s.asidOf t) va 0 [] [i.crew]).modIssue (fun i => { i with status := .parked })
  | .home va => match s.noteFenced ((s.gridOf t).map (·.event)) va with
    | some s => s.modIssue (fun i => { i with status := .parked })
    | none => s.modIssue (fun i => { i with status := .stalled })

/-! ### Jobs at issue (R374) -/

/-- What a participant's job comes to at issue: ready, refused or held, or waiting for a read. -/
inductive Prep where
  | ready (card record : Nat) (s : State)
  | stop (v : Verdict)
  | wait (w : ReadWait)

/-- The checks of R374 after the card and record have been read. -/
def State.checkJob (s : State) (t : Thread) (word : Nat) (c : Card) (r : TensorRec) : Verdict :=
  let window := fld (s.asidBlock (s.asidOf t)).cntwin.toNat 16 13
  ((Verdict.require (c.ok word window) Cause.copyCard 0).andThen (c.recordVerdict r)).andThen (s.extentVerdict t.team c r)

/-- R374 for a card address in a thread. -/
def State.prepJob (s : State) (i : IssueCtx) (t : Thread) (word va : Nat) : Prep :=
  let finish := fun (s : State) (c : Card) (r : TensorRec) =>
    match s.checkJob t word c r with
    | .pass => Prep.ready c.bits r.bits s
    | v => .stop v
  if va % 128 ≠ 0 then .stop (.trap Cause.misaligned va)
  else match s.issueRead i.crew (s.asidOf t) va 128 with
    | (.trap c v, _) => .stop (.trap c v)
    | (.wait w, _) => .wait w
    | (.bytes bs, s) =>
      let c : Card := ⟨bytesToNat bs⟩
      match c.recordAt with
      | none => finish s c ⟨0⟩
      | some ra =>
        if ra % 64 ≠ 0 then .stop (.trap Cause.misaligned ra)
        else match s.issueRead i.crew (s.asidOf t) ra 64 with
          | (.trap c v, _) => .stop (.trap c v)
          | (.wait w, _) => .wait w
          | (.bytes bs, s) => finish s c ⟨bytesToNat bs⟩

/-- Room in the task scheduler and, for `cpyq`, in the copy queue, for n jobs (R379, R381). -/
def State.jobRoom (s : State) (t : Thread) (word card n : Nat) : Verdict :=
  let grid := match s.gridOf t with | some g => g.event | none => 0
  let queue := ((s.placeOf t).die, fld (fld card 448 64) 0 2)
  .await (s.schedulerRoom grid n && (word != 1 || decide ((s.jobs.filter (fun j => j.word == 1 && j.queue == queue)).length + n ≤ 64)))

/-- `cpy`, `cpyq`, `gat` (R374, R375, R386). -/
def copyWord (word : Nat) (d a : BitVec 6) (la : BitVec 4) (sb : BitVec 3) (s : State) : Result :=
  let od : Operand := .vv d false
  let oa : Operand := .vv a s.pfx.ua
  let va := fun (i : IssueCtx) (t : Thread) => (oa.val t i.beforeQ).toNat
  let pre := fun (i : IssueCtx) (t : Thread) =>
    ((s.slotVerdict t.id sb.toNat 1).andThen (partialVerdict i.beforeQ t [od, oa] [(oa, 8)])).andThen (verPoison i t)
  match s.ctl.issue with
  | none => .next s
  | some i =>
    let waits := if i.checked then [] else i.parts.filterMap (fun t =>
      if pre i t == .pass then (match s.prepJob i t word (va i t) with | .wait w => some (t, w) | _ => none) else none)
    match waits with
    | w :: _ => .next (s.waitIssue i w.1 w.2)
    | [] => issueWord s .eng
      (fun i t => (pre i t).andThen (match s.prepJob i t word (va i t) with
        | .stop v => v
        | .wait _ => .hold
        | .ready c _ _ => s.jobRoom t word c i.parts.length))
      (fun i ps s => ps.foldl (fun s t => match s.prepJob i t word (va i t) with
        | .ready c r s =>
          let (jid, s) := s.newId
          let fid := s.ctl.nextId
          let s := s.launchFlight i [t.id] la.toNat (some sb.toNat) .eng (.job jid)
          -- the counter add of CNTEN makes the frame not replayable from here on (R140, R381, R388)
          let s := if word = 1 && bit (⟨c⟩ : Card).tail 2 then s.setNrp t.id else s
          s.acceptJob { id := jid, grid := (s.gridOf t).elim 0 (·.event), team := t.team, die := (s.placeOf t).die, word, flight := some fid
                        dst := od.dst i t, card := c, record := r, step := i.beforeStep
                        ver := i.pfx.ver.map (fun _ => verOf i), foot := s.footprint t.team ⟨c⟩ ⟨r⟩ }
        | _ => s) s)

/-- `cpy` (R386). -/
def execCpy (d a : BitVec 6) (la : BitVec 4) (sb : BitVec 3) (s : State) : Result := copyWord 0 d a la sb s
/-- `cpyq` (R381, R386). -/
def execCpyq (d a : BitVec 6) (la : BitVec 4) (sb : BitVec 3) (s : State) : Result := copyWord 1 d a la sb s
/-- `gat` (R386). -/
def execGat (d a : BitVec 6) (la : BitVec 4) (sb : BitVec 3) (s : State) : Result := copyWord 2 d a la sb s

/-- `stage` (R385): once for the crew, after the accesses and jobs of every active member. -/
def execStage (d : BitVec 6) (k : BitVec 14) (s : State) : Result :=
  issueWord s .eng
    (fun i t => (s.waitFor t.id (fun f => f.isAccess || f.isJob)).andThen
      (if d.toNat = 63 then .pass else poisonVerdict t i.beforeQ [] [(8 * d.toNat, 2)]))
    (fun i ps s => match ps with
      | [] => s
      | t :: _ =>
        let n := k.toNat + (if d.toNat = 63 then 0 else fld (i.beforeQ.get d.toNat).toNat 0 16)
        let s := s.modTeam t.team (fun m =>
          let v := m.regs.sched.toNat
          { m with regs := { m.regs with sched := BitVec.ofNat 64 (setFld v 0 16 (max (fld v 0 16) (min n 65535))) } })
        s.releaseSchedule t.team)

end Sys2Proof.Machine
end

