-- ==== Sys2Proof/Machine/FrameWords.lean ====
section
/-! DEFINITION. The words of spec/05 but `launch`: spawning, awaiting, barriers, convergence registers and signing (R148-R159). -/
namespace Sys2Proof.Machine

/-- R148, R279: every load, store, atomic, reduction and remote access issued before has completed. -/
def State.accessesDone (s : State) (tid : Nat) : Verdict := s.waitFor tid Flight.isAccess

/-- A spawn that runs its routine inline (R149): as a call to the entry, the argument in `v0` where the view placed it before the group
(R40, R167). -/
def State.spawnInline (s : State) (i : IssueCtx) (t : Thread) (entry p : Nat) (arg : W64) : State :=
  (s.modThread t.id (fun x =>
    let x := x.write (t.view 0).base (natToBytes 8 arg.toNat)
    let x := x.setPred p false
    x.modCtx (fun c => { c with link := BitVec.ofNat 64 (i.pkt + 1) }))).jump t.id entry 0

/-- What a participant gives its children (R40). -/
def spawnFrom (i : IssueCtx) (t : Thread) : SpawnFrom := { seed := t.ctx.srseed, q := i.beforeQ, step := i.beforeStep }

/-- `spawn` (R149). -/
def execSpawn (d a b : BitVec 6) (s : State) : Result :=
  let oa : Operand := .vv a s.pfx.ua
  let ob : Operand := .vv b s.pfx.ub
  issueWord s .ctl
    (fun i t => ((s.accessesDone t.id).andThen (pendingVerdict t [((t.view 0).base, 8)])).andThen (operandVerdict i.beforeQ t [oa, ob] []))
    (fun i ps s => ps.foldl (fun s t =>
      let entry := (oa.val t i.beforeQ).toNat
      let arg := ob.val t i.beforeQ
      match s.spawnChild (spawnFrom i t) t.id entry arg with
      | some s => s.modThread t.id (·.setPred d.toNat true)
      | none => s.spawnInline i t entry d.toNat arg) s)

/-- Children in ascending order while a spawn would take a record (R150): how many, and the state. -/
def State.spawnMany (s : State) (x : SpawnFrom) (tid entry : Nat) (arg : W64) : Nat → Nat → Nat × State
  | k, 0 => (k, s)
  | k, n + 1 => match s.spawnChild x tid entry (arg + BitVec.ofNat 64 k) with
    | some s => State.spawnMany s x.next tid entry arg (k + 1) n
    | none => (k, s)

/-- `spawnn` (R150). -/
def execSpawnn (d a b : BitVec 6) (s : State) : Result :=
  let od : Operand := .vv d false
  let oa : Operand := .vv a s.pfx.ua
  let ob : Operand := .vv b s.pfx.ub
  let count := fun (i : IssueCtx) (t : Thread) => min (fld (od.val t i.beforeQ).toNat 0 16) 1024
  issueWord s .ctl
    (fun i t => (s.accessesDone t.id).andThen (fieldVerdict i.beforeQ t [od, oa, ob] [(od, 0, 2), (oa, 0, 8), (ob, 0, 8)]))
    (fun i ps s => ps.foldl (fun s t =>
      let n := count i t
      let (k, s) := s.spawnMany (spawnFrom i t) t.id (oa.val t i.beforeQ).toNat (ob.val t i.beforeQ) 0 n
      s.land64 t.id (od.dst i t) (BitVec.ofNat 64 k)) s)

/-- A thread begins to await (R152): it leaves its crew for (P + 1, 0), its record goes to STATE 2. -/
def State.beginAwait (s : State) (i : IssueCtx) (tid threshold : Nat) (p : Option Nat) : State :=
  match s.thread? tid with
  | none => s
  | some t =>
    let now := s.localTime (s.placeOf t).die
    let s := (s.leaveCrew tid).modThread tid (fun t =>
      { t.goto (i.pkt + 1) 0 with status := .awaiting threshold p now, frame := { t.frame with state := 2 } })
    (s.releaseAwait tid).storeFrame tid

/-- `await` (R152). -/
def execAwait (s : State) : Result :=
  issueWord s .ctl (fun _ _ => .pass) (fun i ps s => ps.foldl (fun s t => s.beginAwait i t.id 0 none) s)

/-- `awaitp` (R153). -/
def execAwaitp (d a : BitVec 6) (s : State) : Result :=
  let o : Operand := .vv a s.pfx.ua
  issueWord s .ctl (fun i t => fieldVerdict i.beforeQ t [o] [(o, 0, 2)])
    (fun i ps s => ps.foldl (fun s t => s.beginAwait i t.id (fld (o.val t i.beforeQ).toNat 0 16) (some d.toNat)) s)

/-! ### Barriers (R156) -/

/-- The count that `q`D gives. -/
def barCount (i : IssueCtx) (d : BitVec 6) : Nat := fld (i.beforeQ.get d.toNat).toNat 0 32

/-- The checks of a barrier word: R148, R181 on the count, BAR_COUNT. -/
def barVerdict (s : State) (i : IssueCtx) (t : Thread) (d : BitVec 6) (limit : Nat) : Verdict :=
  ((s.accessesDone t.id).andThen (poisonVerdict t i.beforeQ [] [(8 * d.toNat, 4)])).andThen
    (.require (decide (1 ≤ barCount i d) && decide (barCount i d ≤ limit)) Cause.barCount 0)

/-- A thread's arrival with its mark at that moment. -/
def State.arrivalOf (s : State) (i : IssueCtx) (d : BitVec 6) (t : Thread) : Arrival :=
  { tid := t.id, count := barCount i d, tm := match s.thread? t.id with | some x => x.outMark | none => t.outMark }

/-- `bar`: the team's barrier. -/
def execBar (d : BitVec 6) (n : BitVec 14) (s : State) : Result :=
  issueWord s .ctl (fun i t => barVerdict s i t d 1024)
    (fun i ps s => ps.foldl (fun s t => match s.team? t.team with
      | none => s
      | some m =>
        let (b, out, bad) := (m.bars.getD n.toNat {}).arrive (s.arrivalOf i d t)
        ((s.modTeam m.id (fun m => { m with bars := modAt (fun _ => b) n.toNat m.bars })).setBcmis t bad).releaseAll out) s)

/-- `cbar`: the barrier of the grid's teams on the thread's hardware cluster. -/
def execCbar (d : BitVec 6) (n : BitVec 14) (s : State) : Result :=
  issueWord s .ctl (fun i t => barVerdict s i t d 8192)
    (fun i ps s => ps.foldl (fun s t => match s.gridOf t with
      | none => s
      | some g =>
        let p := s.placeOf t
        let (b, out, bad) := (g.clusterBarrier p n.toNat).arrive (s.arrivalOf i d t)
        ((s.modGrid g.event (fun g => g.setClusterBarrier p n.toNat b)).setBcmis t bad).releaseAll out) s)

/-- `dbar`: the grid's barrier; the arrival is counted on its die and reported by DBAR_DIE_MESSAGE, which finds a differing count. -/
def execDbar (d : BitVec 6) (n : BitVec 14) (s : State) : Result :=
  issueWord s .ctl (fun i t => barVerdict s i t d 524288)
    (fun i ps s => ps.foldl (fun s t => match s.gridOf t with
      | none => s
      | some g =>
        let a := s.arrivalOf i d t
        let b := g.bars.getD n.toNat {}
        let count := if b.count = 0 then a.count else b.count
        let b := { b with count, dies := b.dies ++ [((s.placeOf t).die, a)] }
        s.modGrid g.event (fun g => { g with bars := modAt (fun _ => b) n.toNat g.bars })) s)

/-! ### Convergence registers (R157-R159) -/

/-- A convergence register of a thread's team. -/
def State.cv (s : State) (t : Thread) (n : Nat) : Cv := match s.team? t.team with | some m => m.cvs.getD n {} | none => {}

/-- A convergence register changed. -/
def State.modCv (s : State) (team n : Nat) (f : Cv → Cv) : State := s.modTeam team (fun m => { m with cvs := modAt f n m.cvs })

/-- Whether a `cvdecl` repeats the declaration that a register holds. -/
def Cv.repeats (c : Cv) (mask : BitVec 32) (base : Nat) : Bool := c.decl && c.mask == mask && c.base == base

/-- `cvdecl` (R158). -/
def execCvdecl (d a : BitVec 6) (base : BitVec 8) (s : State) : Result :=
  let mask := fun (i : IssueCtx) => BitVec.ofNat 32 (i.beforeQ.get a.toNat).toNat
  issueWord s .ctl
    (fun i t =>
      let c := s.cv t d.toNat
      (poisonVerdict t i.beforeQ [] [(8 * a.toNat, 4)]).andThen
        (.require (c.signed == 0 || c.repeats (mask i) base.toNat) Cause.cvBusy 0))
    (fun i ps s => ps.foldl (fun s t =>
      s.modCv t.team d.toNat (fun c =>
        if c.signed != 0 then c
        else if mask i == 0 then {}
        else { mask := mask i, base := base.toNat, decl := true })) s)

/-- The MXU word that a `sign` at word index k of the group signs. -/
def IssueCtx.signedWord (i : IssueCtx) : W32 :=
  ((i.words.drop (i.word - i.entry + 1)).find? (fun w => pipeOfOp (wordOp w) == some .mxu)).getD 0

/-- A thread's place among the 32 members of a register's group; none outside it. -/
def Cv.memberOf (c : Cv) (t : Thread) : Option Nat :=
  if decide (32 * c.base ≤ t.index) && decide (t.index < 32 * c.base + 32) && c.decl && c.mask.getLsbD (t.index - 32 * c.base)
  then some (t.index - 32 * c.base) else none

/-- `sign` (R159): the member signs; the MXU word tied to it captures and, with the last member, issues. -/
def execSign (cv : BitVec 6) (s : State) : Result :=
  issueWord s .ctl
    (fun i t =>
      let c := s.cv t cv.toNat
      match c.memberOf t with
      | none => .trap Cause.signNotMember 0
      | some k =>
        if c.signed.getLsbD k then .hold
        else .require (c.signed == 0 || c.word == i.signedWord) Cause.signMismatch 0)
    (fun i ps s => ps.foldl (fun s t =>
      s.modCv t.team cv.toNat (fun c => match c.memberOf t with
        | none => c
        | some k => { c with word := if c.signed == 0 then i.signedWord else c.word, signed := c.signed ||| BitVec.ofNat 32 (2 ^ k) })) s)

end Sys2Proof.Machine
end

