-- ==== Sys2Proof/Machine/MatrixOps.lean ====
section
/-! DEFINITION. The arithmetic of the matrix unit: tiles and their images, products, the epilogue, the solving words (spec/13 R341,
R342, R348, R353, R357, R360, R362-R365; spec/03 R75, R77, R96-R101). -/
namespace Sys2Proof.Machine

/-! ### Images (R341, R342) -/

/-- A list cut into runs of n; the fuel is a bound on their number. -/
def splitEvery {α : Type} (n : Nat) : Nat → List α → List (List α)
  | 0, _ => []
  | k + 1, l => if l.isEmpty then [] else l.take n :: splitEvery n k (l.drop n)

/-- The elements of an image in a format (R79). -/
def elemsOf (f : Nat) (bs : List Byte) : List Nat :=
  if fmtBits f = 4 then bs.flatMap (fun b => [b.toNat % 16, b.toNat / 16])
  else (splitEvery (fmtBits f / 8) bs.length bs).map bytesToNat

/-- The image of elements in a format. -/
def imageOf (f : Nat) (es : List Nat) : List Byte :=
  if fmtBits f = 4 then (splitEvery 2 es.length es).map (fun p => BitVec.ofNat 8 (p.headD 0 % 16 + 16 * (p.getD 1 0 % 16)))
  else es.flatMap (natToBytes (fmtBits f / 8))

/-- Rows of n elements. -/
def rowsOf (n : Nat) (es : List Nat) : List (List Nat) := splitEvery n es.length es

/-- Rows and columns of C, depth K, accumulator format and group G of an element format (R341, R96-R98). -/
def tileDim (f : Nat) : Nat := if f ≤ 2 then 16 else 32
def tileDepth : Nat → Nat
  | 1 => 4 | 2 => 16 | 3 => 8 | 4 => 8 | 5 => 16 | 6 => 16 | _ => 32
def accFmt (f : Nat) : Nat := if f = 1 then 1 else 2
def groupSize (f : Nat) : Nat := if f ≤ 2 then 4 else min 16 (tileDepth f)
/-- Slice sizes of A and B, and of C (R341). -/
def sliceAB (f : Nat) : Nat := tileDim f * tileDepth f * fmtBits f / 256
def sliceC (f : Nat) : Nat := tileDim f * tileDim f * fmtBits (accFmt f) / 256

/-! ### Products (R96-R101) -/

/-- A datum as the datum of its exact value. -/
def scaled (x : Exact) (ks : List FpVal) : Exact := ks.foldl (fun x k => fpMul x.toVal k) x

/-- One accumulator taking one group of products, each with the scales. -/
def groupSum (acc : Nat) (ks : List FpVal) (b : Nat) (ps : List (FpVal × FpVal)) : Nat :=
  (roundTo acc 0 false 0 (exactSum false ((fpDecode acc b).exact :: ps.map (fun p => scaled (fpMul p.1 p.2) ks)))).bits

/-- One element of a product: a row of A, a column of B, groups in ascending order. -/
def productElem (f : Nat) (ks : List FpVal) (c : Nat) (a b : List FpVal) : Nat :=
  (splitEvery (groupSize f) a.length (a.zip b)).foldl (groupSum (accFmt f) ks) c

/-- The scales of row i and column j. -/
structure TileScales where
  row : Nat → List FpVal
  col : Nat → List FpVal

/-- No scales. -/
def TileScales.one : TileScales := ⟨fun _ => [], fun _ => []⟩

/-- A product over images: rows lo to hi - 1 of C (R348, R357). -/
def product (f : Nat) (k : TileScales) (lo hi : Nat) (a b c : List Byte) : List (List Nat) :=
  let d := tileDepth f
  let as := (rowsOf d (elemsOf f a)).map (List.map (fpDecode f))
  let bs := (rowsOf d (elemsOf f b)).map (List.map (fpDecode f))
  let cs := rowsOf (tileDim f) (elemsOf (accFmt f) c)
  (List.range cs.length).map (fun i =>
    let row := cs.getD i []
    if i < lo ∨ hi ≤ i then row
    else (List.range row.length).map (fun j => productElem f (k.row i ++ k.col j) (row.getD j 0) (as.getD i []) (bs.getD j [])))

/-- An E8M2 scale (R75). -/
def e8m2 (v : Nat) : FpVal :=
  let e := fld v 2 8
  if e = 255 then .nan false else .fin false (4 + fld v 0 2) ((e : Int) - 129)

/-- C after a span ends under coarse scaling (R100). -/
def spanEnd (c p : List (List Nat)) (sa : Nat → FpVal) (sw : FpVal) : List (List Nat) :=
  (List.range c.length).map (fun i =>
    let cr := c.getD i []
    (List.range cr.length).map (fun j =>
      groupSum 2 [sa i, sw] (cr.getD j 0) [(fpDecode 2 ((p.getD i []).getD j 0), .fin false 1 0)]))

/-- NAN and INF of result elements (R347). -/
def statusOf (f : Nat) (es : List Nat) : Nat :=
  let vs := es.map (fpDecode f)
  let isInf := fun (v : FpVal) => match v with | .inf _ => true | _ => false
  (vs.any FpVal.isNaN).toNat * 4 + (vs.any isInf).toNat * 8

/-! ### The epilogue (R360, R362) -/

/-- Fields of an epilogue slot. -/
structure EpiSlot where
  scale : Nat
  route : Bool
  bias : Bool
  boff : Nat
  sat : Bool
  dfmt : Nat
  rm : Nat
  act : Nat
  deriving DecidableEq, Repr

/-- An epilogue slot decoded. -/
def epiSlot (v : W64) : EpiSlot :=
  let n := v.toNat
  { scale := fld n 32 32, route := bit n 31, bias := bit n 30, boff := fld n 17 13, sat := bit n 16, dfmt := fld n 12 4, rm := fld n 9 3, act := fld n 0 3 }

/-- The output format of a slot over an accumulator format. -/
def EpiSlot.out (e : EpiSlot) (acc : Nat) : Nat := if e.dfmt = 0 then acc else e.dfmt

/-- Whether a slot's fields and its output slice are valid (R360, R362), ADDR apart. -/
def EpiSlot.ok (e : EpiSlot) (acc dim : Nat) : Bool :=
  decide (e.act ≤ 2) && decide (e.dfmt ≤ 7) && decide (e.rm ≤ 5) && (decide (e.rm ≤ 3) || isNarrowFmt e.dfmt)
    && decide (dim * dim * fmtBits (e.out acc) / 256 ≤ 128)

/-- The activation of an exact value. -/
def activate (act : Nat) (x : Exact) : Exact :=
  if act = 0 then x
  else
    let six := Exact.num false 6 0 false
    let x := match x with
      | .num n m e k => if n then .zero false else .num n m e k
      | .inf n => if n then .zero false else .inf false
      | .nan i => .nan i
    if act = 1 then x
    else match x with
      | .inf _ => six
      | .num _ m e _ => if dyLt 6 0 m e then six else x
      | .nan i => .nan i

/-- Whether an exact value is infinite. -/
def Exact.isInf : Exact → Bool
  | .inf _ => true
  | _ => false

/-- One element of the epilogue: its bits, and whether it sets SAT. -/
def epiElem (e : EpiSlot) (acc : Nat) (bias : Option Nat) (g c : Nat) : Nat × Bool :=
  let x := fpMul (fpDecode acc c) (fpDecode 2 e.scale)
  let x := match bias with | some b => exactSum (e.rm == 3) [x, (fpDecode acc b).exact] | none => x
  let x := activate e.act x
  let f := e.out acc
  let r := roundTo f e.rm e.sat g x
  let finite := match fpDecode f r.bits with | .fin _ _ _ => true | _ => false
  (r.bits, finite && (r.flags.ov || x.isInf))

/-- The epilogue of one rank's slice: elements from index `first`, `dim` to a row, drawing from a generator: results, SAT,
the generator after. -/
def epiSlice (e : EpiSlot) (acc dim first : Nat) (bias : Option (List Nat)) (seed : BitVec 32) (cs : List Nat) : List Nat × Bool × BitVec 32 :=
  (List.range cs.length).foldl (fun (r : List Nat × Bool × BitVec 32) k =>
    let sd := if e.rm = 5 then srStep r.2.2 else r.2.2
    let y := epiElem e acc (bias.map (fun b => b.getD ((first + k) % dim) 0)) (srDraw sd) (cs.getD k 0)
    (r.1 ++ [y.1], r.2.1 || y.2, sd)) ([], false, seed)

/-! ### Solving (R363-R365) -/

/-- The quiet NaN of FP64. -/
def qNaN64 : Nat := 0x7FF8000000000000

/-- A matrix of FP64 bits. -/
abbrev Mat := List (List Nat)
def Mat.at (t : Mat) (i j : Nat) : Nat := (t.getD i []).getD j 0
def Mat.put (t : Mat) (i j v : Nat) : Mat := modAt (modAt (fun _ => v) j) i t

/-- The datum of FP64 bits. -/
def d64 (b : Nat) : FpVal := fpDecode 1 b

/-- t minus exact products, rounded once. -/
def minusProducts (t : Nat) (ps : List (Nat × Nat)) : Nat :=
  (roundTo 1 0 false 0 (exactSum false ((d64 t).exact :: ps.map (fun p => fpMul (d64 p.1).negate (d64 p.2))))).bits

/-- One column of `mchol.d`: L and whether a pivot has failed. -/
def cholColumn (t : Mat) (st : Mat × Bool) (j : Nat) : Mat × Bool :=
  let l := st.1
  let s := minusProducts (t.at j j) ((List.range j).map (fun k => (l.at j k, l.at j k)))
  let fail := st.2 || (d64 s).isNaN || !fpLess (.fin false 0 0) (d64 s)
  let below := (List.range 16).filter (fun i => decide (j < i))
  if fail then (((j :: below).foldl (fun l i => l.put i j qNaN64) l), true)
  else
    let p := sqrtF 1 (d64 s)
    (below.foldl (fun l i =>
      let u := minusProducts (t.at i j) ((List.range j).map (fun k => (l.at i k, l.at j k)))
      l.put i j (divF 1 (d64 u) (d64 p))) (l.put j j p), false)

/-- `mchol.d` (R363): L and PIVOT. -/
def cholesky (t : Mat) : Mat × Bool :=
  (List.range 16).foldl (cholColumn t) (List.replicate 16 (List.replicate 16 0), false)

/-- Magnitude of a datum. -/
def absVal : FpVal → FpVal
  | .nan s => .nan s
  | .inf _ => .inf false
  | .fin _ m e => .fin false m e

/-- The pivot row of a column: the largest magnitude at or below j, lowest on equality; none where it fails. -/
def pivotRow (t : Mat) (j : Nat) : Option Nat :=
  let rows := (List.range 16).filter (fun i => decide (j ≤ i))
  if rows.any (fun i => (d64 (t.at i j)).isNaN) then none
  else
    let p := rows.foldl (fun p i => if fpLess (absVal (d64 (t.at p j))) (absVal (d64 (t.at i j))) then i else p) j
    if (d64 (t.at p j)).isZero then none else some p

/-- Elements p and j of a list exchanged. -/
def swapAt {α : Type} (p j : Nat) (l : List α) : List α :=
  (List.range l.length).filterMap (fun i => l[if i = p then j else if i = j then p else i]?)

/-- One column of `mlu.d`: tile, permutation, whether a pivot has failed. -/
def luColumn (st : Mat × List Nat × Bool) (j : Nat) : Mat × List Nat × Bool :=
  let (t, perm, fail) := st
  match if fail then none else pivotRow t j with
  | none => ((List.range 16).foldl (fun t i => t.put i j qNaN64) t, perm, true)
  | some p =>
    let t : Mat := swapAt p j t
    let perm := swapAt p j perm
    let t := ((List.range 16).filter (fun i => decide (j < i))).foldl (fun t i =>
      let l := divF 1 (d64 (t.at i j)) (d64 (t.at j j))
      ((List.range 16).filter (fun k => decide (j < k))).foldl (fun t k => t.put i k (minusProducts (t.at i k) [(l, t.at j k)])) (t.put i j l)) t
    (t, perm, false)

/-- `mlu.d` (R364): the factors, the permutation, PIVOT. -/
def luFactor (t : Mat) : Mat × List Nat × Bool := (List.range 16).foldl luColumn (t, List.range 16, false)

/-- `mtrsm.d` (R365): X and PIVOT. -/
def triSolve (upper unit tr : Bool) (t b : Mat) : Mat × Bool :=
  let e := fun i k => if tr then t.at k i else t.at i k
  let order := if upper == tr then List.range 16 else (List.range 16).reverse
  let r := order.foldl (fun (st : Mat × Bool × List Nat) i =>
    let (x, fail, done) := st
    let fail := !unit && (fail || (d64 (e i i)).isZero || (d64 (e i i)).isNaN)
    let x := (List.range 16).foldl (fun x j =>
      let v := if fail then qNaN64
        else
          let u := minusProducts (b.at i j) (done.map (fun k => (e i k, x.at k j)))
          if unit then u else divF 1 (d64 u) (d64 (e i i))
      x.put i j v) x
    (x, fail, done ++ [i])) (List.replicate 16 (List.replicate 16 0), false, [])
  (r.1, r.2.1)

end Sys2Proof.Machine
end

