-- ==== Sys2Proof/Machine/Matrix.lean ====
section
/-! DEFINITION. The matrix unit and its operand buffer: captures, generations, routed tiles, reservations, `mobl`, `mld`, `mst`
(spec/13 R341-R365; spec/17 R457). Slices are numbered: 0 A, 1 + g B of group g, 9 + g C of group g, 17 the partial sums. -/
namespace Sys2Proof.Machine

/-! ### Reservations (R349-R353) -/

/-- A field of a reservation record (R350). -/
def recSize (r0 : W64) : Nat := fld r0.toNat 32 16
def recStyle (r0 : W64) : Nat := fld r0.toNat 10 2
def recRole (r0 : W64) : Nat := fld r0.toNat 9 1
def recFmt (r0 : W64) : Nat := fld r0.toNat 4 4
def recSoff (r1 : W64) : Nat := fld r1.toNat 0 16

/-- T of a record: the tiles of its range. -/
def recTiles (r0 r1 : W64) : Nat := 128 * (if recStyle r0 = 0 then recSize r0 else recSoff r1) / 512

/-- The bytes that a scale area must hold. -/
def scaleNeed (r0 r1 : W64) : Nat :=
  let n := recTiles r0 r1 * tileDepth (recFmt r0)
  match recStyle r0 with
  | 0 => 0
  | 1 => 64 * ((n + 31) / 32)
  | _ => (if recRole r0 = 0 then 128 else 4) * ((n + 127) / 128)

/-- Whether a record is valid (R350). -/
def recValid (r0 r1 : W64) : Bool :=
  let a := r0.toNat
  let style := recStyle r0
  fld a 48 16 == 0 && fld a 24 8 == 0 && fld a 12 4 == 0 && !bit a 8 && fld a 0 4 == 0 && fld r1.toNat 16 48 == 0
    && decide (style ≤ 2) && fld a 16 8 == (match style with | 0 => 0 | 1 => 32 | _ => 128)
    && decide (3 ≤ recFmt r0) && decide (recFmt r0 ≤ 7) && decide (4 ≤ recSize r0) && decide (recSize r0 ≤ 2048)
    && (style != 0 || recSoff r1 == 0) && decide (1 ≤ recTiles r0 r1)
    && (style == 0 || (recSoff r1 % 4 == 0 && decide (recSoff r1 < recSize r0)
      && decide (128 * recSoff r1 + scaleNeed r0 r1 ≤ 128 * recSize r0)))

def Handle.style (h : Handle) : Nat := recStyle h.rec0
def Handle.fmt (h : Handle) : Nat := recFmt h.rec0
def Handle.tiles (h : Handle) : Nat := recTiles h.rec0 h.rec1

/-- A handle of a team. -/
def Team.handle (m : Team) (n : Nat) : Option Handle := m.handles.getD n none

/-- A handle's range changed. -/
def State.modHandle (s : State) (team n : Nat) (f : Handle → Handle) : State :=
  s.modTeam team (fun m => { m with handles := modAt (fun h => h.map f) n m.handles })

/-- Cursors advanced (R353). -/
def State.advance (s : State) (team : Nat) (hs : List Nat) : State :=
  hs.foldl (fun s n => s.modHandle team n (fun h => { h with cursor := (h.cursor + 1) % max 1 h.tiles })) s

/-- The image of the tile at a handle's cursor. -/
def Handle.image (h : Handle) : List Byte := h.bytes.readN (512 * h.cursor) 512

/-- Where a handle's scale of row or column i lies at its cursor, and its bytes (R353). -/
def Handle.scaleAt (h : Handle) (i : Nat) : Nat × Nat :=
  let k := h.cursor * tileDepth h.fmt
  let sb := 128 * recSoff h.rec1
  match h.style with
  | 1 => (sb + 64 * (k / 32) + 2 * i, 2)
  | _ => (if recRole h.rec0 = 0 then sb + 4 * (32 * (k / 128) + i) else sb + 4 * (k / 128), 4)

/-- The scale of row or column i. -/
def Handle.scale (h : Handle) (i : Nat) : List FpVal :=
  match h.style with
  | 0 => []
  | 1 => [e8m2 (h.bytes.readNat (h.scaleAt i).1 2)]
  | _ => [fpDecode 2 (h.bytes.readNat (h.scaleAt i).1 4)]

/-- Whether a byte that a generation reads of a range is poisoned. -/
def Handle.bad (h : Handle) : Bool :=
  (lowestMarked h.poison (512 * h.cursor) 512).isSome
    || (h.style != 0 && (List.range 32).any (fun i => (lowestMarked h.poison (h.scaleAt i).1 (h.scaleAt i).2).isSome))

/-- Whether the tile at a handle's cursor ends a span (R353). -/
def Handle.endsSpan (h : Handle) : Bool := (h.cursor + 1) * tileDepth h.fmt % 128 == 0 || h.cursor + 1 == h.tiles

/-- NG of `cr.mgrp` (R356), which may be above 8; the groups, none where NG is; their counts. -/
def Team.ng (m : Team) : Nat := fld m.regs.mgrp.toNat 48 4
def Team.groups (m : Team) : Nat := if m.ng ≤ 8 then m.ng else 0
def Team.groupCount (m : Team) (g : Nat) : Nat := fld m.regs.mgrp.toNat (6 * g) 6

/-- The handles that a set-level word names. -/
def SetWord.handles (w : SetWord) (m : Team) : List Nat :=
  if w.m = 0 then []
  else match w.op with
    | .mma => dedup [w.a, w.b]
    | .mmg => dedup (w.a :: ((List.range m.ng).map (· + w.b)).filter (fun n => decide (n ≤ 15)))
    | _ => []

/-! ### Captures (R344, R345) -/

/-- What a word reads and writes in a member: slices (number, offset, bytes), ranges that it names to write (of the last it may leave
bytes as they are, R364), ROUTE. -/
structure CapPlan where
  reads : List (Nat × Nat × Nat) := []
  writes : List (Nat × Nat) := []
  route : Bool := false
  deriving DecidableEq, Repr

/-- The offset of fragment f of VT (1) or VA (2). -/
def fragment (t : Thread) (view f : Nat) : Nat := (t.view view).base + 128 * f

/-- The plan of a word's capture in a member of a team. -/
def SetWord.plan (w : SetWord) (m : Team) (t : Thread) : CapPlan :=
  let ab := sliceAB w.efmt
  let sc := sliceC w.efmt
  let cFrag := fun f => (fragment t 2 f, sc)
  match w.op with
  | .mma =>
    let coarse := w.m == 1 && (match m.handle w.a with | some h => h.style == 2 | none => false) && decide (w.c ≤ 14)
    let inputs := if w.m = 0 then [(0, fragment t 1 w.a, ab), (1, fragment t 1 w.b, ab)] else []
    { reads := inputs ++ [(9, fragment t 2 w.c, sc)] ++ (if coarse then [(17, fragment t 2 (w.c + 1), sc)] else [])
      writes := cFrag w.c :: (if coarse then [cFrag (w.c + 1)] else []) }
  | .mmg =>
    let gs := (List.range m.groups).filter (fun g => decide (w.c + g ≤ 15))
    let bs := if w.m = 0 then ((List.range m.groups).filter (fun g => decide (w.b + g ≤ 15))).map (fun g => (1 + g, fragment t 1 (w.b + g), ab)) else []
    { reads := (if w.m = 0 then [(0, fragment t 1 w.a, ab)] else []) ++ bs ++ gs.map (fun g => (9 + g, fragment t 2 (w.c + g), sc))
      writes := gs.map (fun g => cFrag (w.c + g)) }
  | .mzero => { writes := (fragment t 2 w.c, 128) :: (if w.m = 1 then [(fragment t 2 (w.c + 1), 128)] else []) }
  | .mepi =>
    let route := (epiSlot (m.regs.mepi.getD w.b 0)).route
    { reads := [(9, fragment t 2 w.a, sc)], route
      writes := if !route && w.c % 4 == 0 then [(fragment t 1 (w.c / 4), 128)] else [] }
  | .chol => { reads := [(9, fragment t 2 w.c, sc)], writes := [cFrag w.c] }
  | .lu => { reads := [(9, fragment t 2 w.c, sc)], writes := [cFrag w.c, (fragment t 1 w.a, 128)] }
  | .trsm => { reads := [(9, fragment t 2 w.c, sc), (0, fragment t 2 w.a, sc)], writes := [cFrag w.c] }

/-- The checks of a capture: R345, R164, R181. -/
def CapPlan.verdict (p : CapPlan) (t : Thread) : Verdict :=
  let rd := p.reads.map (fun r => (r.2.1, r.2.2))
  ((pendingVerdict t (rd ++ p.writes)).andThen (rangeVerdict t (rd ++ p.writes))).andThen (poisonVerdict t {} rd [])

/-- A member's capture. -/
def CapPlan.capture (p : CapPlan) (t : Thread) (rank flight : Nat) : Capture :=
  { rank, tid := t.id, flight, slices := p.reads.map (fun r => (r.1, t.win.readN r.2.1 r.2.2)), dsts := p.writes, route := p.route }

/-- The image of a slice number over the captures of a generation (R342). -/
def imageFrom (caps : List Capture) (key size : Nat) : List Byte :=
  (List.range 32).flatMap (fun r =>
    match caps.find? (fun c => c.rank == r) with
    | some c => match c.slices.find? (fun x => x.1 == key) with
      | some x => x.2
      | none => List.replicate size 0
    | none => List.replicate size 0)

/-! ### Generations (R346) -/

/-- What a generation comes to: a failure, or results as images with their slice sizes in the order of the captures'
ranges, status, tiles, generators after. -/
structure GenOut where
  merr : Option Nat := none
  images : List (List Byte × Nat) := []
  status : Nat := 0
  tiles : List (Nat × List Byte) := []
  seeds : List (Nat × BitVec 32) := []

/-- The lowest of the codes that fail. -/
def merrOf (cs : List (Bool × Nat)) : Option Nat := minNat? ((cs.filter (·.1)).map (·.2))

/-- The checks of R348 of a pair of handles for an element format. -/
def handleChecks (f : Nat) (a b : Option Handle) : List (Bool × Nat) :=
  match a, b with
  | some x, some y =>
    [(!(recRole x.rec0 == 0 && recRole y.rec0 == 1 && x.fmt == f && y.fmt == f), 2), (!(y.style == x.style || y.style == 0), 2), (x.bad || y.bad, 8)]
  | _, _ => [(true, 1)]

/-- The bias vector of a slot: its offset and bytes for an accumulator format. -/
def biasRange (e : EpiSlot) (f : Nat) : Nat × Nat := (128 * e.boff, tileDim f * fmtBits (accFmt f) / 8)

/-- Whether a bias vector cannot be read (MERR 6). -/
def biasBad (x : Scratch) (e : EpiSlot) (f : Nat) : Bool :=
  let r := biasRange e f
  e.bias && (decide (x.size < r.1 + r.2) || x.bad r.1 r.2)

/-- The epilogue of a C image: output image, status, generators after; drawing in each rank from the given ones. -/
def epilogue (e : EpiSlot) (f : Nat) (x : Scratch) (seeds : List (Nat × BitVec 32)) (c : List Byte) : List Byte × Nat × List (Nat × BitVec 32) :=
  let acc := accFmt f
  let per := tileDim f * tileDim f / 32
  let bias := if e.bias then some (elemsOf acc (x.bytes.readN (biasRange e f).1 (biasRange e f).2)) else none
  let es := elemsOf acc c
  let rs := (List.range 32).map (fun r =>
    let seed := match seeds.find? (fun y => y.1 == r) with | some y => y.2 | none => 0
    (r, epiSlice e acc (tileDim f) (r * per) bias seed ((es.drop (r * per)).take per)))
  let out := rs.flatMap (fun r => r.2.1)
  (imageOf (e.out acc) out, statusOf (e.out acc) out + (rs.any (fun r => r.2.2.1)).toNat * 16,
   seeds.map (fun y => (y.1, match rs.find? (fun r => r.1 == y.1) with | some r => r.2.2.2 | none => y.2)))

/-- A product generation (R348). -/
def genMma (w : SetWord) (m : Team) (caps : List Capture) : GenOut :=
  let f := w.efmt
  let c := imageFrom caps 9 (sliceC f)
  let finish := fun (k : TileScales) (a b : List Byte) =>
    let r := (product f k 0 (tileDim f) a b c).flatten
    ({ images := [(imageOf (accFmt f) r, sliceC f)], status := statusOf (accFmt f) r } : GenOut)
  if w.m = 0 then finish .one (imageFrom caps 0 (sliceAB f)) (imageFrom caps 1 (sliceAB f))
  else
    let ha := m.handle w.a
    let hb := m.handle w.b
    let coarse := match ha with | some h => h.style == 2 | none => false
    match merrOf (handleChecks f ha hb ++ [(coarse && decide (14 < w.c), 7)]), ha, hb with
    | none, some a, some b =>
      if !coarse then finish ⟨a.scale, b.scale⟩ a.image b.image
      else
        let p := product f .one 0 (tileDim f) a.image b.image (imageFrom caps 17 (sliceC f))
        let cm := rowsOf (tileDim f) (elemsOf 2 c)
        let one := FpVal.fin false 1 0
        let ends := a.endsSpan
        let r := (if ends then spanEnd cm p (fun i => (a.scale i).headD one) ((b.scale 0).headD one) else cm).flatten
        let p := if ends then p.flatten.map (fun _ => 0) else p.flatten
        { images := [(imageOf 2 r, sliceC f), (imageOf 2 p, sliceC f)], status := statusOf 2 r }
    | e, _, _ => { merr := e }

/-- The row ranges of the groups of `mmg` (R357): group, first row, row after; and whether they exceed the tile. -/
def groupRows (m : Team) : List (Nat × Nat × Nat) × Bool :=
  let r := (List.range m.groups).foldl (fun (st : List (Nat × Nat × Nat) × Nat) g =>
    let n := st.2 + m.groupCount g
    (st.1 ++ [(g, min st.2 32, min n 32)], n)) ([], 0)
  (r.1, decide (32 < r.2))

/-- A grouped product (R357). -/
def genMmg (w : SetWord) (m : Team) (caps : List Capture) (x : Scratch) (seeds : List (Nat × BitVec 32)) : GenOut :=
  let f := w.efmt
  let ng := m.ng
  let epi := bit m.regs.mgrp.toNat 55
  let e := epiSlot (m.regs.mepi.getD (fld m.regs.mgrp.toNat 52 3) 0)
  let ha := m.handle w.a
  let hb := fun g => m.handle (w.b + g)
  let rows := groupRows m
  let reads := fun (g : Nat) => rows.1.any (fun r => r.1 == g && decide (r.2.1 < r.2.2))
  let buffer := if w.m = 0 then []
    else ((List.range ng).filter (fun g => decide (w.b + g ≤ 15))).flatMap (fun g =>
        (handleChecks f ha (hb g)).filter (fun c => c.2 != 8 || reads g) ++ [((match hb g with | some h => h.style == 2 | none => false), 7)])
      ++ (match ha with | some h => [(!(recRole h.rec0 == 0 && h.fmt == f), 2), (h.style == 2, 7)] | none => [(true, 1)])
  let beyond := decide (15 + 1 < w.c + ng) || decide (15 + 1 < w.b + ng)
  let slot := if epi then [(!e.route, 5), (!e.ok (accFmt f) (tileDim f) || (e.route && m.regs.mroute.toNat % 128 != 0), 4), (biasBad x e f, 6)] else []
  match merrOf ([(ng == 0 || decide (8 < ng), 5), (beyond, 3)] ++ buffer ++ slot) with
  | some c => { merr := some c }
  | none =>
    let a := match ha with | some h => if w.m = 0 then imageFrom caps 0 (sliceAB f) else h.image | none => imageFrom caps 0 (sliceAB f)
    let out := rows.1.foldl (fun (o : GenOut) g =>
      let c := imageFrom caps (9 + g.1) (sliceC f)
      -- an empty group writes nothing back
      if g.2.1 = g.2.2 then { o with images := o.images ++ [([], 0)] }
      else
        let k : TileScales := match ha, hb g.1 with
          | some p, some q => if w.m = 0 then .one else ⟨p.scale, q.scale⟩
          | _, _ => .one
        let b := match hb g.1 with | some h => if w.m = 0 then imageFrom caps (1 + g.1) (sliceAB f) else h.image | none => imageFrom caps (1 + g.1) (sliceAB f)
        let r := product f k g.2.1 g.2.2 a b c
        let img := imageOf (accFmt f) r.flatten
        let st := statusOf (accFmt f) (((r.drop g.2.1).take (g.2.2 - g.2.1)).flatten)
        let o := { o with images := o.images ++ [(img, sliceC f)], status := o.status ||| st }
        if !epi then o
        else
          let y := epilogue e f x o.seeds img
          { o with tiles := o.tiles ++ [(g.1, y.1)], status := o.status ||| y.2.1, seeds := y.2.2 }) { seeds }
    { out with status := out.status + rows.2.toNat }

/-- `mepi` (R362). -/
def genMepi (w : SetWord) (m : Team) (caps : List Capture) (x : Scratch) (seeds : List (Nat × BitVec 32)) : GenOut :=
  let f := w.efmt
  let e := epiSlot (m.regs.mepi.getD w.b 0)
  let bad := !e.ok (accFmt f) (tileDim f) || (e.route && m.regs.mroute.toNat % 128 != 0) || caps.any (fun c => c.route != e.route)
  match merrOf [(!e.route && w.c % 4 != 0, 3), (bad, 4), (biasBad x e f, 6)] with
  | some c => { merr := some c }
  | none =>
    let y := epilogue e f x seeds (imageFrom caps 9 (sliceC f))
    if e.route then { tiles := [(w.c, y.1)], status := y.2.1, seeds := y.2.2 }
    else { images := [(y.1, y.1.length / 32)], status := y.2.1, seeds := y.2.2 }

/-- A solving word's result: an FP64 tile, PIVOT, what follows it. -/
def genSolve (t : Mat) (pivot : Bool) (more : List (List Byte × Nat)) : GenOut :=
  { images := (imageOf 1 t.flatten, 64) :: more, status := statusOf 1 t.flatten + pivot.toNat * 2 }

/-- A generation over its captures. -/
def SetWord.run (w : SetWord) (m : Team) (caps : List Capture) (x : Scratch) (seeds : List (Nat × BitVec 32)) : GenOut :=
  let mat := fun key => rowsOf 16 (elemsOf 1 (imageFrom caps key 64))
  match w.op with
  | .mma => genMma w m caps
  | .mmg => genMmg w m caps x seeds
  | .mzero => { images := List.replicate 2 (List.replicate 4096 0, 128) }
  | .mepi => genMepi w m caps x seeds
  | .chol => let r := cholesky (mat 9); genSolve r.1 r.2 []
  | .lu =>
    let r := luFactor (mat 9)
    genSolve r.1 r.2.2 [((List.replicate 32 (natToBytes 8 (pack 4 r.2.1))).flatten, 8)]
  | .trsm => let r := triSolve (w.m == 1) (bit w.b 0) (bit w.b 1) (mat 0) (mat 9); genSolve r.1 r.2 []

/-- The slot whose bias a generation reads. -/
def SetWord.biasSlot (w : SetWord) (m : Team) : Option EpiSlot :=
  match w.op with
  | .mepi => some (epiSlot (m.regs.mepi.getD w.b 0))
  | .mmg => if bit m.regs.mgrp.toNat 55 then some (epiSlot (m.regs.mepi.getD (fld m.regs.mgrp.toNat 52 3) 0)) else none
  | _ => none

/-- Whether a generation must wait for bias lines (R362). -/
def biasAbsent (w : SetWord) (m : Team) (x : Scratch) : Bool :=
  match w.biasSlot m with
  | some e => e.bias && !biasBad x e w.efmt && (linesOf (biasRange e w.efmt).1 (biasRange e w.efmt).2).any x.absent.contains
  | none => false

/-- A generation changed. -/
def State.modGen (s : State) (g : Nat) (f : Gen → Gen) : State := { s with gens := modFirst (fun x => x.id == g) f s.gens }

/-- The bytes that a `mobl` under way would land, unless its source stops it. -/
def State.moblBytes (s : State) (t : Thread) (lines src : Nat) (scratch : Bool) : Option (List Byte) :=
  if scratch then some ((s.scr (fld src 32 2) (s.scrOwner t (fld src 32 2))).bytes.readN (fld src 0 32) (128 * lines))
  else match (s.engineRead (s.asidOf t) src (128 * lines)).1 with | .ok bs => some bs | .error _ => none

/-- A team as a generation reads its ranges: where a `mobl` is still writing, each byte is old or new (R354). -/
def State.racing (s : State) (m : Team) : Team :=
  s.flights.foldl (fun (m : Team) f => match f.kind, f.stage, f.tids.head?.bind s.thread? with
    | .mobl h off lines src scratch, .start, some t =>
      if t.team != m.id then m
      else match s.moblBytes t lines src scratch with
        | some bs => { m with handles := modAt (fun x => x.map (fun x =>
            { x with bytes := x.bytes.writeN off (mixBytes s.ctl.fresh f.id off (x.bytes.readN off bs.length) bs) })) h m.handles }
        | none => m
    | _, _, _ => m) m

/-- A generation issues where its bias lines are present: its results are computed, generators step, a counted tile sets NRP
(R346, R361, R362). -/
def State.tryGen (s : State) (gid : Nat) : State :=
  match s.gen? gid with
  | none => s
  | some g => match s.team? g.team with
    | none => s
    | some m =>
      let x := s.scr 0 m.id
      let seedOf := fun (c : Capture) => match s.thread? c.tid, s.flight? c.flight with
        | some t, some f => (match t.trap with | some k => if f.trapCtx then t.ctx.srseed else k.saved.srseed | none => t.ctx.srseed)
        | _, _ => 0
      let out := g.word.run (s.racing m) g.captures x (g.captures.map (fun c => (c.rank, seedOf c)))
      if !g.waiting || (out.merr.isNone && biasAbsent g.word m x) then s
      else
        let writes := g.captures.flatMap (fun c => (c.dsts.zip out.images).map (fun d => (c.tid, d.1.1, (d.2.1.drop (c.rank * d.2.2)).take d.2.2)))
        let s := s.useFresh.modGen gid (fun g => { g with waiting := false, writes := if out.merr.isNone then writes else [],
                                                          status := out.status, merr := out.merr, tiles := out.tiles, handles := g.word.handles m,
                                                          mroute := m.regs.mroute, mrcnt := m.regs.mrcnt })
        let s := g.captures.foldl (fun s c => match out.seeds.find? (fun y => y.1 == c.rank), s.flight? c.flight with
          | some y, some f => s.modThread c.tid (fun t => t.modWordCtx f.trapCtx (fun k => { k with srseed := y.2 }))
          | _, _ => s) s
        if out.tiles.isEmpty || !bit m.regs.mrcnt.toNat 63 then s
        else g.captures.foldl (fun s c => s.setNrp c.tid) s

/-- A generation of captures: its members' words in flight name it. -/
def State.issueGen (s : State) (team : Nat) (w : SetWord) (caps : List Capture) : State :=
  let (gid, s) := s.newId
  let s := { s with gens := s.gens ++ [({ id := gid, team, word := w, captures := caps } : Gen)] }
  let s := caps.foldl (fun s c => s.modFlight c.flight (fun f => { f with kind := .matrix gid })) s
  s.tryGen gid

/-- A member captures: its word in flight, its pending bytes. -/
def State.captureIn (s : State) (i : IssueCtx) (w : SetWord) (m : Team) (t : Thread) (rank la : Nat) (sb : Option Nat) : Capture × State :=
  let p := w.plan { m with regs := i.beforeRegs } t
  let fid := s.ctl.nextId
  let s := s.launchFlight i [t.id] la sb .mxu (.matrix 0)
  let bytes := p.writes.flatMap (fun r => (List.range r.2).map (fun k => (r.1 + k, fid)))
  (p.capture t rank fid, s.modThread t.id (fun t => { t with pending := t.pending ++ bytes }))

/-- The captures of the participants, ranks given in order. -/
def State.captureAll (s : State) (i : IssueCtx) (w : SetWord) (m : Team) (la : Nat) (sb : Option Nat) : List (Thread × Nat) → List Capture × State
  | [] => ([], s)
  | (t, r) :: rest =>
    let (c, s) := s.captureIn i w m t r la sb
    let (cs, s) := State.captureAll s i w m la sb rest
    (c :: cs, s)

/-- A set-level word (R343): in the crew form a generation at once, in the signed form captures until the last member has
signed. -/
def setLevel (w : SetWord) (la : Nat) (sb : Option Nat) (s : State) : Result :=
  issueWord s .mxu
    (fun i t => (match sb with | some n => s.slotVerdict t.id n 1 | none => .pass).andThen
      (match s.team? t.team with | some m => (w.plan { m with regs := i.beforeRegs } t).verdict t | none => .pass))
    (fun i ps s => match ps with
      | [] => s
      | t0 :: _ => match s.team? t0.team with
        | none => s
        | some m => match i.signed with
          | none =>
            let (caps, s) := s.captureAll i w m la sb (ps.zip (List.range ps.length))
            s.issueGen m.id w caps
          | some n =>
            let c := m.cvs.getD n {}
            let ranked := ps.filterMap (fun t => (c.memberOf t).map (fun k => (t, popcount k c.mask.toNat)))
            let (caps, s) := s.captureAll i w m la sb ranked
            let all := c.captures ++ caps
            if c.signed == c.mask then (s.modCv m.id n (fun c => { c with signed := 0, captures := [] })).issueGen m.id w all
            else s.modCv m.id n (fun c => { c with captures := all }))

/-- A product word. -/
def mmaWord (f : Nat) (c a b la : BitVec 4) (sb : BitVec 3) (m : BitVec 1) (s : State) : Result :=
  setLevel { op := .mma, efmt := f, c := c.toNat, a := a.toNat, b := b.toNat, m := m.toNat } la.toNat (some sb.toNat) s

def execMmaD (c a b la : BitVec 4) (sb : BitVec 3) (m : BitVec 1) (s : State) : Result := mmaWord 1 c a b la sb m s
def execMmaS (c a b la : BitVec 4) (sb : BitVec 3) (m : BitVec 1) (s : State) : Result := mmaWord 2 c a b la sb m s
def execMmaBf (c a b la : BitVec 4) (sb : BitVec 3) (m : BitVec 1) (s : State) : Result := mmaWord 4 c a b la sb m s
def execMmaH (c a b la : BitVec 4) (sb : BitVec 3) (m : BitVec 1) (s : State) : Result := mmaWord 3 c a b la sb m s
def execMmaE4 (c a b la : BitVec 4) (sb : BitVec 3) (m : BitVec 1) (s : State) : Result := mmaWord 5 c a b la sb m s
def execMmaE5 (c a b la : BitVec 4) (sb : BitVec 3) (m : BitVec 1) (s : State) : Result := mmaWord 6 c a b la sb m s
def execMmaF4 (c a b la : BitVec 4) (sb : BitVec 3) (m : BitVec 1) (s : State) : Result := mmaWord 7 c a b la sb m s

/-- `mmg` (R357): the type comes from SFMT. -/
def execMmg (c a b la : BitVec 4) (sb : BitVec 3) (m : BitVec 1) (s : State) : Result :=
  let f := s.pfx.sfmt
  setLevel { op := .mmg, efmt := if f = 0 then 4 else f, c := c.toNat, a := a.toNat, b := b.toNat, m := m.toNat } la.toNat (some sb.toNat) s

/-- `mzero` (R358). -/
def execMzero (c la : BitVec 4) (sb : BitVec 3) (m : BitVec 1) (s : State) : Result :=
  setLevel { op := .mzero, c := c.toNat, m := m.toNat } la.toNat (some sb.toNat) s

/-- `mepi` (R362): no slot. -/
def execMepi (d a b : BitVec 6) (m : BitVec 2) (s : State) : Result :=
  let f := match m.toNat with | 0 => 1 | 1 => 2 | _ => 4
  setLevel { op := .mepi, efmt := f, c := d.toNat, a := a.toNat / 4, b := b.toNat, m := m.toNat } 0 none s

/-- `mchol.d` (R363). -/
def execMcholD (c la : BitVec 4) (sb : BitVec 3) (s : State) : Result :=
  setLevel { op := .chol, c := c.toNat } la.toNat (some sb.toNat) s
/-- `mlu.d` (R364). -/
def execMluD (c a la : BitVec 4) (sb : BitVec 3) (s : State) : Result :=
  setLevel { op := .lu, c := c.toNat, a := a.toNat } la.toNat (some sb.toNat) s
/-- `mtrsm.d` (R365). -/
def execMtrsmD (c a b la : BitVec 4) (sb : BitVec 3) (m : BitVec 1) (s : State) : Result :=
  setLevel { op := .trsm, c := c.toNat, a := a.toNat, b := b.toNat, m := m.toNat } la.toNat (some sb.toNat) s

/-! ### Completion and routed tiles (R346, R347, R361, R457) -/

/-- LINK_DOWN, LINK_TIMEOUT, REMOTE_FAULT (R458). -/
def Cause.linkDown : Cause := 0x60
def Cause.linkTimeout : Cause := 0x61
def Cause.remoteFault : Cause := 0x62

/-- A generation whose results have landed and whose tiles are all answered is complete: slots fall. -/
def State.settleGen (s : State) (gid : Nat) : State :=
  match s.gen? gid with
  | none => s
  | some g =>
    let open_ := s.flights.any (fun f => match f.kind with
      | .tile k _ _ _ _ _ _ => k == gid && (match f.stage with | .faulted _ _ => false | _ => true)
      | _ => false)
    if !g.landed || open_ then s
    else
      let s := g.captures.foldl (fun s c => match s.flight? c.flight with | some f => s.completeFlight f | none => s) s
      { s with gens := s.gens.filter (fun x => x.id != gid) }

/-- A tile is sent: remote stores of the thread of rank 0; to a peer that cannot be reached it fails. -/
def State.sendTile (s : State) (g : Gen) (die : Nat) (x : Nat × List Byte) : State :=
  match g.captures.find? (fun c => c.rank == 0) with
  | none => s
  | some c => match s.flight? c.flight with
    | none => s
    | some f =>
      let peer := fld g.mroute.toNat 54 10
      let va := fld g.mroute.toNat 0 52 + x.1 * x.2.length
      let count := if bit g.mrcnt.toNat 63 then some (fld g.mrcnt.toNat 0 12) else none
      let (id, s) := s.newId
      let (via, stage) : Via × FlightStage := match s.via? peer die with
        | some (v, false) => (v, .start)
        | some (v, true) => (v, .faulted Cause.linkDown va)
        | none => (⟨die, 0, 0⟩, .faulted Cause.linkDown va)
      { s with flights := s.flights ++ [{ f with id, tids := [c.tid], sb := none, kind := .tile g.id (g.captures.map (·.tid)) peer va x.2 count via, stage }] }

/-- MATRIX_GENERATION_COMPLETE (R346): results land in every member, status, cursors, tiles; a waiting generation issues here
once its bias lines are present. -/
def execMatrixGenerationComplete (gid : Nat) (s : State) : Result :=
  let s := s.tryGen gid
  match s.gen? gid with
  | none => notNow "MATRIX_GENERATION_COMPLETE"
  | some g => match s.team? g.team with
    | none => notNow "MATRIX_GENERATION_COMPLETE"
    | some m =>
      if g.waiting || g.landed then notNow "MATRIX_GENERATION_COMPLETE"
      else
        let s := g.writes.foldl (fun s w => s.modThread w.1 (fun t => t.write w.2.1 w.2.2)) s
        let status := match g.merr with | some _ => 0 | none => g.status
        let s := g.captures.foldl (fun s c => s.modThread c.tid (fun t =>
          let v := t.mstat.toNat ||| status
          { t with pending := t.pending.filter (fun p => p.2 != c.flight)
                   mstat := BitVec.ofNat 64 (match g.merr with | some e => setFld v 8 8 e | none => v) })) s
        let s := s.advance m.id g.handles
        let s := s.modGen gid (fun g => { g with landed := true })
        .next ((g.tiles.foldl (fun s x => s.sendTile g m.place.die x) s).settleGen gid)

/-- H of a thread's writes to a peer (R447): the largest of them, which may be below 0. -/
def Thread.raiseHigh (t : Thread) (peer : Nat) (h : Int) : Thread :=
  { t with high := (peer, ((t.high.find? (fun x => x.1 == peer)).elim h (fun x => max h x.2))) :: t.high.filter (fun x => x.1 != peer) }

/-- A tile's stores have been performed (R361, R457): every member's TM rises. With a counter the tile's add is posted to the peer, as a
`cnt.add.r` of 1 with H over these stores, by the `mepi` that sent the tile; without one they raise H of rank 0's thread (log 27). -/
def State.finishTile (s : State) (f : Flight) (members : List Nat) (peer : Nat) (count : Option Nat) (die : Nat) (h : Int) : State :=
  let s := members.foldl (fun (s : State) (u : Nat) => match s.thread? u with
    | some t => s.modThread u (·.raiseTm (s.localTime (s.placeOf t).die + 4))
    | none => s) s
  match count with
  | none => f.tids.foldl (fun s u => s.modThread u (·.raiseHigh peer h)) s
  | some k =>
    let (id, s) := s.newId
    let a := BitVec.ofNat 64 (peer * 2 ^ 16 + k)
    let (via, stage) : Via × FlightStage := match s.via? peer die with
      | some (v, false) => (v, .start)
      | some (v, true) => (v, .faulted Cause.linkDown a.toNat)
      | none => (⟨die, 0, 0⟩, .faulted Cause.linkDown a.toNat)
    { s with flights := s.flights ++ [{ f with id, kind := .cntAdd 1 k 1 peer h a via, stage, again := none }] }

/-- ROUTED_TILE_COMPLETE (R361, R457): the peer has acknowledged a tile's last store, or the tile has failed. -/
def execRoutedTileComplete (fid : Nat) (r : RemoteAnswer) (s : State) : Result :=
  match s.flight? fid with
  | none => notNow "ROUTED_TILE_COMPLETE"
  | some f => match f.kind, f.stage with
    | .tile gid members peer va _ count via, .start =>
      .next (match r with
        | .done _ vtp tp => (((s.finishTile f members peer count via.die ((vtp : Int) - (tp : Int))).dropFlight fid)).settleGen gid
        | .refused c =>
          let s := f.tids.foldl (fun s u => s.modThread u (fun t => { t with rfault := BitVec.ofNat 64 (peer * 2 ^ 32 + c % 256) })) s
          (s.stage fid (.faulted Cause.remoteFault va)).settleGen gid
        | .linkDown => (s.stage fid (.faulted Cause.linkDown va)).settleGen gid)
    | _, _ => notNow "ROUTED_TILE_COMPLETE"

/-! ### `mres`, `mrel` (R351, R352) -/

/-- The reuse of a handle's operand-cache entries ends (R355). -/
def State.dropReuse (s : State) (team h : Nat) : State :=
  s.modTeam team (fun m => { m with opcache := m.opcache.filter (fun x => x.handle != h) })

/-- `mres` in one thread: the code and T. -/
def State.reserve (s : State) (team h : Nat) (r0 r1 : W64) : Nat × State :=
  match s.team? team with
  | none => (3, s)
  | some m =>
    if !recValid r0 r1 then (3, s)
    else match m.handle h with
      | some x =>
        if x.rec0 == r0 && x.rec1 == r1 then (4, (s.modHandle team h (fun x => { x with cursor := 0 })).dropReuse team h) else (1, s)
      | none =>
        if !s.bufferRoom m.place (128 * recSize r0) then (2, s)
        else (0, ((s.makeBuffer m.place (128 * recSize r0)).modTeam team (fun m => { m with handles := modAt (fun _ => some { rec0 := r0, rec1 := r1 }) h m.handles })).dropReuse team h)

/-- `mres` (R351). -/
def execMres (d a b : BitVec 6) (s : State) : Result :=
  let od : Operand := .vv d false
  let oa : Operand := .run a 2
  issueWord s .mxu (fun i t => operandVerdict i.beforeQ t [oa] [od])
    (fun i ps s => ps.foldl (fun s t =>
      let bs := oa.bytes t i.beforeQ
      let r0 := BitVec.ofNat 64 (bytesToNat (bs.take 8))
      let r1 := BitVec.ofNat 64 (bytesToNat (bs.drop 8))
      let (code, s) := s.reserve t.team b.toNat r0 r1
      s.land64 t.id (od.dst i t) (BitVec.ofNat 64 ((if code = 0 ∨ code = 4 then recTiles r0 r1 else 0) * 2 ^ 32 + code))) s)

/-- The set-level word of an instruction, as far as the handles it names. -/
def handleWord (i : Instr) : Option SetWord :=
  let mk := fun (op : SetOp) (c a b : BitVec 4) (m : BitVec 1) => some { op, c := c.toNat, a := a.toNat, b := b.toNat, m := m.toNat : SetWord }
  match i with
  | .mmaBf c a b _ _ m | .mmaH c a b _ _ m | .mmaE4 c a b _ _ m | .mmaE5 c a b _ _ m | .mmaF4 c a b _ _ m => mk .mma c a b m
  | .mmg c a b _ _ m => mk .mmg c a b m
  | _ => none

/-- Whether a generation that names a handle has not issued, or a `mobl` into it is under way (R352). -/
def State.handleBusy (s : State) (m : Team) (h : Nat) : Bool :=
  let names := fun (w : SetWord) => (w.handles m).contains h
  m.cvs.any (fun c => c.signed != 0 && (match (decodeOp c.word).bind handleWord with | some w => names w | none => false))
    || s.gens.any (fun g => g.team == m.id && g.waiting && names g.word)
    || s.flights.any (fun f => match f.kind with
      | .mobl x _ _ _ _ => x == h && f.tids.any (fun t => match s.thread? t with | some t => t.team == m.id | none => false)
      | _ => false)

/-- `mrel` (R352). -/
def execMrel (d : BitVec 6) (handle : BitVec 8) (s : State) : Result :=
  let od : Operand := .vv d false
  let h := handle.toNat
  issueWord s .mxu
    (fun i t => (operandVerdict i.beforeQ t [] [od]).andThen (match s.team? t.team with | some m => .await (!s.handleBusy m h) | none => .pass))
    (fun i ps s => ps.foldl (fun s t =>
      let held := match s.team? t.team with | some m => (m.handle h).isSome | none => false
      let s := (s.modTeam t.team (fun m => { m with handles := modAt (fun _ => none) h m.handles })).dropReuse t.team h
      s.land64 t.id (od.dst i t) (if held then 0 else 1)) s)

/-! ### `mobl` (R354, R355) -/

/-- MBUF_RANGE (R366). -/
def Cause.mbufRange : Cause := 0x30

/-- A `mobl` job in a thread: handle, byte offset, lines, source as the register gives it. -/
structure MoblJob where
  handle : Nat
  off : Nat
  lines : Nat
  src : Nat
  deriving DecidableEq, Repr

/-- The job of a thread. -/
def moblJob (i : IssueCtx) (od oa : Operand) (scratch : Bool) (t : Thread) : MoblJob :=
  let j := (od.val t i.beforeQ).toNat
  let a := (oa.val t i.beforeQ).toNat
  { handle := fld j 0 4, off := fld j 8 20, lines := fld j 32 16, src := if scratch then fld a 0 34 else a }

/-- The checks of a job in a thread before presence: MISALIGNED, MBUF_RANGE, then R225 or R245. -/
def State.moblVerdict (s : State) (t : Thread) (j : MoblJob) (scratch : Bool) : Verdict :=
  let fits := match (s.team? t.team).bind (fun m => m.handle j.handle) with
    | some h => decide (j.off + 128 * j.lines ≤ 128 * recSize h.rec0)
    | none => false
  let off := fld j.src 0 32
  let level := fld j.src 32 2
  let source := if scratch then
      Verdict.require (level != 3 && decide (off + 128 * j.lines ≤ (s.scr level (s.scrOwner t level)).size)) Cause.scratchRange j.src
    else .require (decide (j.src < 2 ^ 52) && inRange j.src (128 * j.lines)) Cause.addrRange j.src
  (((Verdict.require (j.src % 128 == 0) Cause.misaligned j.src).andThen (.require (j.off % 128 == 0) Cause.misaligned 0)).andThen
    (.require fits Cause.mbufRange 0)).andThen source

/-- The lines of a job's source in a scratchpad. -/
def State.moblLines (s : State) (t : Thread) (j : MoblJob) : List ScrLine :=
  let level := fld j.src 32 2
  (linesOf (fld j.src 0 32) (128 * j.lines)).map (fun l => ⟨level, s.scrOwner t level, l⟩)

/-- `mobl` (R354). -/
def execMobl (d a : BitVec 6) (la : BitVec 4) (sb : BitVec 3) (m : BitVec 1) (s : State) : Result :=
  let od : Operand := .vv d false
  let oa : Operand := .vv a s.pfx.ua
  let scratch := m == 1
  let pre := fun (i : IssueCtx) (t : Thread) =>
    ((s.slotVerdict t.id sb.toNat 1).andThen (partialVerdict i.beforeQ t [od, oa] [(oa, if scratch then 5 else 8), (od, 6)])).andThen
      (s.moblVerdict t (moblJob i od oa scratch t) scratch)
  match s.ctl.issue with
  | none => .next s
  | some i =>
    let lines := if scratch then i.parts.flatMap (fun t => s.moblLines t (moblJob i od oa scratch t)) else []
    if !i.checked && i.parts.all (fun t => pre i t == .pass) && lines.any s.lineAbsent then .next (s.park i.crew lines)
    else issueWord s .mxu pre
      (fun i ps s => ps.foldl (fun s t =>
        let j := moblJob i od oa scratch t
        s.launchFlight i [t.id] la.toNat (some sb.toNat) .mxu (.mobl j.handle j.off j.lines j.src scratch)) s)

/-- Bytes landing in a range, with the marks of poisoned granules among them. -/
def Handle.land (h : Handle) (off : Nat) (bs : List Byte) (bad : Marks) : Handle :=
  { h with bytes := h.bytes.writeN off bs, poison := bad.foldl (fun acc g => insertNat (g + off / 8) acc) (clearWhole h.poison off bs.length) }

/-- One line that a `mobl.s` reads: from the scratchpad, or as an earlier `mobl.s` of the generation read it (R355). -/
def State.moblLine (s : State) (t : Thread) (handle level off : Nat) : List Byte × Marks × State :=
  let owner := s.scrOwner t level
  let x := s.scr level owner
  let now := x.bytes.readN off 128
  let bad := (x.poison.filter (fun g => g / 16 == off / 128)).map (fun g => g % 16)
  if level ≥ 2 then (now, bad, s)
  else match s.team? t.team with
    | none => (now, bad, s)
    | some m =>
      let here := fun (e : OpCacheLine) => e.level == level && e.owner == owner && e.line == off / 128 && e.handle == handle
      match m.opcache.find? (fun e => here e && e.gen == m.opgen) with
      | some e =>
        let (k, s) := s.choose 2
        if k = 1 then (e.bytes, [], s)
        else (now, bad, s.modTeam m.id (fun m => { m with opcache := m.opcache.filter (fun e => !here e) ++ [{ e with bytes := now }] }))
      | none =>
        let e : OpCacheLine := { level, owner, line := off / 128, handle, gen := m.opgen, bytes := now }
        (now, bad, s.modTeam m.id (fun m => { m with opcache := m.opcache.filter (fun e => !here e) ++ [e] }))

/-- The lines of a `mobl.s`, in ascending order. -/
def State.moblScratch (s : State) (t : Thread) (handle level : Nat) (off dst : Nat) : Nat → State
  | 0 => s
  | n + 1 =>
    let (bs, bad, s) := s.moblLine t handle level off
    State.moblScratch (s.modHandle t.team handle (fun h => h.land dst bs bad)) t handle level (off + 128) (dst + 128) n

/-- MOBL_COMPLETE (R354): every byte has landed in the buffer. -/
def execMoblComplete (fid : Nat) (s : State) : Result :=
  match s.flight? fid with
  | none => notNow "MOBL_COMPLETE"
  | some f => match f.kind, f.stage, f.tids.head?.bind s.thread? with
    | .mobl h off lines src true, .start, some t => .next ((s.moblScratch t h (fld src 32 2) (fld src 0 32) off lines).completeFlight f)
    | .mobl h off lines src false, .start, some t => match s.engineRead (s.asidOf t) src (128 * lines) with
      | (.ok bs, s) => .next ((s.modHandle t.team h (fun x => x.land off bs [])).completeFlight f)
      | (.error .poolBad, s) => .next (s.poolBad f)
      | (.error e, _) => s.engineStop (s.asidOf t) e fid "MOBL_COMPLETE" (fun c va s => s.stage fid (.faulted c va))
    | _, _, _ => notNow "MOBL_COMPLETE"

/-! ### `mld`, `mst` (R359) -/

/-- The operand of a fragment: 128 bytes of VT (m 0) or VA. -/
def fragOperand (d : BitVec 6) (m : BitVec 1) : Operand := { view := m.toNat + 1, reg := d.toNat, count := 4 }

/-- `mld`. -/
def execMld (d a : BitVec 6) (la : BitVec 4) (sb : BitVec 3) (m : BitVec 1) (s : State) : Result :=
  memWord { op := .load, d := some (fragOperand d m), a := .vv a s.pfx.ua, size := 128, span := 128, align := 128
            la := la.toNat, sb := some sb.toNat, pipe := .mxu } s
/-- `mst`. -/
def execMst (d a : BitVec 6) (la : BitVec 4) (sb : BitVec 3) (m : BitVec 1) (s : State) : Result :=
  memWord { op := .store, d := some (fragOperand d m), a := .vv a s.pfx.ua, size := 128, span := 128, align := 128
            dRead := 128, la := la.toNat, sb := some sb.toNat, pipe := .mxu } s

end Sys2Proof.Machine
end

