-- ==== Sys2Proof/Machine/Links.lean ====
section
/-! DEFINITION. Optical links, remote memory, arrival counters and the words that use them (spec/17 R437-R449, R455, R457-R465). -/
namespace Sys2Proof.Machine

/-- CNT_RANGE, PEER_RANGE, COLL_STATE (R458). -/
def Cause.cntRange : Cause := 0x63
def Cause.peerRange : Cause := 0x64
def Cause.collState : Cause := 0x65

/-! ### Ports and slots (R438-R441) -/

/-- The peer and the way of a word in flight that a link carries. -/
def Flight.via? (f : Flight) : Option (Nat × Via) :=
  match f.kind with
  | .remote a => some (a.peer, a.via)
  | .tile _ _ peer _ _ _ via => some (peer, via)
  | .cntAdd mode _ _ peer _ _ via => if mode = 1 then some (peer, via) else none
  | _ => none

/-- The address that VAL of a link fault holds (R445, R447). -/
def Flight.linkVal (f : Flight) : Nat :=
  match f.kind with
  | .remote a => a.va
  | .tile _ _ _ va _ _ _ => va
  | .cntAdd _ _ _ _ _ a _ => a.toNat
  | _ => 0

/-- A port changed; where it comes to be DOWN, the words in flight on it fail with LINK_DOWN (R440, R459). -/
def State.modPort (s : State) (die port : Nat) (f : Port → Port) : State :=
  let p := f (s.port die port)
  let s := s.modLinks (fun l => { l with ports := l.ports.filter (fun x => !(x.die == die && x.port == port)) ++ [p] })
  let fail := fun (g : Flight) => match g.via?, g.stage with
    | some (_, v), .start => if p.down && v.die == die && v.port == port then { g with stage := .faulted Cause.linkDown g.linkVal } else g
    | _, _ => g
  let s := { s with flights := s.flights.map fail }
  if p.down then s.gens.foldl (fun s g => s.settleGen g.id) s else s

/-- A slot of a port changed. -/
def Port.modSlot (p : Port) (k : Nat) (f : LinkSlot → LinkSlot) : Port := { p with slots := modAt f k p.slots }

/-- A slot of a port. -/
def Port.slot (p : Port) (k : Nat) : LinkSlot := p.slots.getD k {}

/-- Whether a place names a slot. -/
def slotExists (die port slot : Nat) : Bool := decide (die < 4) && decide (port < 128) && decide (slot < 8)

/-- A slot withdrawn (R439, R440): it trains on its own wavelength from now on. -/
def State.withdraw (s : State) (die port slot : Nat) : State :=
  s.modPort die port (fun p => p.modSlot slot (fun x =>
    { x with state := 1, wdraw := min 65535 (x.wdraw + 1), evflit := p.flits % 2 ^ 24, since := s.time.hub, windows := 0, spare := none }))

/-- FLIT_SEND (R438): a port that is not DOWN sends a flit. -/
def execFlitSend (die port : Nat) (s : State) : Result :=
  if !slotExists die port 0 || (s.port die port).down then notNow "FLIT_SEND"
  else .next (s.modPort die port (fun p => { p with flits := (p.flits + 1) % 2 ^ 48 }))

/-- BER_WINDOW_END (R439): a window's errors are counted; above THRESH the slot is withdrawn. -/
def execBerWindowEnd (die port slot errors : Nat) (s : State) : Result :=
  if !slotExists die port slot || ((s.port die port).slot slot).state != 0 then notNow "BER_WINDOW_END"
  else
    let s := s.modPort die port (fun p => p.modSlot slot (fun x => { x with cbe := min 65535 errors }))
    .next (if errors > s.links.thresh then s.withdraw die port slot else s)

/-- UNCORRECTABLE_CODEWORD (R439): the slot is withdrawn, the flit replayed: another is sent in its place. -/
def execUncorrectableCodeword (die port slot : Nat) (s : State) : Result :=
  if !slotExists die port slot || ((s.port die port).slot slot).state != 0 then notNow "UNCORRECTABLE_CODEWORD"
  else .next ((s.bump (codewordIndex die port)).withdraw die port slot)

/-- Length of a training window and of a training, in ns (R440). -/
def trainingWindow : Nat := 524288
def trainingLimit : Nat := 1000000

/-- TRAINING_WINDOW_END (R440): at most THRESH / 8 errors hand the slot, or the spare in its place, back; the slot's own wavelength
has 1 ms, a spare trains on (the run of spec/18 hands one back after its second window). -/
def execTrainingWindowEnd (die port slot errors : Nat) (s : State) : Result :=
  let x := (s.port die port).slot slot
  let due := trainingWindow * (x.windows + 1)
  if !slotExists die port slot || x.state != 1 || (x.spare.isNone && decide (due > trainingLimit))
    || decide (s.time.hub < x.since + due) then notNow "TRAINING_WINDOW_END"
  else
    let done := decide (errors ≤ s.links.thresh / 8)
    .next (s.modPort die port (fun p => p.modSlot slot (fun x =>
      let x := { x with cbe := min 65535 errors, windows := x.windows + 1 }
      if done then { x with state := 0, evflit := p.flits % 2 ^ 24, phys := x.spare.getD x.phys, spare := none } else x)))

/-- The spares of a port's fibre that no slot of its four ports has taken (R440, R441). -/
def State.freeSpares (s : State) (die port : Nat) : List Nat :=
  let taken := s.links.ports.filter (fun p => p.die == die && p.port / 4 == port / 4)
  [32, 33].filter (fun k => !taken.any (fun p => p.spares.contains k))

/-- RETRAIN_TIMEOUT (R440, R462): after 1 ms a free spare trains in the slot's place; without one the slot has FAILED. A spare
fails after a window, when is not given (log 22). -/
def execRetrainTimeout (die port slot : Nat) (s : State) : Result :=
  let x := (s.port die port).slot slot
  if !slotExists die port slot || x.state != 1 || decide (x.windows = 0)
    || (x.spare.isNone && decide (s.time.hub < x.since + trainingLimit)) then notNow "RETRAIN_TIMEOUT"
  else match x.spare, s.freeSpares die port with
    | none, k :: _ => .next (s.modPort die port (fun p =>
        { (p.modSlot slot (fun x => { x with spare := some k, since := s.time.hub, windows := 0 })) with spares := p.spares ++ [k] }))
    | _, _ => .next (s.modPort die port (fun p => p.modSlot slot (fun x => { x with state := 2, spare := none })))

/-! ### Remote accesses (R442-R445) -/

/-- Loads of a thread to a peer that it issued from another die and that are outstanding (R444). -/
def State.movedLoads (s : State) (tid peer die : Nat) : Bool :=
  (s.flightsOf tid).any (fun f => match f.kind with
    | .remote a => a.op == .load && a.peer == peer && a.via.die != die
    | _ => false)

/-- A remote word: its operation, data operand, bytes of d read, bytes moved, type. -/
structure RemoteWord where
  op : MemOp
  d : Operand
  dRead : Nat
  size : Nat
  dfmt : Nat := 0
  noReturn : Bool := false

/-- The registers whose first bytes a remote word reads. -/
def RemoteWord.sources (w : RemoteWord) : List Operand :=
  if w.dRead = 0 then []
  else match w.op with
    | .atom .cas => [{ w.d with count := 1 }, { w.d with reg := w.d.reg + 1, count := 1 }]
    | _ => [w.d]

/-- `rld`, `rst`, `ratom` at issue (R443): each checks, raises its slot and is sent. -/
def remoteWord (w : RemoteWord) (a : BitVec 6) (la : BitVec 4) (sb : BitVec 3) (s : State) : Result :=
  let oa : Operand := .run a 2 s.pfx.ua
  let va := fun (i : IssueCtx) (t : Thread) => (oa.val t i.beforeQ).toNat
  let peer := fun (i : IssueCtx) (t : Thread) => fld (bytesToNat ((oa.bytes t i.beforeQ).drop 8)) 0 10
  let die := fun (t : Thread) => (s.placeOf t).die
  issueWord s .lsu
    (fun i t =>
      ((((s.slotVerdict t.id sb.toNat 1).andThen
        (fieldVerdict i.beforeQ t [w.d, oa] ([(oa, 0, 10)] ++ w.sources.map (fun o => (o, 0, w.dRead))))).andThen
        (addressVerdict (va i t) w.size w.size)).andThen
        (.require (s.portTo? (peer i t) (die t)).isSome Cause.peerRange 0)).andThen
        (.await (w.op != .load || !s.movedLoads t.id (peer i t) (die t))))
    (fun i ps s => ps.foldl (fun s t => match s.via? (peer i t) (die t) with
      | none => s
      | some (via, down) =>
        let x : RemoteAcc :=
          { op := w.op, peer := peer i t, va := va i t, size := w.size, dfmt := w.dfmt
            dst := match w.op with
              | .load => w.d.dst i t
              | .atom _ => if w.noReturn then .none else w.d.dst i t
              | _ => .none
            data := w.sources.flatMap (fun o => (o.bytes t i.beforeQ).take w.dRead), noReturn := w.noReturn, via }
        let s := match x.op with | .atom _ => if down then s else s.setNrp t.id | _ => s
        s.launchFlight i [t.id] la.toNat (some sb.toNat) .lsu (.remote x) (if down then .faulted Cause.linkDown (va i t) else .start)) s)

/-- `rld` (R443). -/
def execRld (d a : BitVec 6) (la : BitVec 4) (sb : BitVec 3) (m : BitVec 1) (s : State) : Result :=
  remoteWord { op := .load, d := fragOperand d m, dRead := 0, size := 128 } a la sb s
/-- `rst` (R443). -/
def execRst (d a : BitVec 6) (la : BitVec 4) (sb : BitVec 3) (m : BitVec 1) (s : State) : Result :=
  remoteWord { op := .store, d := fragOperand d m, dRead := 128, size := 128 } a la sb s
/-- `ratom` (R443): the operation is in SFMT. -/
def execRatom (d a : BitVec 6) (la : BitVec 4) (sb : BitVec 3) (m : BitVec 1) (s : State) : Result :=
  let x := s.pfx
  let op := atomOpOf x.sfmt
  remoteWord { op := .atom op, d := .run d (if op == .cas then 2 else 1), dRead := accBytes x.dfmt, size := accBytes x.dfmt
               dfmt := x.dfmt, noReturn := m == 1 } a la sb s

/-- Whether an access is a remote load of the same thread to the same peer as another. -/
def Flight.sameLoads (f g : Flight) : Bool :=
  match f.kind, g.kind with
  | .remote a, .remote b => a.op == .load && b.op == .load && a.peer == b.peer && g.tids == f.tids
  | _, _ => false

/-- Whether a message must wait for earlier ones: on another port to the same peer (R470), or, for loads, an earlier load of the
thread, which has not completed while it is faulted and not settled either (R296, R444). -/
def State.linkWaits (s : State) (f : Flight) : Bool :=
  let pending := f.tids.flatMap (fun t => match s.thread? t with | some x => x.faulted | none => [])
  match f.via? with
  | none => false
  | some (peer, via) => (s.flights ++ pending).any (fun g => decide (g.id < f.id) && (f.sameLoads g || (match g.via?, g.stage with
      | some (p, v), .start => p == peer && v.die == via.die && v.port != via.port
      | _, _ => false)))

/-- `cr.rfault` of the threads of a word (R458). -/
def State.setRfault (s : State) (f : Flight) (peer cause : Nat) : State :=
  f.tids.foldl (fun s u => s.modThread u (fun t => { t with rfault := BitVec.ofNat 64 (peer * 2 ^ 32 + cause % 256) })) s

/-- A remote write completes (R442): TM rises to the thread's own die's copy plus 4. -/
def State.finishRemote (s : State) (f : Flight) (a : RemoteAcc) (data : List Byte) (vtp tp : Nat) : State :=
  match a.op with
  | .load => (match f.tids with | t :: _ => s.land t a.dst data | [] => s).completeFlight f
  | _ =>
    let s := f.tids.foldl (fun s u => match s.thread? u with
      | some t => s.modThread u (fun x => (x.raiseTm (s.localTime (s.placeOf t).die + 4)).raiseHigh a.peer ((vtp : Int) - (tp : Int)))
      | none => s) s
    let s := match a.op, f.tids with
      | .atom _, t :: _ => (if a.noReturn then s else s.land t a.dst (loadResult .load a.size a.dfmt data)).nrpOf f
      | _, _ => s
    s.completeFlight f

/-- REMOTE_ACK (R442, R445): data or acknowledgement arrives, or the peer refuses; a message of a collective is acknowledged (R454). -/
def execRemoteAck (fid : Nat) (r : RemoteAnswer) (s : State) : Result :=
  match s.flight? fid with
  | none => notNow "REMOTE_ACK"
  | some f => match f.kind, f.stage with
    | .remote a, .start =>
      if s.linkWaits f then notNow "REMOTE_ACK"
      else .next (match r with
        | .done data vtp tp => s.finishRemote f a data vtp tp
        | .refused c => (s.setRfault f a.peer c).stage fid (.faulted Cause.remoteFault a.va)
        | .linkDown => s.stage fid (.faulted Cause.linkDown a.va))
    | .send _ _ _ _ _ _, _ => match r with
      | .done _ _ _ => .next (s.dropFlight fid)
      | _ => notNow "REMOTE_ACK"
    | _, _ => notNow "REMOTE_ACK"

/-- The remote timeout in ns (R458). -/
def State.rtoNs (s : State) : Nat := 1000 * s.links.rto

/-- LINK_TIMEOUT (R445): no answer within `cr.rto`; an add that gets none could not be delivered (R447). -/
def execLinkTimeout (fid : Nat) (s : State) : Result :=
  match s.flight? fid with
  | none => notNow "LINK_TIMEOUT"
  | some f => match f.via?, f.stage with
    | some (_, via), .start =>
      if s.localTime via.die < via.since + s.rtoNs then notNow "LINK_TIMEOUT"
      else
        let cause := match f.kind with | .cntAdd _ _ _ _ _ _ _ => Cause.linkDown | _ => Cause.linkTimeout
        let s := s.stage fid (.faulted cause f.linkVal)
        .next (match f.kind with | .tile gid _ _ _ _ _ _ => s.settleGen gid | _ => s)
    | _, _ => notNow "LINK_TIMEOUT"

/-! ### A peer's accesses at this package (R442) -/

/-- An answer is sent. -/
def State.answer (s : State) (peer : Nat) (a : RemoteAnswer) : State := s.modLinks (fun l => { l with answers := (peer, a) :: l.answers })

/-- An atomic of a peer at the home of a translated page, answered with the bytes before and VTp; or its stop. -/
def State.serveAtomic (s : State) (r : RemoteRequest) (p : Page) : Except EngineStop Unit × State :=
  let n := accBytes r.ty
  let va := r.addr.toNat
  let pa := p.phys va
  if s.latestBad pa n then (.ok (), s.answer r.peer (.refused Cause.memPoison))
  else
    let s := if p.mt ≥ 2 then (s.giveUp (fun l => l.pa == lineOf pa)).unholdFills (fun g => g.pa == lineOf pa) else s.recall (lineOf pa)
    let old := bytesToNat (s.latest pa n)
    let new := atomResult (atomOpOf r.atomOp) r.ty old (fld r.operand.toNat 0 (8 * n)) (fld r.operand2.toNat 0 (8 * n))
    match s.engineWriteLine r.asid r.step va (natToBytes n new) with
    | (.ok vt, s) => (.ok (), s.answer r.peer (.done (natToBytes n old) vt (s.homeTime va)))
    | (.error e, s) => (.error e, s)

/-- The access of a peer performed, or refused with its cause; the stop is one that the access waits for: a page that the driver must
bind, a fenced quadrant, a mailbox line that the host caches. -/
def State.serve (s : State) (r : RemoteRequest) : Except EngineStop Unit × State :=
  let va := r.addr.toNat
  let stop := fun (x : Except EngineStop Unit × State) => match x.1 with
    | .error (.fault c _) => (Except.ok (), x.2.answer r.peer (.refused c))
    | .error .poolBad => (Except.ok (), x.2.answer r.peer (.refused 0x2D))
    | _ => x
  match r.op with
  | 0 => match s.translate r.asid va .read with
    | .fault c => (.ok (), s.answer r.peer (.refused c))
    | .demand => (.error (.demand va false), s)
    | .ok p =>
      let s := (s.touchPage p false).recall (lineOf (p.phys va))
      (.ok (), s.answer r.peer (if s.latestBad (p.phys va) 128 then .refused Cause.memPoison else .done (s.latest (p.phys va) 128) 0 (s.homeTime va)))
  | 1 => match s.engineWriteLine r.asid r.step va (r.data.take 128) with
    | (.error e, s) => stop (.error e, s)
    | (.ok vt, s) => (.ok (), s.answer r.peer (.done [] vt (s.homeTime va)))
  | _ => match s.translate r.asid va (.atom (atomOpOf r.atomOp) (orDefault r.ty 15)) with
    | .fault c => (.ok (), s.answer r.peer (.refused c))
    | .demand => (.error (.demand va true), s)
    | .ok p => match s.readyPage r.asid r.step va p with
      | (.error e, s) => stop (.error e, s)
      | (.ok p, s) => stop (s.serveAtomic r p)

/-- Whether a request is one that the part accepts (R437). -/
def requestOk (r : RemoteRequest) : Bool :=
  (match r.op with
    | 0 | 1 => inRange r.addr.toNat 128 && r.addr.toNat % 128 == 0
    | 2 => decide (r.atomOp ≤ 7) && atomTypeOk (atomOpOf r.atomOp) r.ty && inRange r.addr.toNat (accBytes r.ty)
      && r.addr.toNat % accBytes r.ty == 0
    | _ => false)

/-- A peer's request at its home: answered, or left waiting under a number of its own: for the driver (R253), for a fenced quadrant
(R22), for the host's answer for a mailbox line (R266). -/
def State.takeRequest (s : State) (r : RemoteRequest) : State :=
  match s.serve r with
  | (.ok _, s) => s
  | (.error e, s) =>
    let (id, s) := s.newId
    let s := match e with
      | .demand va write => s.postRequest r.asid va write.toNat [] [] [id]
      | e => (s.holdEngine e none).getD s
    s.modLinks (fun l => { l with waiting := l.waiting ++ [(id, r)] })

/-- The requests of peers that wait for no answer of the driver are taken again. -/
def State.retakePeers (s : State) : State :=
  let posted := s.mem.requests.flatMap (fun r => if r.valid then r.engines else [])
  let due := s.links.waiting.filter (fun w => !posted.contains w.1)
  let s := s.modLinks (fun l => { l with waiting := l.waiting.filter (fun w => posted.contains w.1) })
  due.foldl (fun s w => s.takeRequest w.2) s

/-- REMOTE_REQUEST_ARRIVAL (R442). -/
def execRemoteRequestArrival (r : RemoteRequest) (s : State) : Result :=
  if !requestOk r || s.homeFenced r.addr.toNat then notNow "REMOTE_REQUEST_ARRIVAL" else .next (s.takeRequest r)

/-! ### Arrival counters (R446-R449) -/

/-- The counter window of an address space: its first counter and its size. -/
def State.cntWindow (s : State) (asid : Nat) : Nat × Nat :=
  let v := (s.asidBlock asid).cntwin.toNat
  (fld v 0 12, fld v 16 13)

/-- `cnt.add` (R447). -/
def execCntAdd (a b : BitVec 6) (m : BitVec 2) (s : State) : Result :=
  let oa : Operand := .vv a s.pfx.ua
  let ob : Operand := .vv b s.pfx.ub
  let aval := fun (i : IssueCtx) (t : Thread) => oa.val t i.beforeQ
  let index := fun (i : IssueCtx) (t : Thread) => fld (aval i t).toNat 0 12
  let peer := fun (i : IssueCtx) (t : Thread) => fld (aval i t).toNat 16 10
  let die := fun (t : Thread) => (s.placeOf t).die
  issueWord s .lsu
    (fun i t =>
      ((s.waitFor t.id (fun f => f.isWrite || f.isJob)).andThen
        (fieldVerdict i.beforeQ t [oa, ob] [(oa, 0, if m = 1 then 4 else 2), (ob, 0, 4)])).andThen
        (if m = 1 then .require (s.portTo? (peer i t) (die t)).isSome Cause.peerRange 0
         else .require (decide (index i t < (s.cntWindow (s.asidOf t)).2)) Cause.cntRange 0))
    (fun i ps s => ps.foldl (fun s t =>
      let value := BitVec.ofNat 32 (ob.val t i.beforeQ).toNat
      let s := s.setNrp t.id
      let send := fun (s : State) (mark : Int) (via : Via) (stage : FlightStage) =>
        s.launchFlight i [t.id] 0 none .lsu (.cntAdd m.toNat (index i t) value (peer i t) mark (aval i t) via) stage
      if m = 1 then match s.via? (peer i t) (die t) with
        | none => s
        | some (via, down) =>
          let high := (t.high.find? (fun x => x.1 == peer i t)).elim 0 (·.2)
          let s := s.modThread t.id (fun x => { x with high := x.high.filter (fun y => y.1 != peer i t) })
          send s high via (if down then .faulted Cause.linkDown (aval i t).toNat else .start)
      else send s t.tm ⟨die t, 0, s.localTime (die t)⟩ .start) s)

/-- A local add, or `cnt.add.set`, performed at the hub as one step (R447). -/
def State.performAdd (s : State) (asid mode index : Nat) (value : BitVec 32) (mark : Nat) : State :=
  let k := (s.cntWindow asid).1 + index
  if mode = 2 then
    let c := s.counter k
    s.putCounter { c with count := value, mark := max c.mark mark }
  else s.addCounter k value mark

/-- An earlier add of the same thread has not reached its hub: a thread's adds go in order. -/
def State.addWaits (s : State) (f : Flight) : Bool :=
  s.flights.any (fun g => decide (g.id < f.id) && g.tids == f.tids && (match g.kind, f.kind, g.stage with
    | .cntAdd m _ _ p _ _ _, .cntAdd n _ _ q _ _ _, .start => m != 1 && n != 1 || (m == 1 && n == 1 && p == q)
    | _, _, _ => false))

/-- Stands for the peer whose add arrives: the message names none, and no package has this index. -/
def adderPeer : Nat := 1024

/-- COUNTER_ADD_ARRIVAL (R446, R447): an add reaches its hub: one of this package, the answer to one sent to a peer, or a
peer's. -/
def execCounterAddArrival (x : CounterArrival) (s : State) : Result :=
  match x with
  | .posted fid => match s.flight? fid with
    | none => notNow "COUNTER_ADD_ARRIVAL"
    | some f => match f.kind, f.stage with
      | .cntAdd mode index value _ mark _ _, .start =>
        if mode = 1 || s.addWaits f then notNow "COUNTER_ADD_ARRIVAL"
        else
          let asid := match f.tids.head?.bind s.thread? with | some t => s.asidOf t | none => 0
          .next ((s.performAdd asid mode index value mark.toNat).dropFlight fid)
      | _, _ => notNow "COUNTER_ADD_ARRIVAL"
  | .answered fid r => match s.flight? fid with
    | none => notNow "COUNTER_ADD_ARRIVAL"
    | some f => match f.kind, f.stage with
      | .cntAdd mode _ _ peer _ a _, .start =>
        if mode ≠ 1 || s.addWaits f || s.linkWaits f then notNow "COUNTER_ADD_ARRIVAL"
        else .next (match r with
          | .done _ _ _ => s.dropFlight fid
          | .refused c => (s.setRfault f peer c).stage fid (.faulted Cause.remoteFault a.toNat)
          | .linkDown => s.stage fid (.faulted Cause.linkDown a.toNat))
      | _, _ => notNow "COUNTER_ADD_ARRIVAL"
  | .remote asid index value high =>
    if index ≥ (s.cntWindow asid).2 then .next (s.answer adderPeer (.refused Cause.cntRange))
    else .next ((s.performAdd asid 0 index value ((s.time.hub : Int) + high).toNat).answer adderPeer (.done [] 0 s.time.hub))

/-- `cwait` (R448). -/
def execCwait (d a : BitVec 6) (la : BitVec 4) (sb : BitVec 3) (s : State) : Result :=
  let od : Operand := .vv d false
  let oa : Operand := .vv a s.pfx.ua
  let v := fun (i : IssueCtx) (t : Thread) => (oa.val t i.beforeQ).toNat
  let addFault := fun (t : Thread) => if t.faults.any (fun f => t.faultHere f && f.posted) then Verdict.late else .pass
  issueWord s .ctl
    (fun i t => (((addFault t).andThen (s.slotVerdict t.id sb.toNat 1)).andThen
      (fieldVerdict i.beforeQ t [od, oa] [(oa, 0, 2), (oa, 4, 4)])).andThen
      (.require (decide (fld (v i t) 0 12 < (s.cntWindow (s.asidOf t)).2)) Cause.cntRange 0))
    (fun i ps s => (ps.foldl (fun s t =>
      s.launchFlight i [t.id] la.toNat (some sb.toNat) .ctl
        (.cwait ((s.cntWindow (s.asidOf t)).1 + fld (v i t) 0 12) (fld (v i t) 32 32) (s.localTime (s.placeOf t).die) none (od.dst i t))) s).reachCwaits)

/-- CWAIT_TIMEOUT (R448): `cr.cwto` has run out on the thread's die: no reconciliation, no edge. -/
def execCwaitTimeout (fid : Nat) (s : State) : Result :=
  match s.flight? fid with
  | none => notNow "CWAIT_TIMEOUT"
  | some f => match f.kind, f.tids.head?.bind s.thread? with
    | .cwait k _ since none dst, some t => match s.team? t.team with
      | none => notNow "CWAIT_TIMEOUT"
      | some m =>
        let us := fld m.regs.cwto.toNat 0 32
        if us = 0 || decide (s.localTime m.place.die < since + 1000 * us) then notNow "CWAIT_TIMEOUT"
        else .next ((s.land64 t.id dst (BitVec.ofNat 64 (2 ^ 63 + (s.counter k).count.toNat))).completeFlight f)
    | _, _ => notNow "CWAIT_TIMEOUT"

/-! ### `coll` (R455) -/

/-- `coll`: fires a chunk, or finds it fired. -/
def execColl (d a : BitVec 6) (la : BitVec 4) (sb : BitVec 3) (s : State) : Result :=
  let od : Operand := .vv d false
  let oa : Operand := .vv a s.pfx.ua
  let chunk := fun (i : IssueCtx) (t : Thread) => fld (oa.val t i.beforeQ).toNat 0 16
  let ok := fun (i : IssueCtx) (t : Thread) => match (s.gridOf t).bind (·.peloton) with
    | some b => decide (chunk i t < b.nchunks)
    | none => false
  issueWord s .eng
    (fun i t => (((s.slotVerdict t.id sb.toNat 1).andThen (fieldVerdict i.beforeQ t [od, oa] [(oa, 0, 2)])).andThen
      (.require (ok i t) Cause.collState 0)).andThen (s.accessesDone t.id))
    (fun i ps s => ps.foldl (fun s t =>
      let grid := match s.gridOf t with | some g => g.event | none => 0
      let fid := s.ctl.nextId
      let s := s.launchFlight i [t.id] la.toNat (some sb.toNat) .eng (.coll (chunk i t) (od.dst i t))
      if (s.chunk? grid (chunk i t)).any (·.fired) then
        match s.flight? fid with
        | some f => (s.land64 t.id (od.dst i t) 1).completeFlight f
        | none => s
      else s.fireChunk grid (chunk i t) (s.placeOf t).die (some fid)) s)

end Sys2Proof.Machine
end

