-- ==== Sys2Proof/Machine/Sampler.lean ====
section
/-! DEFINITION. The sampler: texture descriptors, the decoder network, weight tables and their cache, the sampling words (spec/15
R389-R399). -/
namespace Sys2Proof.Machine

/-- TEX_DESC, WT_BAD, WT_MISS, FIELD_DESC, RAY_STATE (R413). -/
def Cause.texDesc : Cause := 0x50
def Cause.wtBad : Cause := 0x51
def Cause.wtMiss : Cause := 0x52
def Cause.fieldDesc : Cause := 0x53
def Cause.rayState : Cause := 0x54

/-- For whom a unit reads: the die and the address space of its thread. -/
structure Reader where
  die : Nat
  asid : Nat
  deriving DecidableEq, Repr

/-- The reader that a thread is. -/
def State.readerOf (s : State) (t : Thread) : Reader := { die := (s.placeOf t).die, asid := s.asidOf t }

/-- Bytes that a unit of the GFX pipe reads as loads of its thread, outside R245 a late ADDR_RANGE; no copy older than they are stays in
the die (R284). -/
def State.unitRead (s : State) (u : Reader) (va n : Nat) (x : VerSel := {}) : Except EngineStop (List Byte) × State :=
  if decide (va < 2 ^ 52) && inRange va n then
    match s.engineReadVer u.asid va n x with
    | (.ok bs, s) => (.ok bs, s.freshenRange u.die u.asid x.sel va n)
    | r => r
  else (.error (.fault Cause.addrRange va), s)

/-! ### Descriptors and texels (R389-R391) -/

/-- A texture descriptor's 512 bits. -/
structure TexDesc where
  bits : Nat
  deriving DecidableEq, Repr

def TexDesc.base (c : TexDesc) : Nat := fld c.bits 0 64
def TexDesc.width (c : TexDesc) : Nat := fld c.bits 64 16
def TexDesc.height (c : TexDesc) : Nat := fld c.bits 80 16
def TexDesc.levels (c : TexDesc) : Nat := fld c.bits 96 4
def TexDesc.addrU (c : TexDesc) : Nat := fld c.bits 104 2
def TexDesc.addrV (c : TexDesc) : Nat := fld c.bits 106 2
def TexDesc.linear (c : TexDesc) : Bool := bit c.bits 108
def TexDesc.handle (c : TexDesc) : Nat := fld c.bits 128 24

/-- R389. -/
def TexDesc.valid (c : TexDesc) : Bool :=
  fld c.bits 152 360 == 0 && fld c.bits 109 19 == 0 && fld c.bits 100 4 == 0 && c.addrU != 3 && c.addrV != 3
  && decide (1 ≤ c.levels) && decide (1 ≤ c.height) && decide (c.height ≤ 32768) && decide (1 ≤ c.width) && decide (c.width ≤ 32768)
  && c.base % 128 == 0

/-- Texels and blocks of a level (R390). -/
def TexDesc.texels (c : TexDesc) (l : Nat) : Nat × Nat := (max 1 (c.width / 2 ^ l), max 1 (c.height / 2 ^ l))
def TexDesc.blocks (c : TexDesc) (l : Nat) : Nat × Nat := (((c.texels l).1 + 3) / 4, ((c.texels l).2 + 3) / 4)
/-- Where a level's latent blocks begin. -/
def TexDesc.levelBase (c : TexDesc) (l : Nat) : Nat :=
  c.base + (List.range l).foldl (fun n j => n + 16 * (c.blocks j).1 * (c.blocks j).2) 0

/-- The floor of m 2^k. -/
def floorScaled (m k : Int) : Int := if k ≥ 0 then m * 2 ^ k.toNat else m / 2 ^ (-k).toNat

/-- A coordinate as a dyadic number; NaN and infinities are 0 (R391). -/
def coordOf (u : Nat) : Int × Int := (finOf (fpDecode 2 u)).getD (0, 0)

/-- u n - 0.5 as its floor and the fraction in 256ths, rounded down (R391). -/
def linearCoord (u n : Nat) : Int × Nat :=
  let (m, e) := coordOf u
  let q := min e (-1)
  let x := m * n * 2 ^ (e - q).toNat - 2 ^ (-1 - q).toNat
  let d : Int := 2 ^ (-q).toNat
  (x / d, (x % d * 256 / d).toNat)

/-- The floor of u n. -/
def nearestCoord (u n : Nat) : Int := floorScaled ((coordOf u).1 * n) (coordOf u).2

/-- A texel index addressed on an axis; none names the border (R391). -/
def addressed (mode n : Nat) (i : Int) : Option Nat :=
  match mode with
  | 0 => some (i % (n : Int)).toNat
  | 1 => some (max 0 (min i (n - 1))).toNat
  | _ => if 0 ≤ i ∧ i < n then some i.toNat else none

/-- A footprint: texels (none: a border texel) with weights in 65,536ths. -/
abbrev Footprint := List (Option (Nat × Nat) × Nat)

/-- The four texels about a coordinate (R391, R395). -/
def TexDesc.fourTexels (c : TexDesc) (l u v : Nat) : Footprint :=
  let (w, h) := c.texels l
  let (i, fx) := linearCoord u w
  let (j, fy) := linearCoord v h
  let at_ := fun (di dj : Int) => match addressed c.addrU w (i + di), addressed c.addrV h (j + dj) with
    | some x, some y => some (x, y)
    | _, _ => none
  [(at_ 0 0, (256 - fx) * (256 - fy)), (at_ 1 0, fx * (256 - fy)), (at_ 0 1, (256 - fx) * fy), (at_ 1 1, fx * fy)]

/-- The one texel at a coordinate (R391). -/
def TexDesc.oneTexel (c : TexDesc) (l u v : Nat) : Footprint :=
  let (w, h) := c.texels l
  match addressed c.addrU w (nearestCoord u w), addressed c.addrV h (nearestCoord v h) with
  | some x, some y => [(some (x, y), 65536)]
  | _, _ => [(none, 65536)]

/-! ### The decoder (R392-R395) -/

/-- An exact FP32 constant n / 2^k. -/
def quarterBits (n k : Nat) : Nat := (roundTo 2 0 false 0 (.num false n (-(k : Int)) false)).bits

/-- A sum of products with dyadic weights w / 2^k, terms of weight zero left out, rounded once to FP32. -/
def weightedSum (k : Nat) (l : List (Nat × FpVal)) : Nat :=
  (roundTo 2 0 false 0 (exactSum false ((l.filter (fun x => x.1 != 0)).map (fun x => fpMul (.fin false x.1 (-(k : Int))) x.2)))).bits

/-- The blocks that texel (x, y) of a level uses, with weights in 64ths (R392). -/
def TexDesc.blocksOf (c : TexDesc) (l x y : Nat) : List ((Nat × Nat) × Nat) :=
  let (bw, bh) := c.blocks l
  let axis := fun (n x : Nat) =>
    let g : Int := 2 * (x : Int) - 3
    let b := g / 8
    let w := (g % 8).toNat
    let clamp := fun (i : Int) => (max 0 (min i (n - 1))).toNat
    (clamp b, clamp (b + 1), w)
  let (x0, x1, wx) := axis bw x
  let (y0, y1, wy) := axis bh y
  [((x0, y0), (8 - wx) * (8 - wy)), ((x1, y0), wx * (8 - wy)), ((x0, y1), (8 - wx) * wy), ((x1, y1), wx * wy)]

/-- The decoder's input from the bytes of its four blocks (R392). -/
def decoderInput (x y : Nat) (blocks : List (List Byte × Nat)) : List Nat :=
  let latent := (List.range 12).map (fun f => weightedSum 6 (blocks.map (fun b => (b.2, fpDecode 5 ((b.1.getD f 0).toNat)))))
  let px := 2 * (x % 4) + 1
  let py := 2 * (y % 4) + 1
  latent ++ [quarterBits px 3, quarterBits py 3, quarterBits (8 - px) 3, quarterBits (8 - py) 3]

/-- A weight table's 2,048 bytes as a number (R393). -/
structure WeightBits where
  bits : Nat
  deriving DecidableEq, Repr

def WeightBits.nout (t : WeightBits) : Nat := fld t.bits 0 4
/-- S1, S2, S3 as layer 1, 2, 3. -/
def WeightBits.scale (t : WeightBits) (layer : Nat) : Nat := fld t.bits (32 * layer) 32
def WeightBits.clamp (t : WeightBits) : Nat := fld t.bits 128 32
/-- First byte of a layer's weights; inputs of the layer; first bit of its biases. -/
def layerPlace (layer : Nat) : Nat × Nat × Nat :=
  match layer with
  | 1 => (64, 16, 14848)
  | 2 => (576, 32, 15360)
  | _ => (1600, 32, 15872)
def WeightBits.weight (t : WeightBits) (layer unit k : Nat) : Nat :=
  fld t.bits (8 * ((layerPlace layer).1 + (layerPlace layer).2.1 * unit + k)) 8
def WeightBits.bias (t : WeightBits) (layer unit : Nat) : Nat := fld t.bits ((layerPlace layer).2.2 + 16 * unit) 16

/-- R393: a table that breaks a limit is invalid. -/
def WeightBits.valid (t : WeightBits) : Bool :=
  decide (1 ≤ t.nout) && decide (t.nout ≤ 8) && !badF32 t.clamp && fpLess (cV 0 0) (v32 t.clamp)
  && fld t.bits 4 28 == 0 && fld t.bits 160 352 == 0 && fld t.bits 16000 384 == 0

/-- A unit of a layer (R394). -/
def WeightBits.unit (t : WeightBits) (layer u : Nat) (xs : List Nat) : Nat :=
  let groups := xs.length / 16
  let p := (List.range groups).foldl (fun p g =>
    r32 (exactSum false ((v32 p).exact :: (List.range 16).map (fun k =>
      fpMul (fpDecode 5 (t.weight layer u (16 * g + k))) (v32 (xs.getD (16 * g + k) 0)))))) 0
  let h := r32 (exactSum false [fpMul (v32 p) (v32 (t.scale layer)), (fpDecode 3 (t.bias layer u)).exact])
  if layer = 3 then h
  else if (v32 h).isNaN then h
  else if !fpLess (cV 0 0) (v32 h) then 0
  else if fpLess (v32 t.clamp) (v32 h) then t.clamp else h

/-- The eight outputs of a texel (R394). -/
def WeightBits.network (t : WeightBits) (xs : List Nat) : List Nat :=
  let h1 := (List.range 32).map (fun u => t.unit 1 u xs)
  let h2 := (List.range 32).map (fun u => t.unit 2 u h1)
  (List.range 8).map (fun o => if o < t.nout then t.unit 3 o h2 else 0)

/-- A texel's outputs, its blocks read (R390, R392). -/
def State.decodeTexel (s : State) (r : Reader) (c : TexDesc) (t : WeightBits) (l : Nat) (x : Option (Nat × Nat)) :
    Except EngineStop (List Nat) × State :=
  match x with
  | none => (.ok (List.replicate 8 0), s)
  | some (x, y) =>
    let read := fun (acc : Except EngineStop (List (List Byte × Nat)) × State) (b : (Nat × Nat) × Nat) => match acc with
      | (.error e, s) => (.error e, s)
      | (.ok l', s) => match s.unitRead r (c.levelBase l + 16 * (b.1.2 * (c.blocks l).1 + b.1.1)) 12 with
        | (.error e, s) => (.error e, s)
        | (.ok bs, s) => (.ok (l' ++ [(bs, b.2)]), s)
    match (c.blocksOf l x y).foldl read (.ok [], s) with
    | (.error e, s) => (.error e, s)
    | (.ok bs, s) => (.ok (t.network (decoderInput x y bs)), s)

/-- The texels of a footprint decoded. -/
def State.decodeAll (s : State) (r : Reader) (c : TexDesc) (t : WeightBits) (l : Nat) (f : Footprint) :
    Except EngineStop (List (List Nat × Nat)) × State :=
  f.foldl (fun acc x => match acc with
    | (.error e, s) => (.error e, s)
    | (.ok l', s) => match s.decodeTexel r c t l x.1 with
      | (.error e, s) => (.error e, s)
      | (.ok o, s) => (.ok (l' ++ [(o, x.2)]), s)) (.ok [], s)

/-- One level's outputs (R395). -/
def State.sampleLevel (s : State) (r : Reader) (c : TexDesc) (t : WeightBits) (l u v : Nat) : Except EngineStop (List Nat) × State :=
  match s.decodeAll r c t l (if c.linear then c.fourTexels l u v else c.oneTexel l u v) with
  | (.error e, s) => (.error e, s)
  | (.ok os, s) =>
    (.ok (if c.linear then (List.range 8).map (fun k => weightedSum 16 (os.map (fun o => (o.2, v32 (o.1.getD k 0))))) else ((os.headD ([], 0)).1)), s)

/-- The level of `texl` (R398): a level and the fraction towards the next in 256ths. -/
def levelOf (c : TexDesc) (bits : Nat) : Nat × Nat :=
  match fpDecode 2 bits with
  | .nan _ => (0, 0)
  | .inf n => (if n then 0 else c.levels - 1, 0)
  | .fin n m e =>
    if n || m == 0 then (0, 0)
    else
      let l := floorScaled m e
      if l ≥ (c.levels : Int) - 1 then (c.levels - 1, 0) else (l.toNat, (floorScaled m (e + 8) % 256).toNat)

/-- What a sampling word makes of its descriptor and table: the outputs of `tex` and `texl`, or the four texels' values of
`texg` (R395, R398). -/
def State.sample (s : State) (r : Reader) (op : Nat) (uv : W64) (c : TexDesc) (t : WeightBits) (third : Nat) : Except EngineStop (List Nat) × State :=
  let u := fld uv.toNat 0 32
  let v := fld uv.toNat 32 32
  match op with
  | 0 => s.sampleLevel r c t 0 u v
  | 1 =>
    let (l, f) := levelOf c (fld third 0 32)
    if !c.linear then s.sampleLevel r c t (if f < 128 then l else l + 1) u v
    else if f = 0 then s.sampleLevel r c t l u v
    else match s.sampleLevel r c t l u v with
      | (.error e, s) => (.error e, s)
      | (.ok r0, s) => match s.sampleLevel r c t (l + 1) u v with
        | (.error e, s) => (.error e, s)
        | (.ok r1, s) => (.ok ((List.range 8).map (fun k => weightedSum 8 [(256 - f, v32 (r0.getD k 0)), (f, v32 (r1.getD k 0))])), s)
  | _ =>
    let l := min (fld third 8 4) (c.levels - 1)
    match s.decodeAll r c t l (c.fourTexels l u v) with
    | (.error e, s) => (.error e, s)
    | (.ok os, s) => (.ok (os.map (fun o => o.1.getD (fld third 0 3) 0)), s)

/-- The result registers of a sampling word (R398). -/
def sampleResult (op : Nat) (wide : Bool) (outs : List Nat) : List Byte :=
  if op = 2 && wide then natToBytes 16 (pack 32 (outs.take 4))
  else natToBytes (if wide then 16 else 8) (pack 16 ((outs.take (if wide then 8 else 4)).map (fun x => (convertElem 3 2 0 false 0 x).bits)))

/-! ### The cache of weight tables (R396, R397) -/

/-- A core's entry of a table. -/
def State.table? (s : State) (p : Place) (asid va : Nat) : Option WeightTable :=
  s.tables.find? (fun t => t.place == p && t.asid == asid && t.va == va)

/-- An entry used now. -/
def State.useTable (s : State) (p : Place) (asid va : Nat) : State :=
  { (s.modCtl (fun c => { c with nextId := c.nextId + 1 })) with
    tables := modFirst (fun t => t.place == p && t.asid == asid && t.va == va) (fun t => { t with used := s.ctl.nextId }) s.tables }

/-- Whether a word in flight uses an entry: it has taken it and has not completed (R397). -/
def State.tableUsed (s : State) (x : WeightTable) : Bool :=
  s.flights.any (fun f => match f.kind, f.tids.head?.bind s.thread? with
    | .tex _ _ _ _ _ _ _ (some h), some t => h.1 == x.va && s.asidOf t == x.asid && s.placeOf t == x.place
    | _, _ => false)

/-- A core's least recently used entry among those that no word in flight uses. -/
def State.oldestTable (s : State) (p : Place) : Option WeightTable :=
  (s.tables.filter (fun t => t.place == p && !s.tableUsed t)).foldl (fun acc t => match acc with
    | none => some t
    | some a => if t.used < a.used then some t else some a) none

/-- Whether a core's cache has an entry for one more table: it holds fewer than 16, or one that may leave. -/
def State.tableRoom (s : State) (p : Place) : Bool :=
  decide ((s.tables.filter (fun t => t.place == p)).length < 16) || (s.oldestTable p).isSome

/-- A table put into a core's cache of 16, the least recently used entry that no word in flight uses leaving a full one. -/
def State.putTable (s : State) (p : Place) (asid va : Nat) (bs : List Byte) : State :=
  let s := if (s.tables.filter (fun t => t.place == p)).length < 16 then s
    else match s.oldestTable p with
      | some o => { s with tables := s.tables.filter (fun t => !(t.place == p && t.asid == o.asid && t.va == o.va)) }
      | none => s
  { (s.modCtl (fun c => { c with nextId := c.nextId + 1 })) with
    tables := s.tables ++ [({ place := p, asid, va, bytes := bs, used := s.ctl.nextId } : WeightTable)] }

/-- A table made resident: its bytes, or the stop; a table that breaks R393 is WT_BAD and does not stay. With all 16 entries in use by
words in flight it waits. -/
def State.fetchTable (s : State) (p : Place) (asid va : Nat) : Except EngineStop (List Byte) × State :=
  match s.table? p asid va with
  | some t => (.ok t.bytes, s.useTable p asid va)
  | none =>
    if !s.tableRoom p then (.error (.held va), s)
    else match s.unitRead ⟨p.die, asid⟩ va 2048 with
    | (.error (.fault c _), s) => (.error (.fault c va), s)
    | (.error e, s) => (.error e, s)
    | (.ok bs, s) => if (⟨bytesToNat bs⟩ : WeightBits).valid then (.ok bs, s.putTable p asid va bs) else (.error (.fault Cause.wtBad va), s)

/-- The address of table n (R396). -/
def tableAddr (base n : Nat) : Nat := base + 2048 * n

/-- WT_LOAD (R396): the command of a `csr.w` of `cr.wtcmd` ends, or its fault is kept for that word. -/
def execWtLoad (tid : Nat) (s : State) : Result :=
  match s.thread? tid with
  | none => notNow "WT_LOAD"
  | some t => match t.wt with
    | none => notNow "WT_LOAD"
    | some w =>
      if !w.load || w.ended then notNow "WT_LOAD"
      else match s.fetchTable (s.placeOf t) (s.asidOf t) w.table with
        | (.ok _, s) => .next (s.modThread tid (fun t => { t with wt := some { w with ended := true } }))
        | (.error e, _) => s.engineStop (s.asidOf t) e tid "WT_LOAD" (fun c _ s =>
            s.modThread tid (fun t => { t with wt := some { w with ended := true, fault := some (c, w.table) } }))

/-- WT_DROP (R396): the table's entry leaves every core's cache for the address space. -/
def execWtDrop (tid : Nat) (s : State) : Result :=
  match s.thread? tid with
  | none => notNow "WT_DROP"
  | some t => match t.wt with
    | none => notNow "WT_DROP"
    | some w =>
      if w.load || w.ended then notNow "WT_DROP"
      else
        let s := { s with tables := s.tables.filter (fun x => !(x.asid == s.asidOf t && x.va == w.table)) }
        .next (s.modThread tid (fun t => { t with wt := some { w with ended := true } }))

/-! ### The words (R398) -/

/-- A sampling word at issue. -/
def texWord (op : Nat) (d a : BitVec 6) (la : BitVec 4) (sb : BitVec 3) (m : BitVec 1) (s : State) : Result :=
  let od : Operand := .run d (if m = 1 then 2 else 1)
  let oa : Operand := .run a (if op = 0 then 2 else 3)
  let word := fun (i : IssueCtx) (t : Thread) (k : Nat) => bytesToNat (((oa.bytes t i.beforeQ).drop (8 * k)).take 8)
  let third := if op = 0 then [] else if op = 1 then [(oa, 16, 4)] else [(oa, 16, 2)]
  let desc := fun (i : IssueCtx) (t : Thread) => fld (word i t 1) 0 52
  issueWord s .gfx
    (fun i t => ((s.slotVerdict t.id sb.toNat 1).andThen (fieldVerdict i.beforeQ t [od, oa] ([(oa, 0, 8), (oa, 8, 7)] ++ third))).andThen
      (.require (desc i t % 64 == 0) Cause.misaligned (desc i t)))
    (fun i ps s => ps.foldl (fun s t =>
      let base := fld i.beforeRegs.wtbase.toNat 11 41 * 2048
      s.launchFlight i [t.id] la.toNat (some sb.toNat) .gfx
        (.tex op (m == 1) (BitVec.ofNat 64 (word i t 0)) (desc i t) (BitVec.ofNat 64 (if op = 0 then 0 else word i t 2)) base (od.dst i t) none)) s)

/-- `tex`, `texl`, `texg` (R398). -/
def execTex (d a : BitVec 6) (la : BitVec 4) (sb : BitVec 3) (m : BitVec 1) (s : State) : Result := texWord 0 d a la sb m s
def execTexl (d a : BitVec 6) (la : BitVec 4) (sb : BitVec 3) (m : BitVec 1) (s : State) : Result := texWord 1 d a la sb m s
def execTexg (d a : BitVec 6) (la : BitVec 4) (sb : BitVec 3) (m : BitVec 1) (s : State) : Result := texWord 2 d a la sb m s

/-- The table of a sampling word: the bytes of the entry that it has taken, whatever became of the entry since (R397, R414); else the
core's entry, fetched where it is missing and DEMAND allows it. The word holds what it has taken. -/
def State.texTable (s : State) (fid : Nat) (t : Thread) (held : Option (Nat × List Byte)) (va : Nat) : Except EngineStop (List Byte) × State :=
  let demand := match s.team? t.team with | some m => m.regs.wtctl.getLsbD 0 | none => true
  match held.filter (fun h => h.1 == va) with
  | some h => (.ok h.2, s)
  | none =>
    if (s.table? (s.placeOf t) (s.asidOf t) va).isNone && !demand then (.error (.fault Cause.wtMiss va), s)
    else match s.fetchTable (s.placeOf t) (s.asidOf t) va with
      | (.error e, s) => (.error e, s)
      | (.ok bs, s) => (.ok bs, s.modFlight fid (fun f => { f with kind := match f.kind with
          | .tex op wide uv desc third base dst _ => .tex op wide uv desc third base dst (some (va, bs))
          | k => k }))

/-- A sampling word performed: descriptor, table, latents, in this order (R398). -/
def State.samplePerform (s : State) (fid : Nat) (t : Thread) (op : Nat) (wide : Bool) (uv : W64) (desc third base : Nat)
    (held : Option (Nat × List Byte)) : Except EngineStop (List Byte) × State :=
  let r := s.readerOf t
  match s.unitRead r desc 64 with
  | (.error (.fault c _), s) => (.error (.fault c desc), s)
  | (.error e, s) => (.error e, s)
  | (.ok bs, s) =>
    let c : TexDesc := ⟨bytesToNat bs⟩
    if !c.valid then (.error (.fault Cause.texDesc desc), s)
    else match s.texTable fid t held (tableAddr base c.handle) with
      | (.error e, s) => (.error e, s)
      | (.ok tb, s) => match s.sample r op uv c ⟨bytesToNat tb⟩ third with
        | (.error e, s) => (.error e, s)
        | (.ok os, s) => (.ok (sampleResult op wide os), s)

/-- TEX_COMPLETE (R398): the word reads, in its turn among the thread's reads, and its result lands, in any order (R399). -/
def execTexComplete (fid : Nat) (s : State) : Result :=
  match s.flight? fid with
  | none => notNow "TEX_COMPLETE"
  | some f => match f.kind, f.stage, f.tids.head?.bind s.thread? with
    | .tex op wide uv desc third base _ held, .start, some t =>
      if s.unitWaits f then notNow "TEX_COMPLETE"
      else match s.samplePerform fid t op wide uv desc third.toNat base held with
      | (.ok bs, s) => .next (s.stage fid (.data bs none))
      | (.error .poolBad, s) => .next (s.poolBad f)
      -- a table that it has fetched stays, whatever stops its other reads (R397)
      | (.error e, s) => s.engineStop (s.asidOf t) e fid "TEX_COMPLETE" (fun c va s => s.stage fid (.faulted c va))
    | .tex _ _ _ _ _ _ dst _, .data bs _, some t => .next ((s.land t.id dst bs).completeFlight f)
    | _, _, _ => notNow "TEX_COMPLETE"

end Sys2Proof.Machine
end

