-- ==== Sys2Proof/Machine/Csr.lean ====
section
/-! DEFINITION. Control and status registers (spec/11 R306, R307, and the chapter of each register): `csr.r`, `csr.w`; the trap
words `trap`, `brk`, `rtt` (R304, R305) and the watchdog of handlers (R302). -/
namespace Sys2Proof.Machine

/-! ### Values of the registers that programs read -/

/-- Cores in service in the package (R27, R478). -/
def State.coresInService (s : State) : Nat := 512 - s.host.coresLost

/-- `cr.ident` (R27). -/
def State.crIdent (s : State) : Nat := 0x0B1F * 2 ^ 48 + 0x0768 * 2 ^ 32 + (Config.siliconStep.val + 1) * 2 ^ 24 + s.coresInService * 2 ^ 12

/-- `cr.where` (R27). -/
def State.crWhere (s : State) (c : Crew) (t : Thread) : Nat :=
  let p := s.placeOf t
  p.die % 4 * 2 ^ 14 + p.cluster % 16 * 2 ^ 10 + p.core % 8 * 2 ^ 7 + t.slice % 16 * 4 + c.lane.getD 0 % 4

/-- The package time block (R25). -/
def TimeState.guardWord (t : TimeState) : Nat := t.gberr.toNat * 2 ^ 7 + t.guard % 64

/-- `cr.crew` (R121). -/
def Crew.word (c : Crew) (tid active : Nat) : Nat :=
  let slot := match c.members.find? (fun m => m.tid == tid) with | some m => m.slot | none => 0
  c.qdiv.toNat * 2 ^ 31 + slot % 32 * 2 ^ 24 + c.members.length % 64 * 2 ^ 18 + active % 64 * 2 ^ 12 + c.loss % 4 * 2 ^ 10

/-- `cr.tid` (R141). -/
def State.crTid (s : State) (t : Thread) : Nat :=
  (match s.team? t.team with | some m => m.index | none => 0) * 2 ^ 32 + t.spawned.toNat * 2 ^ 10 + t.index % 1024

/-- `cr.frame` (R142). -/
def Frame.word (f : Frame) : Nat :=
  f.index.getD 0xFFFF % 65536 * 2 ^ 48 + f.children % 65536 * 2 ^ 32 + f.depth % 16 * 2 ^ 28 + f.nrp.toNat * 2 ^ 27

/-- A view register (R165). -/
def View.word (v : View) : Nat := v.stride % 4096 * 2 ^ 16 + v.base % 4096

/-- `cr.vslot` (R330). -/
def ViewSlot.word (v : ViewSlot) : Nat := v.bound.toNat * 2 ^ 63 + v.readers % 65536 * 2 ^ 40 + v.version % 2 ^ 24

/-- `cr.cadence` (R430). -/
def EnergyState.cadence (e : EnergyState) : Nat := e.capus % 65536 * 2 ^ 32 + e.limerr.toNat * 2 ^ 31 + e.limit % 8192

/-- `cr.energy` (R430): the balance as a signed number. -/
def EnergyState.accountWord (e : EnergyState) : Nat := ofSigned 64 e.account

/-- The port that `cr.lksel` selects, and the slot (R441). -/
def State.selectedPort (s : State) (t : Thread) : Port := s.port (fld t.lksel.toNat 12 2) (fld t.lksel.toNat 5 7)

/-- `cr.lkstat` (R441). -/
def State.portStatus (s : State) (p : Port) : Nat :=
  let active := ((List.range 8).filter (fun k => match p.slots[k]? with | some x => x.state == 0 | none => false)).foldl (fun a k => a + 2 ^ k) 0
  p.flits % 2 ^ 48 * 2 ^ 16 + active * 2 ^ 8 + (s.freeSpares p.die p.port).length * 2 ^ 4 + p.down.toNat * 2 ^ 3

/-- `cr.lkerr` (R441). -/
def LinkSlot.word (x : LinkSlot) : Nat :=
  x.state % 4 * 2 ^ 62 + x.phys % 64 * 2 ^ 56 + x.evflit % 2 ^ 24 * 2 ^ 32 + min x.wdraw 65535 * 2 ^ 16 + min x.cbe 65535

/-- The registers of a team, by number (R119, R143, R231, R303, R356, R360, R361, R383, R396, R408, R458). -/
def TeamRegs.read (r : TeamRegs) (n : Nat) : Option W64 :=
  match n with
  | 0x21 => some r.binctl | 0x25 => some r.frmctl | 0x32 => some r.spcnt | 0x40 => some r.tvec | 0x46 => some r.tctl
  | 0x88 => some r.mroute | 0x89 => some r.mrcnt | 0x8A => some r.mgrp | 0xC1 => some r.sched
  | 0x100 => some r.wtbase | 0x101 => some r.wtctl | 0x103 => some r.rgtime | 0x143 => some r.cwto
  | _ => if 0x80 ≤ n ∧ n ≤ 0x87 then r.mepi[n - 0x80]? else none

/-- The registers that hold what the interrupted context was (R303). -/
def TrapCtx.read (x : TrapCtx) (n : Nat) : Nat :=
  match n with
  | 0x41 => x.cause.toNat | 0x42 => x.tret.toNat | 0x43 => x.val.toNat | 0x44 => x.saved.fflags.toNat | _ => x.saved.preds.toNat

/-- `cr.tcause`, `cr.tret`, `cr.tval`, `cr.iflags`, `cr.ipred`: registers of trap context. -/
def isTrapReg (n : Nat) : Bool := decide (0x41 ≤ n) && decide (n ≤ 0x45)

/-- A register as a thread sees it before its group (R306). -/
def State.csrRead (s : State) (i : IssueCtx) (t : Thread) (n : Nat) : Nat :=
  let c := (s.crew? i.crew).getD { id := i.crew, team := t.team, slice := t.slice, members := [], q := {}, step := 0 }
  let a := s.asidBlock (s.asidOf t)
  let p := s.selectedPort t
  match i.beforeRegs.read n with
  | some v => v.toNat
  | none =>
    if isTrapReg n then (match t.trap with | some x => x.read n | none => 0)
    else if 0x18 ≤ n ∧ n ≤ 0x1B then (t.view (n - 0x18)).word
    else if 0x60 ≤ n ∧ n ≤ 0x6F then (match a.vslots[n - 0x60]? with | some v => v.word | none => 0)
    else if 0x70 ≤ n ∧ n ≤ 0x7F then ((if n % 2 = 0 then a.vrgnb else a.vrgns).getD ((n - 0x70) / 2) 0).toNat
    else match n with
    | 0x00 => s.crIdent
    | 0x01 => s.crWhere c t
    | 0x02 => s.time.khz.getD (s.placeOf t).die 0
    | 0x03 => s.localTime (s.placeOf t).die
    | 0x04 => s.time.guardWord
    | 0x10 => t.ctx.fflags.toNat
    | 0x11 => t.ctx.srseed.toNat
    | 0x12 => t.ctx.link.toNat
    | 0x13 => t.icarry.toNat
    | 0x14 => t.winSize % 4096
    | 0x20 => c.word t.id i.active.length
    | 0x22 => s.crTid t
    | 0x23 => t.frame.word
    | 0x24 => t.tm
    | 0x30 => a.hkey.toNat
    | 0x31 => a.pkwin.toNat
    | 0x33 => setFld a.asctl.toNat 48 16 a.id
    | 0x50 => i.beforeStep
    | 0x51 => a.vpool.toNat
    | 0x52 => a.vctl.toNat
    | 0x8B => t.mstat.toNat
    | 0xC0 => t.cpyerr.toNat
    | 0x140 => s.links.pkidx
    | 0x141 => a.cntwin.toNat
    | 0x142 => s.links.rto
    | 0x144 => t.rfault.toNat
    | 0x145 => t.lksel.toNat
    | 0x146 => s.portStatus p
    | 0x147 => (p.slots.getD (fld t.lksel.toNat 0 4) {}).word
    | 0x180 => match s.gridOf t with | some g => g.event | none => 0
    | 0x181 => s.energy.accountWord
    | 0x182 => s.energy.cadence
    | _ => 0

/-! ### Writes -/

/-- A field of a written value put at its place. -/
def keepFields (v : Nat) (fs : List (Nat × Nat)) : W64 :=
  BitVec.ofNat 64 (fs.foldl (fun acc f => setFld acc f.1 f.2 (fld v f.1 f.2)) 0)

/-- A team register after a write of v: RW fields take v's bits, W1C bits fall where v has 1, reserved bits read 0; the
stored minima of R119. -/
def TeamRegs.write (r : TeamRegs) (n v : Nat) : TeamRegs :=
  match n with
  | 0x21 => { r with binctl := BitVec.ofNat 64 (max 64 (fld v 16 16) * 65536 + max 16 (fld v 0 12)) }
  | 0x25 => { r with frmctl := BitVec.ofNat 64 ((bit r.frmctl.toNat 31 && !bit v 31).toNat * 2 ^ 31 + fld v 0 16) }
  | 0x32 => { r with spcnt := BitVec.ofNat 64 v }
  | 0x40 => { r with tvec := keepFields v [(0, 56)] }
  | 0x46 => { r with tctl := keepFields v [(0, 2)] }
  | 0x88 => { r with mroute := keepFields v [(54, 10), (0, 52)] }
  | 0x89 => { r with mrcnt := keepFields v [(63, 1), (0, 12)] }
  | 0x8A => { r with mgrp := keepFields v [(0, 56)] }
  | 0x100 => { r with wtbase := keepFields v [(11, 41)] }
  | 0x101 => { r with wtctl := keepFields v [(0, 1)] }
  | 0x103 => { r with rgtime := keepFields v [(32, 32), (0, 8)] }
  | 0x143 => { r with cwto := keepFields v [(0, 32)] }
  | _ => if 0x80 ≤ n ∧ n ≤ 0x87 then { r with mepi := modAt (fun _ => keepFields v [(9, 55), (0, 3)]) (n - 0x80) r.mepi } else r

/-- `cr.tret`, `cr.iflags`, `cr.ipred` after a write (R303). -/
def TrapCtx.write (x : TrapCtx) (n v : Nat) : TrapCtx :=
  match n with
  | 0x42 => { x with tret := keepFields v [(6, 58), (0, 2)] }
  | 0x44 => { x with saved := { x.saved with fflags := BitVec.ofNat 5 v } }
  | 0x45 => { x with saved := { x.saved with preds := BitVec.ofNat 8 v } }
  | _ => x

/-- `cr.mstat` after a write (R347): MERR is RW, bits 4 to 0 are W1C. -/
def mstatWrite (old : W64) (v : Nat) : W64 :=
  BitVec.ofNat 64 (fld v 8 8 * 256 + (BitVec.ofNat 5 old.toNat &&& ~~~(BitVec.ofNat 5 v)).toNat)

/-- `cr.lksel` after a write (R441). -/
def lkselWrite (v : Nat) : W64 := BitVec.ofNat 64 (fld v 5 9 * 32 + min 7 (fld v 0 4))

/-- A thread's register after a write. -/
def Thread.csrWrite (t : Thread) (n v : Nat) : Thread :=
  if isTrapReg n then { t with trap := t.trap.map (fun x => x.write n v) }
  else if 0x18 ≤ n ∧ n ≤ 0x1B then { t with views := modAt (fun _ => ⟨fld v 0 12, fld v 16 12⟩) (n - 0x18) t.views }
  else match n with
  | 0x10 => t.modCtx (fun c => { c with fflags := c.fflags &&& ~~~(BitVec.ofNat 5 v) })
  | 0x11 => t.modCtx (fun c => { c with srseed := BitVec.ofNat 32 v })
  | 0x12 => t.modCtx (fun c => { c with link := BitVec.ofNat 64 v })
  | 0x13 => { t with icarry := BitVec.ofNat 8 v }
  | 0x8B => { t with mstat := mstatWrite t.mstat v }
  | 0x102 => { t with wt := none }
  | 0x145 => { t with lksel := lkselWrite v }
  | _ => t

/-- Whether a register belongs to the team. -/
def isTeamReg (n : Nat) : Bool := (({} : TeamRegs).read n).isSome

/-! ### `csr.r` and `csr.w` (R306) -/

/-- A register of trap context met outside it (R303). -/
def trapRegVerdict (i : IssueCtx) (t : Thread) (n : Nat) : Verdict :=
  .require (!isTrapReg n || t.trap.isSome) Cause.illegalOp i.bits.toNat

/-- `csr.r`. -/
def execCsrR (d : BitVec 6) (num : BitVec 14) (s : State) : Result :=
  let n := num.toNat
  let o : Operand := .vv d s.pfx.ud
  let verdict := fun (i : IssueCtx) (t : Thread) => (operandVerdict i.beforeQ t [] [o]).andThen (trapRegVerdict i t n)
  if s.pfx.ud then
    issueUniform s .ctl verdict
      (fun i t s => s.modCrew i.crew (fun c => { c with q := c.q.set d.toNat (BitVec.ofNat 64 (s.csrRead i t n)) }))
  else
    issueWord s .ctl verdict
      (fun i ps s => ps.foldl (fun z t => z.land64 t.id (o.dst i t) (BitVec.ofNat 64 (s.csrRead i t n))) s)

/-- What a `csr.w` checks beyond its operand: trap context, VIEW_RANGE (R165), the commands of `cr.wtcmd` (R396). -/
def csrWriteVerdict (i : IssueCtx) (t : Thread) (n v : Nat) : Verdict :=
  (trapRegVerdict i t n).andThen
    (if 0x18 ≤ n ∧ n ≤ 0x1B then .require (viewOk (n - 0x18) t.winSize (fld v 0 12) (fld v 16 12)) Cause.viewRange 0
     else if n = 0x102 then
       if fld v 62 2 = 3 then .trap Cause.illegalOp v
       else match t.wt.bind (·.fault) with
         | some f => .trap f.1 f.2
         | none => .pass
     else .pass)

/-- The participants whose command of `cr.wtcmd` has not begun. -/
def wtPending (i : IssueCtx) (ps : List Thread) (n : Nat) (value : Thread → Nat) : List Thread :=
  if n = 0x102 && !i.checked then ps.filter (fun t => (fld (value t) 62 2 == 1 || fld (value t) 62 2 == 2) && t.wt.isNone) else []

/-- The fields of the value that a `csr.w` of a register reads: those that it writes, and of `cr.wtcmd` those that its command takes;
OP 3 reports the whole value (R306, R396). -/
def csrFields (n v : Nat) : List (Nat × Nat) :=
  match n with
  | 0x10 | 0x44 => [(0, 5)]
  | 0x11 | 0x143 => [(0, 32)]
  | 0x13 | 0x45 => [(0, 8)]
  | 0x18 | 0x19 | 0x1A | 0x1B => [(0, 12), (16, 12)]
  | 0x21 => [(0, 12), (16, 16)]
  | 0x25 => [(0, 16), (31, 1)]
  | 0x40 | 0x8A => [(0, 56)]
  | 0x42 => [(0, 2), (6, 58)]
  | 0x46 => [(0, 2)]
  | 0x88 => [(0, 52), (54, 10)]
  | 0x89 => [(0, 12), (63, 1)]
  | 0x8B => [(0, 5), (8, 8)]
  | 0x100 => [(11, 41)]
  | 0x101 => [(0, 1)]
  | 0x102 => match fld v 62 2 with
    | 0 => [(62, 2)]
    | 3 => [(0, 64)]
    | _ => [(0, 24), (62, 2)]
  | 0x103 => [(0, 8), (32, 32)]
  | 0x145 => [(0, 4), (5, 9)]
  | _ => if 0x80 ≤ n ∧ n ≤ 0x87 then [(0, 3), (9, 55)] else [(0, 64)]

/-- The bytes that hold them: what the word reads of its operand (R181). -/
def csrBytes (n v : Nat) : List Nat :=
  (List.range 8).filter (fun k => (csrFields n v).any (fun f => decide (f.1 < 8 * k + 8) && decide (8 * k < f.1 + f.2)))

/-- `csr.w`. A write of `cr.wtcmd` first begins its commands; the crew is not ready until they have ended, and the word then
ends or traps. -/
def execCsrW (d : BitVec 6) (num : BitVec 14) (s : State) : Result :=
  let n := num.toNat
  let o : Operand := .vv d s.pfx.ud
  let value := fun (i : IssueCtx) (t : Thread) => (o.val t i.beforeQ).toNat
  let verdict := fun (i : IssueCtx) (t : Thread) =>
    (fieldVerdict i.beforeQ t [o] ((csrBytes n (value i t)).map (fun k => (o, k, 1)))).andThen
      (csrWriteVerdict i t n (value i t))
  match s.ctl.issue with
  | none => .next s
  | some i =>
    let ps := i.parts
    let todo := wtPending i ps n (value i)
    if ps.all (fun t => verdict i t == .pass) && !todo.isEmpty then
      .next ((todo.foldl (fun s t => s.modThread t.id (fun t' => { t' with
        wt := some { load := fld (value i t) 62 2 == 1
                     table := tableAddr (fld i.beforeRegs.wtbase.toNat 11 41 * 2048) (fld (value i t) 0 24) } })) s).modIssue
          (fun i => { i with status := .parked }))
    else
      issueWord s .ctl verdict
        (fun i ps s => ps.foldl (fun s t =>
          if isTeamReg n then s.modTeam t.team (fun m => { m with regs := m.regs.write n (value i t) })
          else s.modThread t.id (·.csrWrite n (value i t))) s)

/-! ### Trap words (R304, R305) -/

/-- `trap` and `brk`: every participant takes its cause, with the next tied group as return point. -/
def trapWord (cause : Nat) (code : BitVec 14) (s : State) : Result :=
  issueWord s .ctl (fun _ _ => .pass)
    (fun i ps s => ps.foldl (fun s t =>
      s.takeTrap { tid := t.id, cause, val := code.toNat, word := i.word, pipe := Pipe.ctl.code } (i.pkt, i.word) i.next) s)

/-- `trap`. -/
def execTrap (code : BitVec 14) (s : State) : Result := trapWord Cause.soft code s
/-- `brk`. -/
def execBrk (code : BitVec 14) (s : State) : Result := trapWord Cause.break_ code s

/-- A word in flight sent again as issued: a message for a peer leaves by the route that its die has now (R304, R470). -/
def State.resend (s : State) (f : Flight) (ret : Nat × Nat) : Flight :=
  let again := if f.posted then none else some ret
  match f.kind with
  | .remote a => match s.via? a.peer a.via.die with
    | some (via, false) => { f with kind := .remote { a with via }, stage := .start, again }
    | _ => { f with stage := .faulted 0x60 a.va, again }
  | .tile g members peer va bs count via => match s.via? peer via.die with
    | some (via, false) => { f with kind := .tile g members peer va bs count via, stage := .start, again }
    | _ => { f with stage := .faulted 0x60 va, again }
  | .cntAdd mode index value peer mark a via =>
    if mode ≠ 1 then { f with stage := .start, again }
    else match s.via? peer via.die with
      | some (via, false) => { f with kind := .cntAdd mode index value peer mark a via, stage := .start, again }
      | _ => { f with stage := .faulted 0x60 a.toNat, again }
  | _ => { f with stage := .start, again }

/-- The chunk of a faulted `coll`: it begins again, or ends with what it has (R304, R452). -/
def State.settleChunk (s : State) (tid : Nat) (f : Flight) (again : Bool) : State :=
  match f.kind, (s.thread? tid).bind s.gridOf with
  | .coll ci _, some g => match s.chunk? g.event ci with
    | some c => if c.flight != some f.id then s else if again then s.startChunk g.event ci else s.putChunk g.event { c with done := true }
    | none => s
  | _, _ => s

/-- What `rtt` does with the faulted access of the trap: re-performed (1), dropped (2), or pending again (R304). -/
def State.settleFault (s : State) (tid : Nat) (f : Flight) (mode : Nat) (ret : Nat × Nat) : State :=
  if mode = 1 then
    let g := s.resend f ret
    -- an atomic that goes to its peer again is not to be replayed (R140, R146)
    let s := match g.kind, g.stage with
      | .remote a, .start => (match a.op with | .atom _ => s.setNrp tid | _ => s)
      | _, _ => s
    { s with flights := s.flights ++ [g] }
  else if mode = 2 then
    let s := s.settleChunk tid f false
    match f.sb with
    | none => s
    | some sb => f.tids.foldl (fun s t => s.modThread t (·.slotDown f.trapCtx sb)) s
  else s.modThread tid (fun t => { t with faults := f :: t.faults })

/-- The return point that `cr.tret` names (R303). -/
def returnPoint (tret : Nat) : Nat × Nat :=
  if fld tret 6 2 = 3 then (fld tret 8 56 + 1, 0) else (fld tret 8 56, fld tret 6 2)

/-- A thread back in its interrupted context, with the copy and step it kept at entry (R304). -/
def Thread.leaveTrap (t : Thread) : Thread :=
  match t.trap with
  | none => t
  | some x =>
    let ret := returnPoint x.tret.toNat
    { t with trap := none, ctx := { x.saved with pkt := ret.1, word := ret.2 }, q := x.q, step := x.step }

/-- What `rtt` does once every word that the thread issued in trap context has completed (R304): the faulted access is settled, the interrupted
context runs again, the thread is filed. -/
def State.returnTrap (s : State) (tid : Nat) : State :=
  match (s.thread? tid).bind (·.trap) with
  | none => s
  | some x =>
    let s := match x.fault with
      | some f => s.settleFault tid f (fld x.tret.toNat 0 2) (returnPoint x.tret.toNat)
      | none => s
    let s := (s.leaveCrew tid).modThread tid Thread.leaveTrap
    let s := match x.fault with
      | some f => if fld x.tret.toNat 0 2 = 1 then s.settleChunk tid f true else s
      | none => s
    s.file tid

/-- `rtt`. Words tied with it issue with it (R41): the thread leaves its crew and returns once they have completed too. -/
def execRtt (s : State) : Result :=
  issueWord s .ctl
    (fun i t => (Verdict.require t.trap.isSome Cause.illegalOp i.bits.toNat).andThen (s.waitFor t.id (fun f => f.trapCtx)))
    (fun i ps s => ps.foldl (fun s t =>
      if i.words.length ≤ 1 then s.returnTrap t.id
      else (s.leaveCrew t.id).modThread t.id (fun t => { t with status := .returning })) s)

/-- Threads at `rtt` whose words in trap context have completed return. The step does this after what it runs. -/
def State.finishReturns (s : State) : State :=
  ((s.threads.filter (fun t => t.status == .returning && !(s.flightsOf t.id).any (·.trapCtx))).map (·.id)).foldl State.returnTrap s

/-- Whether another thread of a thread's team has been in trap context longer, or as long with a lower index (R311). -/
def State.trappedFirst (s : State) (t : Thread) (entered : Nat) : Bool :=
  s.threads.any (fun u => u.team == t.team && (match u.trap with
    | some y => decide (y.entered < entered) || (y.entered == entered && decide (u.index < t.index))
    | none => false))

/-- HANDLER_TIMEOUT (R302): 100 µs of the die's package time in trap context end in a team fault; the record holds the thread's
code address in trap context (R311). Of several threads of a team the first to get there is the
record's, by index where they do at once. On a fenced die the watchdog stands still (R315). -/
def execHandlerTimeout (tid : Nat) (s : State) : Result :=
  match s.thread? tid with
  | none => notNow "HANDLER_TIMEOUT"
  | some t => match t.trap with
    | none => notNow "HANDLER_TIMEOUT"
    | some x =>
      let die := (s.placeOf t).die
      if s.dieFenced die || t.status == .halted || decide (s.localTime die < x.entered + 100000) || s.trappedFirst t x.entered then notNow "HANDLER_TIMEOUT"
      else .next (s.teamFault t Cause.handlerTimeout 0 t.ctx.pkt t.ctx.word 0 false)

end Sys2Proof.Machine
end

