-- ==== Sys2Proof/Machine/Fetch.lean ====
section
/-! DEFINITION. Fetching a packet (spec/02 R37, R38) and what holds a crew's next group before it issues (spec/02 R54, R55; spec/04
R109, R132; spec/11 R296): what the slice scheduler asks of a crew and what the issue of its group asks again. -/
namespace Sys2Proof.Machine

/-- Byte address of a packet (R37). -/
def packetAddr (p : Nat) : Nat := 12 * p

/-- A byte of code and whether it is poisoned: the live state through slot 0 (R38). DESIGN CHOICE (log 31): where a fetch races a store, R38
leaves open word by word which of the old and the new word it sees; here all 12 bytes are the newest performed ones of one moment. -/
def State.codeByte (s : State) (asid va : Nat) : Byte × Bool :=
  match s.page? asid va with
  | some p => ((s.latest (p.phys va) 1).headD 0, s.latestBad (p.phys va) 1)
  | none => (0, false)

/-- What fetching a packet comes to: its words, a cause with its value, a wait for the driver (R253) or for a fenced quadrant (R22). -/
inductive Fetched where
  | words (ws : List W32)
  | fault (cause val : Nat)
  | demand (va : Nat)
  | wait (va : Nat)
  deriving DecidableEq, Repr

/-- The first byte of each page that a packet touches. -/
def packetStarts (a : Nat) : List Nat := if a / 65536 = (a + 11) / 65536 then [a] else [a, (a + 11) / 65536 * 65536]

/-- A packet fetched (R38, R252, R298). -/
def State.fetch (s : State) (asid pkt : Nat) : Fetched :=
  let a := packetAddr pkt
  if !inRange a 12 then .fault Cause.fetchFault a
  else
    let walks := (packetStarts a).map (fun va => (va, s.translate asid va .fetch))
    match walks.find? (fun w => match w.2 with | .fault _ => true | _ => false) with
    | some w => .fault Cause.fetchFault w.1
    | none => match walks.find? (fun w => w.2 == .demand) with
      | some w => .demand w.1
      | none => match (packetStarts a).find? s.homeFenced with
      | some va => .wait va
      | none =>
        let bs := (List.range 12).map (fun k => s.codeByte asid (a + k))
        match (List.range 12).find? (fun k => (bs.getD k (0, false)).2) with
        | some k => .fault Cause.memPoison (a + k)
        | none => .words (wordsOfBytes (bs.map (·.1)))

/-- The accessed bits of the pages of a packet (R251). -/
def State.touchCode (s : State) (asid pkt : Nat) : State :=
  (packetStarts (packetAddr pkt)).foldl (fun s va => match s.page? asid va with
    | some p => s.touchPage p false
    | none => s) s

/-- The words in flight whose lookahead windows end before the last of the next n instructions (R55). -/
def Thread.closing (t : Thread) (n : Nat) : List Nat := (t.ctx.windows.filter (fun w => decide (w.2 < n))).map (·.1)

/-- What holds a thread's next n instructions: an `sbwait` (R132) or a lookahead window that ends before the last of them
(R55); held, or at the holding point of a pending fault. -/
def State.holdVerdict (s : State) (n : Nat) (t : Thread) : Verdict :=
  let closed := t.closing n
  let waits := match t.ctx.hold with
    | some (slot, k) => decide (t.ctx.slots.getD slot 0 > k)
    | none => false
  let lateSlot := waits && t.faults.any (fun f => t.faultHere f && (f.sb == t.ctx.hold.map (·.1) || f.posted))
  let lateWin := t.faults.any (fun f => closed.contains f.id || (t.faultHere f && f.posted && !closed.isEmpty))
  if lateSlot || lateWin then .late
  else if waits || s.flights.any (fun f => closed.contains f.id) then .hold
  else .pass

/-- Whether the next n instructions are the wait that ends a job, with its mark to be reconciled (R288). -/
def Thread.markDue (t : Thread) (n : Nat) (m : Nat × Nat × Nat) : Bool :=
  t.ctx.hold == some (m.1, 0) || (t.closing n).contains m.2.1

/-- The marks of a thread's completed jobs that fall due, as edges that it waits for (R288, R147). -/
def Thread.takeMarks (t : Thread) (n : Nat) : Thread :=
  ((t.ctx.marks.filter (t.markDue n)).foldl (fun (t : Thread) m => t.addEdge m.2.2) t).modCtx (fun c =>
    { c with marks := c.marks.filter (fun m => !t.markDue n m) })

/-- The marks that fall due at the next n instructions of a crew's active members. -/
def State.dueMarks (s : State) (active : List Thread) (n : Nat) : State :=
  active.foldl (fun s t => s.modThread t.id (fun t => t.takeMarks n)) s

/-! ### Readiness (R109) -/

/-- The codes of the words of formats M and MX, which count in a scoreboard slot (R54, R60). -/
def slotOps : List Nat :=
  [0x100, 0x101, 0x102, 0x103, 0x104, 0x105, 0x106, 0x107, 0x108, 0x121]
  ++ [0x140, 0x141, 0x142, 0x143, 0x144, 0x145, 0x146, 0x147]
  ++ [0x150, 0x151, 0x152, 0x153, 0x154, 0x155, 0x156, 0x157, 0x158, 0x159, 0x15B]
  ++ [0x160, 0x161, 0x162, 0x163, 0x164, 0x165, 0x166, 0x167, 0x168]
  ++ [0x180, 0x181, 0x182, 0x183, 0x184, 0x185, 0x186, 0x187, 0x18A, 0x18B, 0x18C, 0x18D, 0x190, 0x191, 0x192]
  ++ [0x1C0, 0x1C2, 0x1C3, 0x1C9, 0x1CC]
  ++ [0x1E0, 0x1E1, 0x1E2, 0x1E4, 0x1E5, 0x1E7, 0x1E8, 0x1E9, 0x1F0, 0x1F1, 0x1F2, 0x1F4, 0x1F5]

/-- The slot a unit of a group counts in, and by how many: an SFU word counts once per step of its block, at most 63 at a time. -/
def GroupUnit.counts (u : GroupUnit) : Option (Nat × Nat) :=
  if slotOps.contains (wordOp u.word) then
    some ((bits u.word 1 3).toNat, if u.instr.pipe == some .sfu then min (u.pfx.rows * u.pfx.cols) 63 else 1)
  else none

/-- Whether R54 lets a group issue in a thread: no slot that its words count in would pass 63. -/
def Group.fits (g : Group) (t : Thread) : Bool :=
  let need := (g.units.filter (fun u => guardHolds u.pfx t)).filterMap GroupUnit.counts
  need.all (fun x => decide (t.ctx.slots.getD x.1 0 + ((need.filter (fun y => y.1 == x.1)).map (·.2)).sum ≤ 63))

/-- How many instructions a group is: nops count as none (R55). -/
def Group.count (g : Group) : Nat := (g.units.filter (fun u => u.instr != .nop)).length

/-- How many instructions the next group of a crew's active members is, 1 where it is none. -/
def State.nextCount (s : State) (active : List Thread) : Nat :=
  match active with
  | [] => 1
  | t :: _ => match s.fetch (s.asidOf t) t.ctx.pkt with
    | .words ws => match decodeGroup ws t.ctx.word with | .ok g => Group.count g | .error _ => 1
    | _ => 1

/-- Whether R54, R55 and `sbwait` let a crew's next group issue in every active member (R109); a member at the holding point of a
pending fault is not held, nor is a crew whose packet is still to be asked for. -/
def State.groupMay (s : State) (active : List Thread) : Bool :=
  let free := fun (n : Nat) => active.all (fun t => s.holdVerdict n t != .hold && !t.ctx.marks.any (t.markDue n))
  match active with
  | [] => false
  | t :: _ => match s.fetch (s.asidOf t) t.ctx.pkt with
    | .fault _ _ | .demand _ => free 1
    | .wait _ => false
    | .words ws => match decodeGroup ws t.ctx.word with
      | .error _ => free 1
      | .ok g => free (Group.count g) && active.all (fun t => Group.fits g t || s.holdVerdict (Group.count g) t == .late)

end Sys2Proof.Machine
end

