-- ==== Sys2Proof/Machine/Scheduler.lean ====
section
/-! DEFINITION. Bins, the crew queue, the active set and the slice scheduler (spec/04 R109-R120, spec/11 R301), and the scrubbing
of register banks, scratchpads and caches (spec/06 R180, spec/08 R240, spec/09 R263). -/
namespace Sys2Proof.Machine

/-! ### Drawing crews from bins (R116) -/

/-- AGE of a bin's team, 64 for handlers (R119, R301). -/
def State.binAge (s : State) (b : Bin) : Nat :=
  if b.trap then 64 else match s.team? b.team with | some m => fld m.regs.binctl.toNat 0 12 | none => 256

/-- BIN_AGE_DRAW: for each slice with threads in the bin, up to 32 of them. -/
def execBinAgeDraw (bin : Nat) (s : State) : Result :=
  match s.bin? bin with
  | none => notNow "BIN_AGE_DRAW"
  | some b =>
    if s.dieFenced b.place.die || decide (s.dclk b.place.die < b.oldest + s.binAge b) then notNow "BIN_AGE_DRAW"
    else .next ((s.binSlices b).foldl (fun s k => s.drawSlice bin k) s)

/-- The crews of a slice of a core. -/
def State.crewsAt (s : State) (p : Place) (slice : Nat) : List Crew :=
  s.crews.filter (fun c => c.slice == slice && (match s.team? c.team with | some m => m.place == p | none => false))

/-- A slice's crew queue: crews outside the active set that are not parked (R110, R114, R234). -/
def State.crewQueue (s : State) (p : Place) (slice : Nat) : List Crew := (s.crewsAt p slice).filter (fun c => c.lane.isNone && c.parked.isEmpty)

/-- A lane's active set (R110). -/
def State.activeSet (s : State) (p : Place) (slice lane : Nat) : List Crew := (s.crewsAt p slice).filter (fun c => c.lane == some lane)

/-- The record of a lane. -/
def State.laneAt (s : State) (p : Place) (slice lane : Nat) : Lane :=
  (s.lanes.find? (fun l => l.place == p && l.slice == slice && l.lane == lane)).getD { place := p, slice, lane }

/-- A lane with a free active-set place (R110, R312). -/
def State.laneFree (s : State) (p : Place) (slice lane : Nat) : Bool :=
  decide (lane < 4) && !(s.laneAt p slice lane).failed && decide ((s.activeSet p slice lane).length < 2)

/-- When the oldest of a bin's threads of a slice was filed. -/
def State.binOldest (s : State) (b : Bin) (slice : Nat) : Option Nat :=
  minNat? ((b.threads.filter (fun x => match s.thread? x.1 with | some t => t.slice == slice | none => false)).map (·.2))

/-- BIN_IDLE_DRAW: a lane has a free place, the slice's crew queue is empty, and the bin's oldest thread of the slice has waited
longest. -/
def execBinIdleDraw (bin slice lane : Nat) (s : State) : Result :=
  match s.bin? bin with
  | none => notNow "BIN_IDLE_DRAW"
  | some b => match s.binOldest b slice with
    | none => notNow "BIN_IDLE_DRAW"
    | some t =>
      let rivals := (s.bins.filter (fun x => x.place == b.place)).filterMap (fun x => s.binOldest x slice)
      if s.dieFenced b.place.die || !s.laneFree b.place slice lane || !(s.crewQueue b.place slice).isEmpty || rivals.any (fun r => decide (r < t)) then
        notNow "BIN_IDLE_DRAW"
      else .next (s.drawSlice bin slice)

/-! ### Readiness (R109) -/

/-- Whether a crew is ready as far as can be told before its group is fetched (R109): in the active set, its gap passed, not
parked, its die not fenced, its team on the core and not about to leave it, no fetch waiting; no active member with an edge, at
a barrier or with a command of `cr.wtcmd` that has not ended. -/
def State.crewReady (s : State) (c : Crew) (active : List Thread) : Bool :=
  let home := match s.team? c.team with
    | some m => m.status == .resident && (!m.evict || c.handler) && !s.dieFenced m.place.die && decide (c.gapUntil ≤ s.dclk m.place.die)
    | none => false
  home && c.lane.isSome && c.parked.isEmpty && !active.isEmpty
    && !s.mem.requests.any (fun r => r.valid && r.fetchers.contains c.id)
    && active.all (fun t => t.edge.isNone && !s.atBarrier t && t.wt.all (·.ended))

/-- The threads of a crew's next group. -/
def State.activeThreads (s : State) (c : Crew) : List Thread := (s.activeOf c).filterMap s.thread?

/-- Whether a crew is ready (R109): the conditions above, and R54, R55 and `sbwait` in every active member. -/
def State.crewMay (s : State) (c : Crew) : Bool := s.crewReady c (s.activeThreads c) && s.groupMay (s.activeThreads c)

/-- A crew is not ready at a decision point: since when (R114). -/
def State.markNotReady (s : State) (c : Crew) : State :=
  let now := match s.team? c.team with | some m => s.dclk m.place.die | none => 0
  s.modCrew c.id (fun c => { c with notReadySince := some (c.notReadySince.getD now) })

/-- Whether nothing but the marks of completed jobs that fall due holds a crew's next group (R288). -/
def State.marksHold (s : State) (c : Crew) : Bool :=
  let active := s.activeThreads c
  s.crewReady c active && !s.groupMay active
    && s.groupMay (active.map (fun t => t.modCtx (fun x => { x with marks := [] })))

/-- The marks that a crew's next group waits for become edges. -/
def State.takeDue (s : State) (c : Crew) : State :=
  let active := s.activeThreads c
  if s.marksHold c then s.dueMarks active (s.nextCount active) else s

/-! ### The active set (R110, R114) -/

/-- Whether crew a stands before crew b in the crew queue: handlers first, then by arrival (R110, R301). -/
def queueBefore (a b : Crew) : Bool := if a.handler != b.handler then a.handler else decide (a.ticket < b.ticket)

/-- CREW_ACTIVATE: the crew at the head of its slice's queue enters a lane with a free place. -/
def execCrewActivate (cid lane : Nat) (s : State) : Result :=
  match s.crew? cid with
  | none => notNow "CREW_ACTIVATE"
  | some c => match s.team? c.team with
    | none => notNow "CREW_ACTIVATE"
    | some m =>
      let q := s.crewQueue m.place c.slice
      if s.dieFenced m.place.die || m.status != .resident || !q.any (fun x => x.id == cid) || q.any (fun x => queueBefore x c)
          || !s.laneFree m.place c.slice lane then notNow "CREW_ACTIVATE"
      else .next (s.modCrew cid (fun c => { c with lane := some lane, entered := s.dclk m.place.die, notReadySince := none }))

/-- A crew back at the tail of its slice's queue (R114). -/
def State.requeue (s : State) (cid : Nat) : State :=
  let (t, s) := s.newId
  s.modCrew cid (fun c =>
    let now := match s.team? c.team with | some m => s.dclk m.place.die | none => 0
    { c with lane := none, ticket := t, queuedAt := now, notReadySince := none })

/-- CREW_NOT_READY_TIMEOUT: not ready for 512 dclk, and still not, while another crew waits in the slice's queue. -/
def execCrewNotReadyTimeout (cid : Nat) (s : State) : Result :=
  match s.crew? cid with
  | none => notNow "CREW_NOT_READY_TIMEOUT"
  | some c => match s.team? c.team, c.notReadySince with
    | some m, some since =>
      if c.lane.isNone || s.dieFenced m.place.die || (s.crewMay c && !c.stalled) || decide (s.dclk m.place.die < since + 512) || (s.crewQueue m.place c.slice).isEmpty then
        notNow "CREW_NOT_READY_TIMEOUT"
      else .next (s.requeue cid)
    | _, _ => notNow "CREW_NOT_READY_TIMEOUT"

/-- CREW_RESIDENCY_TIMEOUT: 2,048 dclk in the active set while a crew has waited in the queue for that long; the crew of the slice
that entered earliest leaves. -/
def execCrewResidencyTimeout (cid : Nat) (s : State) : Result :=
  match s.crew? cid with
  | none => notNow "CREW_RESIDENCY_TIMEOUT"
  | some c => match s.team? c.team with
    | none => notNow "CREW_RESIDENCY_TIMEOUT"
    | some m =>
      let now := s.dclk m.place.die
      let waited := (s.crewQueue m.place c.slice).any (fun x => decide (now ≥ x.queuedAt + 2048))
      let earlier := (s.crewsAt m.place c.slice).any (fun x => x.lane.isSome && decide (x.entered < c.entered))
      if c.lane.isNone || s.dieFenced m.place.die || decide (now < c.entered + 2048) || !waited || earlier then notNow "CREW_RESIDENCY_TIMEOUT"
      else .next (s.requeue cid)

/-- STRAY_TIMEOUT (R120): a member has been off-path for STRAY dclk: at its crew's next decision point every member of the crew is filed. -/
def execStrayTimeout (tid : Nat) (s : State) : Result :=
  match s.crewOf tid with
  | none => notNow "STRAY_TIMEOUT"
  | some c => match s.team? c.team, c.members.find? (fun m => m.tid == tid) with
    | some m, some x => match x.offSince with
      | none => notNow "STRAY_TIMEOUT"
      | some since =>
        let now := s.dclk m.place.die
        -- a decision point of the crew: in the active set, not parked (R234), its lane's last group through (R111)
        let deciding := match c.lane with | some l => c.parked.isEmpty && decide ((s.laneAt m.place c.slice l).busyUntil ≤ now) | none => false
        if s.dieFenced m.place.die || !deciding || (s.activeOf c).contains tid || decide (now < since + fld m.regs.binctl.toNat 16 16) then notNow "STRAY_TIMEOUT"
        else .next ((c.members.map (·.tid)).foldl State.fileFromCrew s)
    | _, _ => notNow "STRAY_TIMEOUT"

/-! ### The slice scheduler (R109, R111) -/

/-- Whether crew a wins over crew b (R111): LOSS 3; one that gave way loses to one that did not; the issue that lies further back;
the earlier entry. DESIGN CHOICE (log 31): of two that entered in the same dclk, the one that became a crew first; of two crews with LOSS 3,
for which step 1 names no order, the one that step 3 names, whether or not it gave way. -/
def crewWins (a b : Crew) : Bool :=
  if (a.loss == 3) != (b.loss == 3) then a.loss == 3
  else if a.loss != 3 && a.gaveWay != b.gaveWay then !a.gaveWay
  else match a.lastIssue, b.lastIssue with
    | none, none => decide (a.entered ≤ b.entered)
    | none, some _ => true
    | some _, none => false
    | some x, some y => if x = y then decide (a.entered ≤ b.entered) else decide (x < y)

/-- The winner among crews. -/
def winner : List Crew → Option Crew
  | [] => none
  | c :: rest => match winner rest with
    | none => some c
    | some d => if crewWins c d then some c else some d

/-- A crew that is not ready at a decision point: the time is noted (R114), and the marks it waits for become edges. -/
def State.passOver (s : State) (c : Crew) : State := (s.markNotReady c).takeDue c

/-- A ready crew at a decision point: its LOSS, 0 for the winner (R111). -/
def Crew.decided (c : Crew) (winner : Nat) : Crew :=
  { c with loss := if c.id == winner then 0 else min 3 (c.loss + 1), notReadySince := if c.stalled then c.notReadySince else none }

/-- SCHEDULER_DECISION: at a decision point of a lane the winner among its ready crews issues next; the others' LOSS rises; a crew that
is not ready keeps its LOSS. Without a ready crew the event notes those that are not. -/
def execSchedulerDecision (p : Place) (slice lane : Nat) (s : State) : Result :=
  let l := s.laneAt p slice lane
  let (ready, idle) := (s.activeSet p slice lane).partition s.crewMay
  if s.ctl.focus.isSome || l.failed || decide (s.dclk p.die < l.busyUntil) then notNow "SCHEDULER_DECISION"
  else match winner ready with
    | none =>
      if idle.any (fun c => c.notReadySince.isNone || s.marksHold c) then .next (idle.foldl State.passOver s)
      else notNow "SCHEDULER_DECISION"
    | some w =>
      let s := ready.foldl (fun s c => s.modCrew c.id (·.decided w.id)) (idle.foldl State.passOver s)
      .next (s.modCtl (fun x => { x with focus := some w.id }))

/-! ### Scrubbing: the event names what the codes have found (R180, R240, R263) -/

/-- A scrub pass counted, with the errors that it corrected. -/
def State.scrubbed (s : State) (die unit corrected : Nat) : State :=
  let s := if corrected = 0 then s else s.bump (serviceIndex die unit 0) corrected
  s.bump (serviceIndex die unit 1)

/-- The 8 bytes of a granule marked among poisoned bytes. -/
def poisonGranule (g : Nat) (l : List Nat) : List Nat := ((List.range 8).map (8 * g + ·)).foldl (fun l b => insertNat b l) l

/-- A granule of the q copy that a thread uses poisoned: its crew's, or the one it carries (R182). -/
def State.poisonQ (s : State) (t : Thread) (g : Nat) : State :=
  match s.crewOf t.id with
  | some c => s.modCrew c.id (fun c => { c with q := { c.q with poison := poisonGranule g c.q.poison } })
  | none => s.modThread t.id (fun t => { t with q := { t.q with poison := poisonGranule g t.q.poison } })

/-- REGISTER_SCRUB: a granule of a thread's window, or of its q copy, with an uncorrectable error is poisoned. -/
def execRegisterScrub (tid : Nat) (found : RegisterErrors) (s : State) : Result :=
  match s.thread? tid with
  | none => notNow "REGISTER_SCRUB"
  | some t =>
    if found.granule.any (fun g => decide (8 * g ≥ t.winSize)) || found.q.any (fun g => decide (g ≥ 32)) then notNow "REGISTER_SCRUB"
    else
      let s := s.scrubbed (s.placeOf t).die 0 found.corrected
      let s := match found.granule with
        | some g => s.modThread tid (fun t => { t with winPoison := poisonGranule g t.winPoison })
        | none => s
      .next (match found.q with | some g => s.poisonQ t g | none => s)

/-- The die that counts what happens to an allotment: its core's; 0 for what is no one core's. -/
def State.scrDie (s : State) (level owner : Nat) : Nat :=
  match level with
  | 1 | 2 => 0
  | 3 => match s.thread? owner with | some t => (s.placeOf t).die | none => 0
  | _ => match s.team? owner with | some m => m.place.die | none => 0

/-- Bytes that a scrub finds at a level and owner: an allotment's, or those of a handle's range. -/
def State.scrubSize (s : State) (x : ScratchGranule) : Nat :=
  if x.level < 4 then (s.scr x.level x.owner).size
  else match (s.team? x.owner).bind (fun m => m.handle (x.level - 4)) with | some h => 128 * recSize h.rec0 | none => 0

/-- SCRATCH_SCRUB: a granule of an allotment, or of a range of the operand buffer, with an uncorrectable error is poisoned. -/
def execScratchScrub (found : ScratchErrors) (s : State) : Result :=
  match found.granule with
  | none => .next (s.scrubbed 0 2 found.corrected)
  | some x =>
    if 8 * x.granule ≥ s.scrubSize x then notNow "SCRATCH_SCRUB"
    else
      let s := s.scrubbed (s.scrDie x.level x.owner) 2 found.corrected
      .next (if x.level < 4 then s.modScr x.level x.owner (fun y => { y with poison := insertNat x.granule y.poison })
        else s.modHandle x.owner (x.level - 4) (fun h => { h with poison := insertNat x.granule h.poison }))

/-- The die and the unit class whose counters a unit's passes raise (R479, log 13): a stack's are those of its quadrant, the hub's die 0's. -/
def unitCounters : CacheUnit → Nat × Nat
  | .l1 p => (p.die, 1)
  | .l2 die => (die, 1)
  | .hub => (0, 1)
  | .stack k => (k / 3, 3)

/-- An uncorrectable error in the granule at a physical address, in one unit: a clean line is dropped there, to be fetched again; dirty data, the
hub's cache and a stack have the granule poisoned (R263). An L1 holds no dirty data (R257). -/
def State.uncorrectable (s : State) (unit : CacheUnit) (a : Nat) : State :=
  let line := lineOf a
  match unit with
  | .l1 p => s.modMem (fun m => { m with l1 := m.l1.filter (fun x =>
      !(x.place == p && m.l2.any (fun l => l.pa == line && l.isAt p.die x.asid x.slot x.line))) })
  | .l2 die =>
    let s := s.modMem (fun m => { m with l2 := m.l2.map (fun l =>
      if l.die == die && l.pa == line && l.dirty then { l with poison := insertNat (a % 128 / 8) l.poison } else l) })
    s.giveUp (fun l => l.die == die && l.pa == line && !l.dirty)
  | .hub | .stack _ => s.modMem (fun m => { m with poison := insertNat (a / 8) m.poison })

/-- CACHE_SCRUB (R263): the pass is counted, and the effect of an uncorrectable error stays in the unit that holds it. -/
def execCacheScrub (found : CacheErrors) (s : State) : Result :=
  let s := s.scrubbed (unitCounters found.unit).1 (unitCounters found.unit).2 found.corrected
  match found.pa with
  | none => .next s
  | some a => .next (s.uncorrectable found.unit a)

end Sys2Proof.Machine
end

