-- ==== Sys2Proof/Machine/Grids.lean ====
section
/-! DEFINITION. Launch records, their checks, the grids that come of them and when a grid is ready (spec/16 R415-R423; spec/08
R223; spec/14 R382; spec/17 R450, R451). -/
namespace Sys2Proof.Machine

/-! ### Dependences of a record (R420) -/

/-- KIND of a dependence. -/
def depKind (d : Nat) : Nat := fld d 126 2

/-- A dependence whose fields that R420 requires to be zero are zero. -/
def depZeros (d : Nat) : Bool :=
  fld d 67 58 == 0 && (depKind d != 0 || d == 0) && (depKind d != 2 || fld d 24 40 == 0)

/-! ### Reading what a record names -/

/-- A read of the queue engine: bytes, a failure, or a wait. -/
inductive RecordRead where
  | bytes (bs : List Byte)
  | bad
  | wait (w : ReadWait)
  deriving DecidableEq, Repr

/-- For whom a record is read: the crew of a `launch`, or the queue engine under a grid's number. -/
inductive ReadFor where
  | crew (c : Nat)
  | engine (e : Nat)
  deriving DecidableEq, Repr

/-- A read of the live state for a record. A read that faults fails the
check that needs it (log 18). -/
def State.recordRead (s : State) (crew : ReadFor) (asid va n : Nat) : RecordRead :=
  if !inRange va n then .bad
  else match (s.engineRead asid va n).1 with
    | .ok bs => .bytes bs
    | .error (.demand v _) =>
      let refused := match crew with
        | .crew c => ((s.crew? c).bind (·.refused)) == some (v / 65536 * 65536)
        | .engine e => s.engineRefused e asid v
      if refused then .bad else .wait (.driver v)
    | .error (.fenced v) => .wait (.home v)
    | .error _ => .bad

/-- What reading a part of a record comes to: a value, a failed check, a wait. -/
inductive Part (α : Type) where
  | got (x : α)
  | bad
  | wait (w : ReadWait)

/-- The layout record of a card, where it has one. -/
def State.entryRecord (s : State) (crew : ReadFor) (asid : Nat) (c : Card) : Part Nat :=
  match c.recordAt with
  | none => .got 0
  | some va =>
    if va % 64 ≠ 0 then .bad
    else match s.recordRead crew asid va 64 with
      | .bytes bs => .got (bytesToNat bs)
      | .bad => .bad
      | .wait w => .wait w

/-- The n entries of a schedule from entry k, each checked under R374 steps 3 and 4 (R382). -/
def State.schedEntries (s : State) (crew : ReadFor) (asid header : Nat) : Nat → Nat → Part (List (Nat × Nat))
  | _, 0 => .got []
  | k, n + 1 => match s.recordRead crew asid (header + 64 + 128 * k) 128 with
    | .bad => .bad
    | .wait w => .wait w
    | .bytes bs =>
      let c : Card := ⟨bytesToNat bs⟩
      if !c.ok 4 0 then .bad
      else match s.entryRecord crew asid c with
        | .bad => .bad
        | .wait w => .wait w
        | .got r =>
          if c.recordVerdict ⟨r⟩ != .pass then .bad
          else match State.schedEntries s crew asid header (k + 1) n with
            | .got l => .got ((c.bits, r) :: l)
            | x => x

/-- A schedule as read at the launch: its header and entries (R382). -/
def State.readSchedule (s : State) (crew : ReadFor) (asid va : Nat) : Part (Nat × List (Nat × Nat)) :=
  if va = 0 then .got (0, [])
  else if va % 64 ≠ 0 then .bad
  else match s.recordRead crew asid va 64 with
    | .bad => .bad
    | .wait w => .wait w
    | .bytes bs =>
      let h := bytesToNat bs
      let n := fld h 128 9
      if fld h 137 375 ≠ 0 ∨ n = 0 ∨ n > 256 then .bad
      else match s.schedEntries crew asid va 0 n with
        | .got l => .got (h, l)
        | .bad => .bad
        | .wait w => .wait w

/-- The checks of a peloton binding on its own fields (R450, R451). -/
def Binding.fieldsOk (b : Binding) : Bool :=
  fld b 448 576 == 0 && fld b 356 28 == 0 && fld b 331 5 == 0 && fld b 314 6 == 0
  && decide (b.op ≤ 1) && [1, 2, 4].contains b.fmt
  && decide (1 ≤ b.nranks) && decide (b.nranks ≤ 1024) && decide (b.rank < b.nranks) && decide (1 ≤ b.nchunks)
  && decide (b.chunk ≤ 2 ^ 24) && b.chunk % (128 * b.p) == 0 && b.status % 128 == 0

/-- The ranks that a rank sends to (R452). -/
def Binding.partners (b : Binding) : List Nat :=
  dedup (b.phases.map b.from_ ++ (if decide (b.rank < b.p) && decide (b.rank + b.p < b.nranks) then [b.rank + b.p] else []))

/-- The package indexes of some ranks, from the rank table (R450). -/
def State.readRanks (s : State) (crew : ReadFor) (asid : Nat) (b : Binding) : List Nat → Part (List (Nat × Nat))
  | [] => .got []
  | r :: rest => match s.recordRead crew asid (b.peers + 2 * r) 2 with
    | .bad => .bad
    | .wait w => .wait w
    | .bytes es => match State.readRanks s crew asid b rest with
      | .got l => .got ((r, fld (bytesToNat es) 0 10) :: l)
      | x => x

/-- A grid's binding as read at the launch, with the packages of the ranks it sends to; none without one (R450, R451). DESIGN CHOICE
(log 14): the rank table's entries are read with it. -/
def State.readBinding (s : State) (crew : ReadFor) (asid va : Nat) : Part (Option (Binding × List (Nat × Nat))) :=
  if va = 0 then .got none
  else if va % 128 ≠ 0 then .bad
  else match s.recordRead crew asid va 128 with
    | .bad => .bad
    | .wait w => .wait w
    | .bytes bs =>
      let b : Binding := bytesToNat bs
      let window := fld (s.asidBlock asid).cntwin.toNat 16 13
      if !b.fieldsOk || (b.cnten && decide (window < b.cntb + b.nchunks))
        || s.grids.any (fun g => g.status != .complete && g.peloton.any (fun x => x.tag == b.tag)) then .bad
      else match s.recordRead crew asid (b.peers + 2 * b.rank) 2 with
        | .bad => .bad
        | .wait w => .wait w
        | .bytes es =>
          if fld (bytesToNat es) 0 10 != s.links.pkidx then .bad
          else match s.readRanks crew asid b b.partners with
            | .got l => .got (some (b, l))
            | .bad => .bad
            | .wait w => .wait w

/-! ### The checks of a record (R421) -/

/-- REASON 1 to 5, which the record itself shows; 0 where none holds. -/
def LaunchRecord.reason (r : LaunchRecord) : Nat :=
  if !(LaunchRecord.reserved.all (fun f => fld r.bits f.1 f.2 == 0) && (List.range 8).all (fun d => depZeros (r.dep d))) then 1
  else if r.teams = 0 ∨ r.teams % r.cteams ≠ 0 ∨ r.policy ≥ 2 then 2
  else if r.window > 2048 ∨ r.priv > 4096 ∨ r.scratch > 1048576 ∨ r.contribution > 524288
      ∨ r.scratch + r.contribution > 1048576 ∨ r.threads * r.priv > 1048576 then 3
  else if !((List.range 4).all (fun i => match (recordViews r.bits)[i]? with | some v => viewOk i r.window v.base v.stride | none => true)) then 4
  else if r.pool % 64 ≠ 0 ∨ r.save % 128 ≠ 0 ∨ r.compl % 64 ≠ 0 ∨ (r.pool = 0 ∧ r.frames ≠ 0) then 5
  else 0

/-- The capacity of the energy account (R430). -/
def EnergyState.capacity (e : EnergyState) : Nat := e.capusNow * e.limitNow

/-- What the checks of a record come to: the first REASON that holds (R421), or what the grid keeps of it. -/
inductive RecordCheck where
  | refused (reason : Nat)
  | accepted (schedHeader : Nat) (sched : List (Nat × Nat)) (peloton : Option (Binding × List (Nat × Nat)))
  | wait (w : ReadWait)
  deriving DecidableEq, Repr

/-- R421. -/
def State.checkRecord (s : State) (crew : ReadFor) (asid : Nat) (r : LaunchRecord) : RecordCheck :=
  if r.reason ≠ 0 then .refused r.reason
  else match s.readSchedule crew asid r.sched with
    | .bad => .refused 6
    | .wait w => .wait w
    | .got (h, l) => match s.readBinding crew asid r.peloton with
      | .bad => .refused 7
      | .wait w => .wait w
      | .got b =>
        if (List.range 8).any (fun d => depKind (r.dep d) == 3) then .refused 8
        else if r.est > s.energy.capacity then .refused 9
        else .accepted h l b

/-! ### Grids and their dependences (R418, R423) -/

/-- Fields of a queue's descriptor (R415). -/
def Queue.fld (q : Queue) (lo n : Nat) : Nat := Machine.fld q.desc.toNat lo n
def Queue.enabled (q : Queue) : Bool := q.desc.getLsbD 0
def Queue.stopErr (q : Queue) : Bool := q.desc.getLsbD 1
def Queue.slots (q : Queue) : Nat := q.fld 2 4
def Queue.prioMax (q : Queue) : Nat := q.fld 8 6
def Queue.stopped (q : Queue) : Bool := q.desc.getLsbD 31
def Queue.vec (q : Queue) : Nat := q.fld 32 11
def Queue.asid (q : Queue) : Nat := q.fld 48 16
def Queue.base (q : Queue) : Nat := q.fld 64 28

/-- Event number of ring record i of a queue, and of the queue's child grid c (R418). -/
def ringEvent (q i : Nat) : Nat := q * 2 ^ 48 + i % 2 ^ 47
def childEvent (q c : Nat) : Nat := q * 2 ^ 48 + 2 ^ 47 + c % 2 ^ 47

def State.queue (s : State) (q : Nat) : Queue := s.queues.getD q {}
def State.modQueue (s : State) (q : Nat) (f : Queue → Queue) : State := { s with queues := modAt f q s.queues }

/-- What a dependence comes to: met, failed, or still open. -/
inductive DepState where
  | met
  | failed
  | unmet
  deriving DecidableEq, Repr

/-- A dependence of a grid (R423). -/
def State.depState (s : State) (asid d : Nat) : DepState :=
  match depKind d with
  | 1 => match s.events.find? (fun e => e.event == fld d 0 64) with
    | none => .unmet
    | some e => if e.failed && bit d 125 then .failed else .met
  | 2 => if ((s.asidBlock asid).region (fld d 64 3)).pub ≥ fld d 0 24 then .met else .unmet
  | _ => .met

/-- The dependences of a grid together. -/
def State.gridDeps (s : State) (g : Grid) : DepState :=
  let l := (List.range 8).map (fun d => s.depState g.asid (g.rec_.dep d))
  if l.contains .failed then .failed else if l.contains .unmet then .unmet else .met

/-- Whether a grid still waits for its dependences. -/
def Grid.waits (g : Grid) : Bool := g.status == .queued && !g.unchecked && g.ready.isNone && !g.depFailed && g.refused == 0 && g.error.isNone

/-- A time by which every write performed so far, at a home or in a die's L2, is visible on every die: no lease that a home has granted outlasts
it (R260, R261). -/
def State.settledTime (s : State) : Nat :=
  let home := ((List.range 8).map (fun r => s.localTime r + 4)).foldl max 0
  (s.mem.floors.map (·.2)).foldl max ((s.mem.dir.map (·.exp)).foldl max home)

/-- Grids whose dependences have been met become ready, those of one that has failed complete with DEP_FAILED (R423). The threads
of a grid with dependences begin with an edge from all that was performed before it was ready, the writes of what it depends on among
them; those of another grid from a host queue with one from what had been written at the homes by then: the host's writes to the
mailbox window and the values at the homes as its record was read (R290). DEDUCED (log 29): R147 gives these edges no mark. The step
does this after what it runs. -/
def State.refreshReady (s : State) : State :=
  let now := s.ctl.nextId
  let due := s.grids.filter (fun g => g.waits && s.gridDeps g != .unmet)
  -- of grids that become ready together the lower queue number counts as the earlier (R424, R435)
  let order := (List.range 256).flatMap (fun q => (due.filter (fun g => g.queue == q)).map (·.event))
  let after := fun (g : Grid) =>
    if !g.waits then g
    else match s.gridDeps g with
      | .met =>
        let mark :=
          if (List.range 8).any (fun d => depKind (g.rec_.dep d) != 0) then s.settledTime
          else if g.parent.isNone then s.mem.homeVt
          else 0
        { g with ready := some (now + order.idxOf g.event), launchTm := max g.launchTm mark }
      | .failed => { g with depFailed := true }
      | .unmet => g
  if due.isEmpty then s else { s with grids := s.grids.map after, ctl := { s.ctl with nextId := now + order.length } }

/-- The name under which a grid of an event number stands: the number itself, or, while another grid of that number runs (its queue
having been enabled anew), with a number of the model's own above its 64 bits. -/
def State.eventKey (s : State) (e : Nat) : Nat := if (s.grid? e).isSome then e + 2 ^ 64 * s.ctl.nextId else e

/-- A grid joins the queue engine. -/
def State.addGrid (s : State) (g : Grid) : State := { s with grids := s.grids ++ [g] }

end Sys2Proof.Machine
end

