-- ==== Sys2Proof/Machine/Teams.lean ====
section
/-! DEFINITION. Where teams run: room on a core, starting a team, saving it and placing it again, and what the queue engine admits
(spec/16 R422-R425, R431, R433; spec/11 R308-R310; spec/05 R154; spec/06 R171-R179; spec/08 R223, R235, R236). -/
namespace Sys2Proof.Machine

/-! ### Room on a core -/

/-- Threads of one shape that a slice takes beside those resident in it, parked windows evicted (R104, R171, R177, R223). An eviction that
waits for a result is no lack of room: the placement waits with it (R176, R179; `State.allPlaced`). -/
def State.sliceHolds (s : State) (p : Place) (units priv slice : Nat) : Nat :=
  let free := s.sliceFree p slice
  let out := (s.parkedOwners p slice).map (fun m => s.parkedUse m slice)
  slicePlaces units priv (free.1, free.2.1 + (out.map (·.1)).sum, free.2.2 + (out.map (·.2)).sum)

/-- Whether a core takes n threads of one shape (R104, R171, R223). -/
def State.threadRoom (s : State) (p : Place) (units priv n : Nat) : Bool :=
  decide (n ≤ (List.range 16).foldl (fun a k => a + s.sliceHolds p units priv k) 0)

/-- The cluster contribution of a team (R222). -/
def State.contribution (s : State) (m : Team) : Nat := match s.grid? m.grid with | some g => g.rec_.contribution | none => 0

/-- Whether a team's static cluster has a team on a core: its contributions then stay (R310). -/
def State.clusterLives (s : State) (m : Team) : Bool := s.teams.any (fun x => x.cluster == m.cluster && x.status == .resident)

/-- Bytes of a core's pool that resident teams, living clusters and some parked core allotments hold (R223, R236). -/
def State.poolUse (s : State) (p : Place) (parked : List Team) : Nat :=
  (parked.map (·.scratch.size)).sum + s.teams.foldl (fun a m =>
    if m.place != p then a
    else a + (if m.status == .resident then m.scratch.size else 0) + (if s.clusterLives m then s.contribution m else 0)) 0

/-- Whether a core's pool has n more bytes, parked allotments evicted (R235, R236). -/
def State.poolRoom (s : State) (p : Place) (n : Nat) : Bool := decide (s.poolUse p [] + n ≤ 1048576)

/-- Whether the teams on a core have what they were placed for: each thread a slice, the pool and the operand buffer no more than they hold.
It fails where an eviction waits for a result or a copy outstanding into what it would write out (R176, R179, R235): a placement then does
not happen now. -/
def State.allPlaced (s : State) (p : Place) : Bool :=
  let here := (s.teams.filter (fun m => m.place == p && m.status == .resident)).map (·.id)
  s.threads.all (fun t => !(here.contains t.team && t.resident) || decide (t.slice < 16))
    && decide (s.poolUse p (s.parkedOwners p 16) ≤ 1048576) && decide (s.bufferUse p (s.parkedOwners p 17) ≤ 262144)

/-- Parked core allotments evicted in the order of R177 until n more bytes fit in the pool (R236). -/
def State.makePool (s : State) (p : Place) (n : Nat) : State :=
  ((s.evictable p 16).map (·.id)).foldl (fun s m => if s.poolUse p (s.parkedOwners p 16) + n ≤ 1048576 then s else s.writeOut m 16) s

/-- Whether a core is in service (R312, R315, R478). -/
def State.coreServes (s : State) (p : Place) : Bool :=
  decide (p.die < 4) && decide (p.cluster < 16) && decide (p.core < 8) && !s.host.lostCores.contains p && !s.dieFenced p.die

/-- Whether a core takes a team of n threads of a grid (R424). -/
def State.fitsTeam (s : State) (g : Grid) (n : Nat) (p : Place) : Bool :=
  let r := g.rec_
  s.coreServes p && s.threadRoom p (r.window / 256) r.priv n && s.poolRoom p (r.scratch + r.contribution)

/-- Every core of the package. -/
def allCores : List Place :=
  (List.range 4).flatMap (fun d => (List.range 16).flatMap (fun c => (List.range 8).map (fun k => ⟨d, c, k⟩)))

/-- The teams admitted together: one, or a static cluster with cluster memory whole (R424, R225). -/
def Grid.unit (g : Grid) : Nat := if g.rec_.contribution = 0 then 1 else g.rec_.cteams

/-- A static cluster's cores: distinct cores of one hardware cluster (R225). -/
def oneCluster (ps : List Place) : Bool :=
  match ps with
  | [] => false
  | p :: rest => rest.all (fun q => q.die == p.die && q.cluster == p.cluster) && (ps.eraseDups.length == ps.length)

/-- Whether the cores named take the grid's next unit. -/
def State.fitsUnit (s : State) (g : Grid) (ps : List Place) : Bool :=
  ps.length == g.unit && oneCluster ps && ps.all (s.fitsTeam g g.rec_.threads)

/-- Whether any cores take the grid's next unit: as many cores with room in one hardware cluster as it has teams. -/
def State.fitsSomewhere (s : State) (g : Grid) : Bool :=
  if g.unit = 1 then allCores.any (s.fitsTeam g g.rec_.threads)
  else (List.range 4).any (fun d => (List.range 16).any (fun c =>
    decide (((List.range 8).filter (fun k => s.fitsTeam g g.rec_.threads ⟨d, c, k⟩)).length ≥ g.unit)))

/-! ### Starting a team (R422) -/

/-- A launched thread, and its place; with no slice as yet where the eviction that would make room waits (R176). -/
def State.startThread (s : State) (g : Grid) (m : Team) (index : Nat) : State :=
  let r := g.rec_
  let (slice, s) := (s.chooseSlice m.place (r.window / 256) r.priv).getD (16, s)
  let (id, s) := s.newId
  let views := recordViews g.record
  let thread : Thread :=
    { id, team := m.id, index, spawned := false, slice, status := .binned
      ctx := { pkt := r.entry, word := 0, srseed := BitVec.ofNat 32 (m.index * r.threads + index + 1) }
      win := Mem.writeN [] (views.getD 0 ⟨0, 0⟩).base (natToBytes 8 r.arg), winSize := r.window, views
      q := ((({} : QCopy).set 0 (BitVec.ofNat 64 r.arg)).set 1 (BitVec.ofNat 64 g.event)), step := r.step, born := r.step
      edge := some g.launchTm, priv := { size := r.priv }
      frame := { arg := BitVec.ofNat 64 r.arg, entry := r.entry, depth := g.depth } }
  ({ s with threads := s.threads ++ [thread] }).storeFrame id

/-- A team's static cluster, made with its first team (R222, R224). -/
def State.clusterFor (s : State) (g : Grid) (team : Nat) : Nat × State :=
  let index := team / g.rec_.cteams
  match s.cluster? g.event index with
  | some c => (c.id, s)
  | none =>
    let (id, s) := s.newId
    (id, { s with clusters := s.clusters ++
      [({ id, grid := g.event, index, mem := { size := g.rec_.cteams * g.rec_.contribution } } : Cluster)] })

/-- The next team of a grid is admitted to a core: its allotments zero, its registers at reset (R422, R424). It has not started yet. -/
def State.placeTeam (s : State) (e : Nat) (p : Place) : Nat × State :=
  match s.grid? e with
  | none => (0, s)
  | some g =>
    let r := g.rec_
    let (cluster, s) := s.clusterFor g g.nextTeam
    let (id, s) := s.newId
    let team : Team :=
      { id, grid := e, index := g.nextTeam, place := p, cluster, scratch := { size := r.scratch }, tag := id, held := true }
    let s := s.makePool p (r.scratch + r.contribution)
    let s := { s with teams := s.teams ++ [team] }
    let s := s.modGrid e (fun g => { g with nextTeam := g.nextTeam + 1, masterDie := if g.nextTeam = 0 then some p.die else g.masterDie })
    (id, (List.range r.threads).foldl (fun s k => s.startThread g team k) s)

/-- An admitted team starts: its energy charged, its threads filed (R422, R431, R433). -/
def State.beginTeam (s : State) (id : Nat) : State :=
  match s.team? id with
  | none => s
  | some m => match s.grid? m.grid with
    | none => s
    | some g =>
      let now := s.time.hub
      let s := s.modTeam id (fun m => { m with
        held := false, started := now, est := g.rec_.est, hkey := fld (s.asidBlock g.asid).hkey.toNat 0 10
        unreleased := List.range g.sched.length })
      let s := { s with energy := { s.energy with account := s.energy.account - (g.rec_.est : Int) } }
      let s := s.modGrid g.event (fun g => { g with lastStart := some now, tstart := if g.lastStart.isNone then now else g.tstart })
      let s := ((s.threads.filter (fun t => t.team == id)).map (·.id)).foldl State.file s
      s.releaseSchedule id

/-! ### Saving a team (R154, R175, R235, R308) -/

/-- A team leaves its core: its units are parked, its crews end, its threads in crews and bins wait for resumption (R308). -/
def State.offCore (s : State) (tm : Nat) (status : TeamStatus) : State :=
  match s.team? tm with
  | none => s
  | some m =>
    let mine := (s.threads.filter (fun t => t.team == tm)).map (·.id)
    let held := dedup ((s.threads.filter (fun t => t.team == tm && t.resident)).map (·.slice))
    let s := mine.foldl (fun s t =>
      let s := (s.leaveCrew t).leaveBin t
      s.modThread t (fun t => { t with status := match t.status with | .crewed => .binned | x => x })) s
    s.modTeam tm (fun x => { x with
      status, evict := false, parkedAt := s.time.hub
      parkedIn := held ++ (if m.scratch.size = 0 then [] else [16]) ++ (if m.bufferBytes = 0 then [] else [17]) })

/-- With the last team of a static cluster that leaves its core the cluster's contributions are evicted (R310): each goes to the save area
of its core's team (R309). -/
def State.evictCluster (s : State) (tm : Nat) : State :=
  match s.team? tm with
  | none => s
  | some m =>
    if s.contribution m = 0 || s.clusterLives m then s
    else ((s.teams.filter (fun x => x.cluster == m.cluster)).map (·.id)).foldl State.saveContribution s

/-- A team is saved: it leaves its core, and its state goes to its save area (R154, R175, R308). -/
def State.saveTeam (s : State) (tm : Nat) (status : TeamStatus) : State := ((s.offCore tm status).saveImages tm).evictCluster tm

/-- A team's thread in trap context: it is not saved meanwhile (R301, R308). -/
def State.teamTrapped (s : State) (tm : Nat) : Bool := s.threads.any (fun t => t.team == tm && t.trap.isSome && t.resident)

/-- The place of a thread of a team that resumes and has none: a slice with room (R178). -/
def State.placeAgain (s : State) (p : Place) (tid : Nat) : State :=
  match s.thread? tid with
  | none => s
  | some t =>
    if !t.resident || decide (t.slice < 16) then s
    else match s.chooseSlice p (t.winSize / 256) t.priv.size with
      | none => s
      | some (k, s) => s.modThread tid (fun t => { t with slice := k })

/-- The slices in which a team's units are parked on a core; none on another core than its own. -/
def Team.staysOn (m : Team) (p : Place) : List Nat := if p == m.place then m.parkedIn else []

/-- A team stands on a core with the threads whose units are parked there; its other threads have no slice yet (R178). -/
def State.standOn (s : State) (m : Team) (p : Place) : State :=
  let stays := m.staysOn p
  ({ s with threads := s.threads.map (fun (t : Thread) => if t.team == m.id && !stays.contains t.slice then { t with slice := 16 } else t) }).modTeam m.id
    (fun m => { m with status := .resident, place := p, parkedIn := [] })

/-- The save area of a team that resumes is read (R309): where software has changed it, the team takes FRAME_BAD as a grid error if the
part detects that, and else goes on with what stands there. -/
def State.resumeSaved (s : State) (tm : Nat) : State :=
  let mirror := fun (s : State) (t : Thread) =>
    let r := s.fetchedFrame t
    if t.frame.index.isSome || r == s.frameBits t then (s, false)
    else if frameRecordOk r (2 ^ 16) then (s.modThread t.id (fun _ => s.useFrame t r), true)
    else (s.gridError t Cause.frameBad 0, false)
  let (s, changed) := s.loadSaved tm
  let (s, changed) := (s.threads.filter (fun t => t.team == tm && t.resident)).foldl (fun (acc : State × Bool) t =>
    let (s, c) := mirror acc.1 t
    (s, acc.2 || c)) (s, changed)
  if !changed then s
  else
    let found := Config.detects s.ctl.fresh
    let s := s.useFresh
    match found, (byIndex ((s.threads.filter (fun t => t.team == tm)).map (fun t => (t.index, t.id)))).head?.bind (fun x => s.thread? x.2) with
    | true, some t => s.gridError t Cause.frameBad 0
    | _, _ => s

/-- A saved team stands on a core again (R178, R310): what is parked on another core is written out first, its threads have slices,
those that were in crews and bins are filed at their addresses, pending faults of threads at `exit` are taken (R316). -/
def State.restoreTeam (s : State) (tm : Nat) (p : Place) : State :=
  match s.team? tm with
  | none => s
  | some m =>
    let mine := (s.threads.filter (fun t => t.team == tm)).map (·.id)
    let s := if p == m.place then s else m.parkedIn.foldl (fun s k => s.writeOut tm k) s
    let s := s.standOn m p
    let s := mine.foldl (State.placeAgain · p) s
    -- its own writes, and those that its threads have joined, are to be seen on another core (R282, R310)
    let s := if p == m.place then s else mine.foldl (fun s t => s.modThread t (fun t => if t.resident then t.addEdge t.outMark else t)) s
    let s := (if (m.staysOn p).contains 16 then s else s.makePool p 0).makeBuffer p 0
    let s := s.resumeSaved tm
    let s := mine.foldl (fun s t => match s.thread? t with
      | none => s
      | some x => match x.status with
        | .binned => if m.held then s else s.file t
        | .exiting => s.takeLate t (x.ctx.pkt, x.ctx.word)
        | _ => s) s
    (s.releaseSchedule tm).retireTeam tm

/-- Whether a saved team has room on a core (R104, R171, R177, R178, R223, R349): the slices where its windows are parked have places
for their threads, the other threads fit, and so do its allotment, its cluster's contribution and its operand-buffer ranges. -/
def State.roomAgain (s : State) (m : Team) (p : Place) : Bool :=
  match s.grid? m.grid with
  | none => false
  | some g =>
    let x := s.standOn m p
    let lone := (x.threads.filter (fun t => t.team == m.id && t.resident && decide (t.slice ≥ 16))).length
    s.coreServes p
      && (List.range 16).all (fun k => decide ((x.sliceUse p k).1 ≤ 64) && decide ((x.sliceUse p k).2.1 ≤ 256) && decide ((x.sliceUse p k).2.2 ≤ 65536))
      && x.threadRoom p (g.rec_.window / 256) g.rec_.priv lone && x.poolRoom p 0 && decide (x.bufferUse p [] ≤ 262144)

/-- Whether a team that is to run again waits for what a quadrant holds of it while that is fenced (R312): its save area, or the frame record of
a thread to be replayed. -/
def State.awaitsHome (s : State) (m : Team) (quad : Nat) : Bool :=
  let on := fun (va n : Nat) => (runsOf va n).any (fun r => homeQuad r.1 == quad && s.homeFenced r.1)
  (s.teams.filter (fun x => x.id == m.id || x.cluster == m.cluster)).any (fun x => x.saved.any (fun r => on r.addr r.bytes.length))
    || s.threads.any (fun t => t.team == m.id && s.mem.heldReplays.contains t.id && (match s.framePlace t with
        | some (_, va) => on va 64
        | none => false))

/-- Whether a saved team may be placed on a core: room, on another core than its own no result or copy still to land in what it
has parked (R176, R179, R235), and nothing of it in a fenced quadrant (R312). -/
def State.fitsAgain (s : State) (m : Team) (p : Place) : Bool :=
  s.roomAgain m p && (p == m.place || !m.parkedIn.any (s.outstandingIn m)) && !(List.range 4).any (s.awaitsHome m)

/-! ### Admission (R424, R425) -/

/-- A grid's priority. -/
def State.priority (s : State) (g : Grid) : Nat := min g.rec_.prio (s.queue g.queue).prioMax

/-- Whether grid a ranks before grid b. -/
def State.ranks (s : State) (a b : Grid) : Bool :=
  let dead := fun (g : Grid) => if g.rec_.deadline = 0 then 2 ^ 64 else g.rec_.deadline
  if s.priority a ≠ s.priority b then decide (s.priority b < s.priority a)
  else if dead a ≠ dead b then decide (dead a < dead b)
  else if a.ready.getD 0 ≠ b.ready.getD 0 then decide (a.ready.getD 0 < b.ready.getD 0)
  else decide (a.queue < b.queue)

/-- The first of a grid's pre-empted teams: they go before its unstarted ones (R425). -/
def State.preempted? (s : State) (e : Nat) : Option Team :=
  ((s.teams.filter (fun m => m.grid == e && m.status == .preempted)).foldl (fun acc m => insertBy (fun a b => decide (a.index ≤ b.index)) m acc) []).head?

/-- The first of a grid's teams that have been admitted and not started (R424, R433). -/
def State.held? (s : State) (e : Nat) : Option Team := s.teams.find? (fun m => m.grid == e && m.held && m.status == .resident)

/-- The ready grids that have a team to start or to resume, in rank. -/
def State.ranked (s : State) : List Grid :=
  (s.grids.filter (fun g => g.status == .queued && g.ready.isSome && g.error.isNone
    && (decide (g.nextTeam < g.rec_.teams) || (s.held? g.event).isSome || (s.preempted? g.event).isSome))).foldl
    (fun acc g => insertBy s.ranks g acc) []

/-- Energy and stagger for the next start of a grid (R431, R433): the step of the account is not due, the account holds the estimate of a
team, and STAGGER ns have passed since the grid's last start. -/
def State.mayStart (s : State) (g : Grid) : Bool :=
  !s.tickDue && decide ((g.rec_.est : Int) ≤ s.energy.account)
  && (match ((s.grid? g.event).getD g).lastStart with | some t => decide (t + g.rec_.stagger ≤ s.time.hub) | none => true)

/-- The teams admitted together start one after the other, each as soon as it may (R424, R431, R433). -/
def State.beginTeams (s : State) (g : Grid) (ids : List Nat) : State :=
  ids.foldl (fun s id => if s.mayStart g then s.beginTeam id else s) s

/-- A grid's next unit is admitted to the cores named, and starts; none where a placement must wait. -/
def State.startUnit (s : State) (g : Grid) (ps : List Place) : Option State :=
  let (ids, s) := ps.foldl (fun (acc : List Nat × State) p => let (id, s) := acc.2.placeTeam g.event p; (acc.1 ++ [id], s)) ([], s)
  if ps.all s.allPlaced then some (s.beginTeams g ids) else none

/-- The teams that leave and resume with a team: those of its static cluster where that has cluster memory (R308, R310). -/
def State.clusterMates (s : State) (m : Team) (status : Team → Bool) : List Team :=
  if s.contribution m = 0 then [] else s.teams.filter (fun x => x.cluster == m.cluster && x.id != m.id && status x)

/-- The teams that stand on cores again with a pre-empted team. -/
def State.resumeUnit (s : State) (m : Team) : List Team :=
  if s.contribution m = 0 then [m] else s.teams.filter (fun x => x.cluster == m.cluster && (x.status == .preempted || x.status == .swapped))

/-- The cores of the teams of a team's static cluster that have stayed. -/
def State.stayed (s : State) (m : Team) : List Place := (s.clusterMates m (fun x => x.status == .resident)).map (·.place)

/-- Whether teams may stand on distinct cores of a list, each on one that takes it. -/
def placesFor (fits : Team → Place → Bool) : List Team → List Place → Bool
  | [], _ => true
  | m :: rest, ps => ps.any (fun p => fits m p && placesFor fits rest (ps.filter (fun q => q != p)))

/-- Whether some cores take a unit of saved teams: distinct cores of one hardware cluster with those that have stayed (R225, R310). -/
def State.standsSomewhere (s : State) (unit : List Team) (stayed : List Place) (fits : Team → Place → Bool) : Bool :=
  match unit, stayed with
  | [m], [] => allCores.any (fits m)
  | _, _ => (List.range 4).any (fun d => (List.range 16).any (fun c =>
      stayed.all (fun q => q.die == d && q.cluster == c) && placesFor fits unit
        (((List.range 8).map (fun k => (⟨d, c, k⟩ : Place))).filter (fun p => s.coreServes p && !stayed.contains p))))

/-- Whether a pre-empted team could stand on cores now. -/
def State.resumable (s : State) (m : Team) : Bool := s.standsSomewhere (s.resumeUnit m) (s.stayed m) s.fitsAgain

/-- Whether the cores named take a pre-empted team's unit. -/
def State.resumesOn (s : State) (m : Team) (ps : List Place) : Bool :=
  ps.length == (s.resumeUnit m).length && oneCluster (ps ++ s.stayed m) && ((s.resumeUnit m).zip ps).all (fun x => s.fitsAgain x.1 x.2)

/-- Resident teams of lower priority than a grid's, in the order in which they are pre-empted: lowest priority first, then latest
started (R425). -/
def State.victims (s : State) (g : Grid) : List Team :=
  let prio := fun (m : Team) => match s.grid? m.grid with | some x => s.priority x | none => 0
  (s.teams.filter (fun m => m.status == .resident && decide (prio m < s.priority g))).foldl (fun acc m => insertBy (fun a b =>
    decide (prio a < prio b) || (prio a == prio b && decide (b.started ≤ a.started))) m acc) []

/-- The teams that are pre-empted with a team: those of its static cluster where that has cluster memory (R308). -/
def State.withCluster (s : State) (m : Team) : List Nat := m.id :: (s.clusterMates m (fun x => x.status == .resident)).map (·.id)

/-- The fewest of the victims, in order, whose removal makes room; none where all do not. -/
def State.victimsFor (room : State → Bool) : List Team → List Nat → State → Option (List Nat × State)
  | [], out, s => if room s then some (out, s) else none
  | m :: rest, out, s =>
    if room s then some (out, s)
    else
      let more := (s.withCluster m).filter (fun t => !out.contains t)
      State.victimsFor room rest (out ++ more) (more.foldl (fun s t => s.saveTeam t .preempted) s)

/-- Pre-emption for work of a grid on the cores named (R425): of the victims those on these cores leave, and the work goes there; with a
thread in trap context among them the request stays pending (R308). -/
def State.preemptFor (s : State) (g : Grid) (ps : List Place) (room here : State → Bool) (go : State → Option State) : Option State :=
  match State.victimsFor room (s.victims g) [] s with
  | none => none
  | some (out, after) =>
    if !here after then none
    else
      let gone := (s.teams.filter (fun m => out.contains m.id && ps.contains m.place)).flatMap s.withCluster
      if gone.any s.teamTrapped then some (gone.foldl (fun s t => s.modTeam t (fun m => { m with evict := true })) s)
      else go (gone.foldl (fun s t => s.saveTeam t .preempted) s)

/-- Whether removing resident teams of lower priority would make room for work of a grid. -/
def State.mayPreempt (s : State) (g : Grid) (room : State → Bool) : Bool := (State.victimsFor room (s.victims g) [] s).isSome

/-- A placement that is made, or must wait. -/
def placed (name : String) (x : Option State) : Result := match x with | some s => .next s | none => notNow name

/-- The queue engine goes down the ranking (R424): the first grid that may start and finds room starts where the engine places
it; one that lacks energy or time stops the search; one that lacks only room may be passed over, as may a pre-empted team (R425) that
finds none. A team that can resume, or make room for itself, goes first: that is TEAM_RESUME. -/
def State.admitTeams (s : State) (ps : List Place) (first : Bool) : List Grid → Result
  | [] => notNow "TEAM_ADMIT"
  | g :: rest => match s.preempted? g.event with
    | some m =>
      if s.resumable m || (first && s.mayPreempt g (·.resumable m)) then notNow "TEAM_ADMIT" else State.admitTeams s ps false rest
    | none => match s.held? g.event with
      | some m => if s.mayStart g && ps == [m.place] then .next (s.beginTeam m.id) else notNow "TEAM_ADMIT"
      | none =>
        if !s.mayStart g then notNow "TEAM_ADMIT"
        else if s.fitsUnit g ps then placed "TEAM_ADMIT" (s.startUnit g ps)
        else if s.fitsSomewhere g then notNow "TEAM_ADMIT"
        else if first && s.mayPreempt g (·.fitsSomewhere g) then
          placed "TEAM_ADMIT" (s.preemptFor g ps (·.fitsSomewhere g) (·.fitsUnit g ps) (·.startUnit g ps))
        else State.admitTeams s ps false rest

/-- TEAM_ADMIT (R424, R425). -/
def execTeamAdmit (p : List Place) (s : State) : Result := s.admitTeams p true s.ranked

/-- Whether a grid ranked before a team's could start or resume a team at once, by pre-emption where it is the first of all: it goes before a
team that resumes (R424, R425). -/
def State.outranked (s : State) (m : Team) : Bool :=
  let before := s.ranked.takeWhile (fun x => x.event != m.grid)
  let goes := fun (x : Grid) (first : Bool) => match s.preempted? x.event with
    | some y => s.resumable y || (first && s.mayPreempt x (·.resumable y))
    | none => s.mayStart x && ((s.held? x.event).isSome || s.fitsSomewhere x || (first && s.mayPreempt x (·.fitsSomewhere x)))
  match before with
  | [] => false
  | x :: rest => goes x true || rest.any (goes · false)

/-- A pre-empted team's unit stands on the cores named; none where a placement must wait. -/
def State.resumeOn (s : State) (m : Team) (ps : List Place) : Option State :=
  let s := ((s.resumeUnit m).zip ps).foldl (fun s x => s.restoreTeam x.1.id x.2) s
  if ps.all s.allPlaced then some s else none

/-- TEAM_RESUME (R310, R425): a pre-empted team, or its whole static cluster where that has cluster memory, stands on cores again; at the
head of the ranking it may pre-empt teams of lower priority to do so. -/
def execTeamResume (team : Nat) (p : List Place) (s : State) : Result :=
  match s.team? team with
  | none => notNow "TEAM_RESUME"
  | some m => match s.grid? m.grid with
    | none => notNow "TEAM_RESUME"
    | some g =>
      if m.status != .preempted || s.outranked m then notNow "TEAM_RESUME"
      else if s.resumesOn m p then placed "TEAM_RESUME" (s.resumeOn m p)
      else if s.resumable m || (s.ranked.head?.map (·.event)) != some m.grid then notNow "TEAM_RESUME"
      else placed "TEAM_RESUME" (s.preemptFor g p (·.resumable m) (·.resumesOn m p) (·.resumeOn m p))

/-! ### Swapping (R154) -/

/-- Whether a team waits for room on a core: a ready grid's next unit, or a saved team that could run, fits on no cores as they are, those of
its static cluster included (R225, R310). -/
def State.waitsForRoom (s : State) (p : Place) : Bool :=
  let runs := fun (m : Team) => m.status == .swapped && s.threads.any (fun t => t.team == m.id && t.frame.state == 1 && t.resident)
  s.coreServes p && (s.ranked.any (fun g => decide (g.nextTeam < g.rec_.teams) && s.mayStart g && !s.fitsSomewhere g)
  || s.teams.any (fun m => (m.status == .preempted && !s.standsSomewhere (s.resumeUnit m) (s.stayed m) s.roomAgain)
      || (runs m && !s.standsSomewhere [m] (s.stayed m) s.roomAgain)))

/-- Pre-emptions that were asked for while a thread was in trap context go on once none is (R308 steps 2 to 4). The step does this after
what it runs. -/
def State.finishEvictions (s : State) : State :=
  (s.teams.filter (fun m => m.evict && m.status == .resident)).foldl (fun s m =>
    let unit := s.withCluster m
    if unit.any s.teamTrapped then s else unit.foldl (fun s t => s.saveTeam t .preempted) s) s

/-- Schedule entries that are due and were held for want of room enter their schedulers as they have some (R379, R384). The step does this
after what it runs. -/
def State.releaseDue (s : State) : State :=
  ((s.teams.filter (fun m => m.status == .resident && !m.unreleased.isEmpty)).map (·.id)).foldl State.releaseSchedule s

/-- Every resident thread of a team awaits or retires, and its oldest await has lasted SWAP µs. -/
def State.maySwap (s : State) (m : Team) : Bool :=
  let mine := s.threads.filter (fun t => t.team == m.id && t.resident)
  let swap := fld m.regs.frmctl.toNat 0 16
  let since := mine.filterMap (fun t => match t.status with | .awaiting _ _ n => some n | _ => none)
  swap != 0 && !since.isEmpty && mine.all (fun t => t.trap.isNone && t.frame.state == 2 && (match t.status with | .awaiting _ _ _ => true | _ => false))
    && since.any (fun n => decide (n + 1000 * swap ≤ s.localTime m.place.die))

/-- TEAM_SWAP. -/
def execTeamSwap (team : Nat) (s : State) : Result :=
  match s.team? team with
  | none => notNow "TEAM_SWAP"
  | some m =>
    if m.status == .resident && !s.dieFenced m.place.die && s.maySwap m && s.waitsForRoom m.place then .next (s.saveTeam team .swapped)
    else notNow "TEAM_SWAP"

/-- STOLEN_CONTINUATION: a swapped team whose awaited children have been credited is restored on a core with room; the released
thread is reconciled and filed there by EDGE_RECONCILE. -/
def execStolenContinuation (team : Nat) (p : Place) (s : State) : Result :=
  match s.team? team with
  | none => notNow "STOLEN_CONTINUATION"
  | some m =>
    let released := s.threads.any (fun t => t.team == team && t.resident && t.frame.state == 1)
    if m.status == .swapped && released && oneCluster (p :: s.stayed m) && s.fitsAgain m p then
      placed "STOLEN_CONTINUATION" (let s := s.restoreTeam team p; if s.allPlaced p then some s else none)
    else notNow "STOLEN_CONTINUATION"

end Sys2Proof.Machine
end

