-- ==== Sys2Proof/Machine/Time.lean ====
section
/-! DEFINITION. Package time (spec/01 R18-R26, R480): tokens, echoes, fencing and unfencing, the guard band. One token interval is
4 ns of hub time. -/
namespace Sys2Proof.Machine

/-- A receiver changed. -/
def State.modReceiver (s : State) (r : Nat) (f : Receiver → Receiver) : State :=
  { s with time := { s.time with receivers := modAt f r s.time.receivers } }

/-- A receiver. -/
def State.receiver (s : State) (r : Nat) : Receiver := s.time.receivers.getD r {}

/-- The guard band that the hub checks lag against, in ns (R26). -/
def TimeState.hubBand (t : TimeState) : Nat :=
  8 * (match t.change with
    | none => t.guard
    | some c => if t.hub < c.at_ then c.old else if t.hub < c.at_ + 256 then min c.old c.new else c.new)

/-! ### Package time moves on (R17, R18, R480) -/

/-- No echo has come from a receiver for a span longer than the guard band (R21): the hub fences it before its time moves on. -/
def State.silent (s : State) (r : Nat) : Bool :=
  !(s.receiver r).fenced && decide (4 ≤ s.host.stage) && decide ((s.receiver r).echoAt + s.time.hubBand < s.time.hub)

/-- A receiver's messages that would be more than 4 ns on their way at a hub time: none on a path that is not failing (R480). -/
def Receiver.onTime (x : Receiver) (hub : Nat) : Bool :=
  x.tokens.all (fun v => decide (hub ≤ v + 4)) && x.echoes.all (fun e => decide (hub ≤ e.2 + 4))

/-- Whether package time may reach a hub time: no token or echo is overdue, no silent receiver stands unfenced, no change of GUARD
waits to end, and the energy account has had its step for every whole microsecond before (R431). -/
def State.mayReach (s : State) (hub : Nat) : Bool :=
  decide (hub ≤ s.energy.lastTick + 1000)
  && (List.range s.time.receivers.length).all (fun r => ((s.receiver r).onTime hub || Config.pathFails s.time.hub r) && !s.silent r)
  && (match s.time.change with | some c => decide (s.time.hub < c.at_ + 256) | none => true)

/-- Package time moves on to a later hub time. Each die's clock counts on at its nominal frequency, less by up to one clock: no two dies'
clocks stand in a fixed relation (R17). -/
def TimeState.reach (t : TimeState) (hub : Nat) : TimeState :=
  { t with
    hub
    dclk := (List.range t.dclk.length).map (fun d =>
      t.dclk.getD d 0 + ((hub - t.hub) * t.khz.getD d 0 - Config.clockSlip t.hub d % 1000001)) }

/-- One nanosecond between two tokens passes (R18): no event of the table, but the part's own. -/
def State.nanosecond (s : State) : Option State :=
  if s.host.stage < 3 || (s.time.hub + 1) % 4 == 0 || !s.mayReach (s.time.hub + 1) then none
  else some { s with time := s.time.reach (s.time.hub + 1) }

/-! ### Tokens (R19) -/

/-- The hub time of the next token: tokens leave at every fourth nanosecond. -/
def TimeState.nextToken (t : TimeState) : Nat := t.hub / 4 * 4 + 4

/-- TIME_TOKEN_SEND: package time reaches the next fourth nanosecond, and every receiver is sent its value. -/
def execTimeTokenSend (s : State) : Result :=
  let now := s.time.nextToken
  if s.host.stage < 3 || !s.mayReach now then notNow "TIME_TOKEN_SEND"
  else
    let t := s.time.reach now
    .next { s with time := { t with receivers := t.receivers.map (fun x => { x with tokens := x.tokens ++ [now] }) } }

/-- A receiver takes a token's value as its copy, and gives up the leases that this ends (R19, R23). -/
def Receiver.take (x : Receiver) (v : Nat) : Receiver :=
  let y := { x with copy := v }
  { y with horizon := max x.reach y.reach }

/-- TIME_TOKEN_ARRIVAL: the copy takes the token's value; the token goes back as an echo. -/
def execTimeTokenArrival (r : Nat) (s : State) : Result :=
  match s.time.receivers[r]? with
  | none => notNow "TIME_TOKEN_ARRIVAL"
  | some x => match x.tokens with
    | [] => notNow "TIME_TOKEN_ARRIVAL"
    | v :: rest => .next (s.modReceiver r (fun x => { x.take v with tokens := rest, echoes := x.echoes ++ [(v, s.time.hub)] }))

/-! ### Lag and fences (R21, R22, R315) -/

/-- DIE_TIME (R315): dirty lines are written back, every other L2 line and every L1 line of the die dropped, fills on their way
leave nothing; its crews stand parked while it is fenced. A fenced quadrant (R22) makes the accesses homed there wait, and every lease
that it has granted is discarded, on its way too (R293). -/
def State.fence (s : State) (r : Nat) : State :=
  let s := s.modReceiver r (fun x => { x with fenced := true, fencedAt := s.time.hub, lowEchoes := 0 })
  let record : RecordFields := { cause := Cause.dieTime, action := 3, noThread := true, place := ⟨if r < 4 then r else 0, 0, 0⟩ }
  if r < 4 then
    let s := (s.giveUp (fun l => l.die == r)).unholdFills (fun g => g.die == r)
    (s.modMem (fun m => { m with l1 := m.l1.filter (fun l => l.place.die != r) })).writeRecord r record
  else
    let s := (s.giveUp (fun l => l.state == .s && l.expiry != 0 && quadOfLine l.pa == r - 4)).unholdFills (fun g =>
      g.state == some .s && g.expiry != 0 && quadOfLine g.pa == r - 4)
    s.writeRecord 0 record

/-- A receiver is unfenced: its handlers' watchdogs go on from where they stood (R315); what waited for a quadrant goes on (R312). -/
def State.unfence (s : State) (r : Nat) : State :=
  let stood := s.time.hub - (s.receiver r).fencedAt
  let s := s.modReceiver r (fun x => { x with fenced := false, lowEchoes := 0 })
  let s := if r < 4 then s
    else ((s.modMem (fun m => { m with quadWaits := m.quadWaits.filter (fun x => x.1 != r - 4) })).retryChunks).retakePeers
  { s with threads := s.threads.map (fun t =>
      if decide (r < 4) && (s.placeOf t).die == r then { t with trap := t.trap.map (fun x => { x with entered := x.entered + stood }) } else t) }

/-- TIME_ECHO: the hub measures the lag; beyond the guard band it fences, after 16 echoes below half of it in a row it unfences. -/
def execTimeEcho (r : Nat) (s : State) : Result :=
  match s.time.receivers[r]? with
  | none => notNow "TIME_ECHO"
  | some x => match x.echoes with
    | [] => notNow "TIME_ECHO"
    | (v, _) :: rest =>
      let lag := s.time.hub - v
      let band := s.time.hubBand
      let s := s.modReceiver r (fun x => { x with echoes := rest, echoAt := s.time.hub })
      if !x.fenced then .next (if lag > band then s.fence r else s)
      else if 2 * lag < band then
        if x.lowEchoes + 1 ≥ 16 then .next (s.unfence r)
        else .next (s.modReceiver r (fun x => { x with lowEchoes := x.lowEchoes + 1 }))
      else .next (s.modReceiver r (fun x => { x with lowEchoes := 0 }))

/-- ECHO_SILENCE_TIMEOUT: no echo for longer than the guard band. -/
def execEchoSilenceTimeout (r : Nat) (s : State) : Result :=
  match s.time.receivers[r]? with
  | none => notNow "ECHO_SILENCE_TIMEOUT"
  | some x =>
    if x.fenced || !s.silent r then notNow "ECHO_SILENCE_TIMEOUT" else .next (s.fence r)

/-! ### The guard band (R25, R26) -/

/-- A change of GUARD scheduled for 1 µs on, and sent to every receiver. -/
def TimeState.schedule (t : TimeState) (g : Nat) : TimeState :=
  { t with guard := g, change := some { at_ := t.hub + 1000, old := t.guard, new := g, held := none }
           receivers := t.receivers.map (fun x => { x with changes := x.changes ++ [(t.hub + 1000, g)] }) }

/-- A change ends 256 ns after its effective time, and a write held meanwhile is handled. -/
def TimeState.endChange (t : TimeState) (c : GuardChange) : TimeState :=
  match c.held with
  | some g => { t with change := none }.schedule g
  | none => { t with change := none }

/-- GUARD_WRITE: a value outside 1 to 32 is ignored and sets GBERR; a write during a change is held, replacing one held. DESIGN CHOICE
(log 31): while a write is held, GUARD and `cr.ptguard` go on showing the value of the change in progress. -/
def execGuardWrite (v : BitVec 64) (s : State) : Result :=
  let g := fld v.toNat 0 6
  if s.host.stage < 6 then notNow "GUARD_WRITE"
  else if g < 1 ∨ g > 32 then .next { s with time := { s.time with gberr := true } }
  else
    let t := { s.time with gberr := s.time.gberr && !bit v.toNat 7 }
    match t.change with
    | some c =>
      if t.hub < c.at_ + 256 then .next { s with time := { t with change := some { c with held := some g } } }
      else
        let t := t.endChange c
        .next { s with time := match t.change with
          | some d => { t with change := some { d with held := some g } }
          | none => t.schedule g }
    | none => .next { s with time := t.schedule g }

/-- A receiver keeps the value of a change whose effective time its copy has reached. -/
def Receiver.settle (x : Receiver) : Receiver :=
  match x.changes with
  | c :: rest => if c.1 ≤ x.copy then { x with guard := c.2, changes := rest, horizon := x.reach } else x
  | [] => x

/-- GUARD_EFFECTIVE: a receiver whose copy has reached the effective time of a change keeps the new value. It applies it from the moment
at which the copy gets there (`Receiver.band`). -/
def execGuardEffective (r : Nat) (s : State) : Result :=
  match (s.receiver r).changes with
  | c :: _ => if c.1 ≤ (s.receiver r).copy then .next (s.modReceiver r Receiver.settle) else notNow "GUARD_EFFECTIVE"
  | [] => notNow "GUARD_EFFECTIVE"

/-- GUARD_TRANSITION_END: 256 ns after the effective time the change is over, and a write held meanwhile is handled. -/
def execGuardTransitionEnd (s : State) : Result :=
  match s.time.change with
  | none => notNow "GUARD_TRANSITION_END"
  | some c => if s.time.hub < c.at_ + 256 then notNow "GUARD_TRANSITION_END" else .next { s with time := s.time.endChange c }

end Sys2Proof.Machine
end

