-- ==== Sys2Proof/Machine/Failures.lean ====
section
/-! DEFINITION. Failures contained, replay of lost threads, fault records freed (spec/11 R311-R315; spec/20 R477, R478). -/
namespace Sys2Proof.Machine

/-! ### Descendants (R313) -/

/-- The live threads that descend from some threads: spawned ones, and those of child grids, n generations deep. -/
def State.descend (s : State) : Nat → List Nat → List Nat
  | 0, _ => []
  | n + 1, roots =>
    let childGrids := (s.grids.filter (fun g => match g.parent with | some p => roots.contains p | none => false)).map (·.event)
    let spawned := (s.threads.filter (fun t => match t.frame.parent with
      | some p => roots.contains p
      | none => match s.team? t.team with | some m => childGrids.contains m.grid | none => false)).map (·.id)
    if spawned.isEmpty then [] else spawned ++ State.descend s n spawned

/-- The live descendants of a thread: the tree is no deeper than there are threads. -/
def State.descendants (s : State) (tid : Nat) : List Nat := s.descend s.threads.length [tid]

/-- The child grids of some threads. -/
def State.gridsOf (s : State) (parents : List Nat) : List Grid :=
  s.grids.filter (fun g => match g.parent with | some p => parents.contains p | none => false)

/-- The arrivals of threads at barriers that are not released are withdrawn: what is replayed arrives again (log 20). -/
def State.dropArrivals (s : State) (l : List Nat) : State :=
  let keep := fun (bs : List Barrier) => bs.map (fun b => { b with arrived := b.arrived.filter (fun a => !l.contains a.tid) })
  { s with
    teams := s.teams.map (fun m => { m with bars := keep m.bars })
    grids := s.grids.map (fun g => { g with
      cbars := g.cbars.map (fun c => { c with bars := keep c.bars })
      bars := g.bars.map (fun b =>
        { b with dies := b.dies.filter (fun a => !l.contains a.2.tid), reported := b.reported.filter (fun a => !l.contains a.tid) }) }) }

/-- The largest mark of what some threads have written (R142, R145): their own TM, what their frames and child grids hold, what their
jobs have written so far. -/
def State.writtenBy (s : State) (l : List Nat) : Nat :=
  let mine := s.threads.filter (fun t => l.contains t.id)
  let jobs := s.jobs.filter (fun j => match j.flight.bind s.flight? with | some f => f.tids.any l.contains | none => false)
  (mine.map (·.tm) ++ mine.map (·.frame.mark) ++ (s.gridsOf l).map (·.mark) ++ jobs.map (·.vt)).foldl max 0

/-- The words in flight of some threads gone, with their jobs; what has been performed stands (R292). -/
def State.dropFlights (s : State) (l : List Nat) : State :=
  { s with
    flights := s.flights.filter (fun f => !f.tids.any l.contains)
    jobs := s.jobs.filter (fun j => match j.flight.bind s.flight? with | some f => !f.tids.any l.contains | none => true) }

/-- Threads cancelled (R313): they leave the machine with their words in flight, their frames are freed uncredited. -/
def State.cancelThreads (s : State) (l : List Nat) : State :=
  let s := l.foldl (fun s t => match s.thread? t with
    | none => s
    | some x =>
      let s := (((s.leaveCrew t).leaveBin t).modThread t (fun x => { x with frame := { x.frame with state := 0 } })).storeFrame t
      match x.frame.index, s.gridOf x with
      | some i, some g => s.modGrid g.event (fun g => { g with pool := g.pool.filter (fun k => k != i) })
      | _, _ => s) s
  let s := (s.dropArrivals l).dropFlights l
  { s with threads := s.threads.filter (fun t => !l.contains t.id) }

/-- A child grid cancelled with the thread that launched it: it leaves the queue engine with no completion record (log 20). -/
def State.cancelGrid (s : State) (g : Grid) : State :=
  let teams := (s.teams.filter (fun m => m.grid == g.event)).map (·.id)
  { s with grids := s.grids.filter (fun x => x.event != g.event), teams := s.teams.filter (fun m => !teams.contains m.id)
           clusters := s.clusters.filter (fun c => c.grid != g.event), crews := s.crews.filter (fun c => !teams.contains c.team)
           bins := s.bins.filter (fun b => !teams.contains b.team), gens := s.gens.filter (fun x => !teams.contains x.team)
           jobs := s.jobs.filter (fun j => j.grid != g.event) }

/-! ### Replay (R313, R314) -/

/-- A lost thread with its frame as its pool or its team's save area holds it (R140, R314); none where that record fails the checks. -/
def State.lostFrame (s : State) (t : Thread) : Option Thread :=
  match s.gridOf t with
  | some g => let r := s.fetchedFrame t; if frameRecordOk r g.rec_.frames then some (s.useFrame t r) else none
  | none => none

/-- A lost thread as replay recreates it (R313): window zero but `v0`, views of its kernel, allotments zero, the step it was created with;
its abandoned writes count as its own (R292). -/
def Thread.recreate (t : Thread) (views : List View) (seed : BitVec 32) (edge : Nat) (q : QCopy) (tm : Nat) : Thread :=
  { id := t.id, team := t.team, index := t.index, spawned := t.spawned, slice := t.slice, status := .binned
    ctx := { pkt := t.frame.entry, word := 0, srseed := seed }
    win := Mem.writeN [] (views.getD 0 ⟨0, 0⟩).base (natToBytes 8 t.frame.arg.toNat), winSize := t.winSize, views, q
    step := t.born, born := t.born, edge := some (max edge tm), tm, high := t.high, priv := { size := t.priv.size }
    frame := { t.frame with children := 0, state := 1, replay := t.frame.replay + 1 } }

/-- A grid error met by a lost thread: the record's PACKET is the ENTRY of its frame (R311). -/
def State.replayError (s : State) (t : Thread) (cause : Nat) : State :=
  let s := s.writeRecord (s.placeOf t).die { s.recordOf t with cause, pkt := t.frame.entry, action := 2, handler := false }
  match s.team? t.team with | some m => s.endGrid cause 12 m.grid | none => s

/-- A lost thread replayed, or its grid ended (R313). -/
def State.replay (s : State) (tid : Nat) : State :=
  match s.thread? tid with
  | none => s
  | some held => match s.gridOf held, s.lostFrame held with
    | none, _ => s
    | some _, none => if held.status == .halted then s else s.replayError held Cause.frameBad
    | some g, some t =>
      let below := s.descendants tid
      let children := s.gridsOf (tid :: below)
      let nrp := t.frame.nrp || below.any (fun d => (s.thread? d).any (fun x => x.frame.nrp)) || children.any (·.nrp)
      if t.status == .halted then s
      else if t.frame.replay ≥ 2 || nrp then s.replayError t Cause.replayRefused
      else
        let mark := s.writtenBy (tid :: below)
        let s := children.foldl State.cancelGrid (s.cancelThreads below)
        let team := match s.team? t.team with | some m => m.index | none => 0
        let (seed, edge, q, s) : BitVec 32 × Nat × QCopy × State := match t.frame.parent.bind s.thread? with
          | some p =>
            let stepped := srStep p.ctx.srseed
            (stepped ^^^ 0x5BD1E995, p.outMark, (match s.crewOf p.id with | some c => c.q | none => p.q)
             , s.modThread p.id (fun p => p.modCtx (fun c => { c with srseed := stepped })))
          | none => (BitVec.ofNat 32 (team * g.rec_.threads + t.index + 1), g.launchTm
             , (({} : QCopy).set 0 (BitVec.ofNat 64 g.rec_.arg)).set 1 (BitVec.ofNat 64 g.event), s)
        let views := if t.spawned then s.viewsAt g.asid t.frame.entry g.record else recordViews g.record
        let s := (s.modThread tid (fun _ => t.recreate views seed edge q mark)).storeFrame tid
        s.writeRecord (s.placeOf t).die { s.recordOf t with cause := Cause.coreFail, pkt := t.frame.entry, action := 5, handler := false }

/-- A lost thread replayed, once its frame record can be read: a fenced home makes it wait (R312). -/
def State.replayOrHold (s : State) (tid : Nat) : State :=
  match s.thread? tid with
  | none => s
  | some t => if s.frameFenced t then s.modMem (fun m => { m with heldReplays := m.heldReplays ++ [tid] }) else s.replay tid

/-- Lost threads whose records can be read now are replayed. The step does this after what it runs. -/
def State.replayHeld (s : State) : State :=
  s.mem.heldReplays.foldl State.replayOrHold (s.modMem (fun m => { m with heldReplays := [] }))

/-! ### The failure of a core (R312, R313, R478) -/

/-- Whether a thread of a team is lost with the team's core: resident there, or parked there and not written out; with the team's core
scratchpad allotment or operand-buffer ranges, which no save area holds then, each thread is lost (R313). -/
def Team.loses (m : Team) (t : Thread) : Bool :=
  t.resident && (m.status == .resident || m.parkedIn.contains t.slice || m.parkedIn.contains 16 || m.parkedIn.contains 17)

/-- A convergence register without what a lost thread has signed. -/
def Cv.withdraw (c : Cv) (lost : List Nat) (members : List Thread) : Cv :=
  let gone := (members.filter (fun t => lost.contains t.id)).filterMap c.memberOf
  { c with signed := gone.foldl (fun m k => m &&& ~~~(1#32 <<< k)) c.signed, captures := c.captures.filter (fun x => !lost.contains x.tid) }

/-- A team that was on the core: what the core held of it is gone; it waits for a core as a pre-empted team does (R313). What the team's
save area holds of its other threads stands. -/
def State.uproot (s : State) (m : Team) (lost : List Nat) : State :=
  let all := m.status == .resident
  let s := if all then s.offCore m.id .preempted else s
  let entries := match s.grid? m.grid with | some g => g.sched.length | none => 0
  let mine := s.threads.filter (fun t => t.team == m.id)
  let ofLost := fun (r : SaveRun) => match r.kind with | .thread t | .window t | .priv t => lost.contains t | _ => false
  s.modTeam m.id (fun x => { x with
    status := .preempted
    unreleased := if all then List.range entries else x.unreleased
    scratch := if all || m.parkedIn.contains 16 then { size := x.scratch.size } else x.scratch
    cvs := if all then List.replicate 8 {} else x.cvs.map (·.withdraw lost mine)
    pace := if all then List.replicate 8 none else x.pace
    handles := if all || m.parkedIn.contains 17 then List.replicate 16 none else x.handles
    opcache := [], opgen := x.opgen + 1
    regs := if all then {} else x.regs
    saved := x.saved.filter (fun r => !ofLost r)
    parkedIn := [] })

/-- A generation that a lost thread signed is lost with it: it lands nothing and leaves no status (R313, R367). The members of one that has
issued stay on its core until it has landed (R176, R179), so it is lost whole. -/
def Gen.lost (g : Gen) (lost : List Nat) : Bool := g.captures.any (fun c => lost.contains c.tid)

/-- The lines of a static cluster's memory that lay on the core of one of its teams hold zero again (R225, R313). -/
def State.loseContribution (s : State) (m : Team) : State :=
  match s.grid? m.grid with
  | none => s
  | some g =>
    let n := g.rec_.cteams
    let k := m.index % n
    s.modCluster m.cluster (fun c => { c with mem := { c.mem with
      bytes := c.mem.bytes.filter (fun x => x.1 / 128 % n != k), poison := c.mem.poison.filter (fun x => x / 16 % n != k) } })

/-- CORE_FAIL (R313): everything on the core is lost; a spare of the die takes its numbers, or the core stays fenced. -/
def State.failCore (s : State) (p : Place) : State :=
  let s := s.writeRecord p.die { cause := Cause.coreFail, action := 4, noThread := true, place := p }
  let spares := s.host.spareCores.getD p.die 0
  let s := s.modHost (fun h =>
    if spares = 0 then { h with lostCores := p :: h.lostCores, coresLost := h.coresLost + 1 }
    else { h with spareCores := modAt (· - 1) p.die h.spareCores })
  let s := s.modMem (fun m => { m with l1 := m.l1.filter (fun l => l.place != p) })
  -- a spare has lanes of its own
  let s := { s with tables := s.tables.filter (fun t => t.place != p), lanes := s.lanes.filter (fun l => l.place != p) }
  let here := s.teams.filter (fun m => m.place == p && m.status != .retired && m.status != .halted)
  -- the lost threads of a team in the order of their indexes (R311)
  let lost := here.flatMap (fun m => (byIndex ((s.threads.filter (fun t => t.team == m.id && m.loses t)).map (fun t => (t.index, t.id)))).map (·.2))
  let s := lost.foldl (fun s t => s.modThread t (·.raiseTm (s.writtenBy [t]))) s
  -- the words that lost threads have in flight land nowhere: the writes among them stand as they are (R292)
  let gone := fun (team : Nat) => here.any (fun (m : Team) => m.id == team && m.status == TeamStatus.resident)
  let s := s.dropFlights lost
  let s := { s with gens := s.gens.filter (fun (g : Gen) => !(gone g.team || g.lost lost)), jobs := s.jobs.filter (fun j => !gone j.team) }
  let s := here.foldl (fun s m => if m.status == TeamStatus.resident || !m.parkedIn.isEmpty then (s.uproot m lost).loseContribution m else s) s
  lost.foldl State.replayOrHold (s.dropArrivals lost)

/-- Event CORE_FAIL. -/
def execCoreFail (p : Place) (s : State) : Result :=
  if s.host.stage < 6 || s.host.lostCores.contains p || !(decide (p.die < 4) && decide (p.cluster < 16) && decide (p.core < 8)) then
    notNow "CORE_FAIL"
  else .next (s.failCore p)

/-- DIE_FENCE_TIMEOUT (R315): a die still fenced after 10 ms is the failure of each of its cores. -/
def execDieFenceTimeout (die : Nat) (s : State) : Result :=
  let x := s.receiver die
  let cores := allCores.filter (fun p => p.die == die && !s.host.lostCores.contains p)
  if die ≥ 4 || !x.fenced || decide (s.time.hub < x.fencedAt + 10000000) || cores.isEmpty then notNow "DIE_FENCE_TIMEOUT"
  else .next ((cores.foldl State.failCore s).modReceiver die (fun x => { x with fencedAt := s.time.hub }))

/-- LANE_FAIL (R312): the lane is fenced, its crews move to other lanes of the slice. -/
def execLaneFail (p : Place) (slice lane : Nat) (s : State) : Result :=
  let here := fun (l : Lane) => l.place == p && l.slice == slice && l.lane == lane
  if slice ≥ 16 || lane ≥ 4 || (s.laneAt p slice lane).failed then notNow "LANE_FAIL"
  else
    let crews := (s.activeSet p slice lane).map (·.id)
    let dead := { s.laneAt p slice lane with failed := true }
    .next (crews.foldl State.requeue { s with lanes := s.lanes.filter (fun l => !here l) ++ [dead] })

/-- HBM_CHANNEL_FAIL (R312): the channel's lines read as poisoned until it is remapped. -/
def execHbmChannelFail (stack channel : Nat) (s : State) : Result :=
  if stack > 11 || channel > 31 || s.mem.failedChannels.contains (stack, channel) then notNow "HBM_CHANNEL_FAIL"
  else .next (s.modMem (fun m => { m with failedChannels := m.failedChannels ++ [(stack, channel)] }))

/-- The grids with an access that waits for a home of a quadrant: a word in flight, an engine, or a crew that fetches there. -/
def State.waitingOnQuad (s : State) (quad : Nat) : List Nat :=
  let gridOf := fun (t : Thread) => (s.gridOf t).map (·.event)
  dedup (s.flights.filterMap (fun f => match f.kind with
      | .mem a =>
        if homeQuad a.va == quad && (f.stage == .start || f.stage == .granted) && (s.hit a).isNone then (f.tids.head?.bind s.thread?).bind gridOf else none
      | _ => none)
    ++ (s.mem.quadWaits.filter (fun x => x.1 == quad)).map (·.2)
    ++ (s.teams.filter (fun m => (m.status == .preempted || m.status == .swapped) && s.awaitsHome m quad)).map (·.grid)
    ++ s.crews.filterMap (fun c => match s.activeThreads c with
      | [] => none
      | t :: _ => match s.fetch (s.asidOf t) t.ctx.pkt with
        | .wait va => if homeQuad va == quad then gridOf t else none
        | _ => none))

/-- QUAD_FAIL (R312): a quadrant fenced for 10 ms: each grid that waits on it takes a grid error. -/
def execQuadFail (quad : Nat) (s : State) : Result :=
  let x := s.receiver (4 + quad)
  let gs := s.waitingOnQuad quad
  if quad ≥ 4 || !x.fenced || decide (s.time.hub < x.fencedAt + 10000000) || gs.isEmpty then notNow "QUAD_FAIL"
  else .next (gs.foldl (fun s e =>
    let asid := match s.grid? e with | some g => g.asid | none => 0
    (s.writeRecord 0 { cause := Cause.quadFail, action := 2, noThread := true, asid, grid := e }).endGrid Cause.quadFail 12 e)
    (s.modMem (fun m => { m with failedQuads := insertNat quad m.failedQuads })))

/-! ### Fault records (R311) -/

/-- The die whose fault records a record belongs to: DIE of its bits (R311). -/
def recordDie (bits : Nat) : Nat := fld bits 164 2

/-- FAULT_RECORD_FREE: VALID of a record is cleared; a thread halted under DBG for want of a record gets its record (R299). -/
def execFaultRecordFree (die index : Nat) (s : State) : Result :=
  if !s.records.any (fun r => r.die == die && r.index == index) then notNow "FAULT_RECORD_FREE"
  else
    let s := { s with
      records := s.records.filter (fun r => !(r.die == die && r.index == index))
      threads := s.threads.map (fun (t : Thread) => match t.status with
        | .haltedDbg (some i) b => if i == index && recordDie b == die then { t with status := .haltedDbg (some 64) b } else t
        | _ => t) }
    let waits := s.threads.find? (fun t => match t.status with | .haltedDbg none b => recordDie b == die | _ => false)
    match waits with
    | none => .next s
    | some t => match t.status with
      | .haltedDbg none b =>
        .next (((s.putRecord die index b).modThread t.id (fun t => { t with status := .haltedDbg (some index) b })).raiseVector 0)
      | _ => .next s

end Sys2Proof.Machine
end

