-- ==== Sys2Proof/Machine/Queues.lean ====
section
/-! DEFINITION. The queue engine and the cadence unit (spec/16): queue descriptors, rings, `launch` (spec/05 R151), completion of
grids, the energy account. -/
namespace Sys2Proof.Machine

/-! ### The mailbox window (R266, R468, R469) -/

/-- The physical address of a byte of the mailbox window; none where the map names no memory. -/
def State.mailboxPa (s : State) (off : Nat) : Option Nat :=
  let g := fld (s.mem.mailbox.getD (off / 2 ^ 21) 0).toNat 0 19
  if g / 2 ^ 15 > 11 then none else some (g * 2 ^ 21 + off % 2 ^ 21)

/-- Whether the home of a physical line stands in a fenced quadrant: accesses there wait (R22, R312). -/
def State.lineFenced (s : State) (pl : Nat) : Bool := (s.time.receivers.getD (4 + quadOfLine pl) {}).fenced

/-- Physical bytes read at the home, in their latest value. -/
def State.homeLoad (s : State) (pa n : Nat) : List Byte := (runsOf pa n).flatMap (fun r => s.latest r.1 r.2)

/-- Physical bytes written at the home: every copy of their lines is recalled first (R266, R267). -/
def State.homeStore (s : State) (pa : Nat) (bs : List Byte) : State :=
  (runsOf pa bs.length).foldl (fun s r =>
    ((((s.recall (lineOf r.1)).physWrite r.1 ((bs.drop (r.1 - pa)).take r.2)).modMem (fun m =>
      { m with snooped := m.snooped.filter (fun x => x != lineOf r.1) }))).noteHome (s.homeVisibility (lineOf r.1))) s

/-- Bytes of the mailbox window, zero where the map names no memory; a run stays in its 2 MiB granule. -/
def State.mailboxLoad (s : State) (off n : Nat) : List Byte :=
  match s.mailboxPa off with | some pa => s.homeLoad pa n | none => List.replicate n 0

/-- Whether a byte of the mailbox window lies in a fenced quadrant; a run of bytes stays in its 2 MiB granule, and that in its stack. -/
def State.mailboxFenced (s : State) (off : Nat) : Bool := match s.mailboxPa off with | some pa => s.lineFenced (lineOf pa) | none => false

/-- Whether the host must answer for the line of a byte of the mailbox window before the part writes there (R266): the line, or none. -/
def State.mailboxSnoop (s : State) (off : Nat) : Option Nat × State :=
  match s.mailboxPa off with
  | none => (none, s)
  | some pa => match s.snoop (lineOf pa) with
    | (true, _) => (some (lineOf pa), s)
    | (false, s) => (none, s)

/-- Bytes stored in the mailbox window. -/
def State.mailboxStore (s : State) (off : Nat) (bs : List Byte) : State :=
  match s.mailboxPa off with | some pa => s.homeStore pa bs | none => s

/-! ### Descriptors (R415) -/

/-- The bits that a write to a disabled queue's descriptor sets. -/
def descFields : List (Nat × Nat) := [(64, 28), (48, 16), (32, 11), (8, 6), (2, 4), (1, 1), (0, 1)]

/-- A descriptor after a write (R415). -/
def descWrite (q : Queue) (v : Nat) : Queue :=
  let stopped := q.stopped && !bit v 31
  if q.enabled then { q with desc := BitVec.ofNat 128 (setFld (setFld q.desc.toNat 0 1 (fld v 0 1)) 31 1 stopped.toNat) }
  else
    let slots := fld v 2 4
    if slots < 4 ∨ slots > 12 ∨ fld v 48 16 > 4095 ∨ fld v 64 28 + 256 + 256 * 2 ^ slots > 2 ^ 28 then q
    else { q with desc := BitVec.ofNat 128 (setFld (descFields.foldl (fun a f => setFld a f.1 f.2 (fld v f.1 f.2)) 0) 31 1 stopped.toNat) }

/-- QUEUE_DESCRIPTOR_WRITE. A queue that becomes enabled counts its records and child grids from 0, and its event numbers are
taken afresh (R418). -/
def execQueueDescriptorWrite (q : Nat) (v : BitVec 128) (s : State) : Result :=
  if q > 255 ∨ s.host.stage < 6 then notNow "QUEUE_DESCRIPTOR_WRITE"
  else
    let old := s.queue q
    let s := s.modQueue q (fun x => descWrite x v.toNat)
    if !old.enabled && (s.queue q).enabled then
      .next ({ s with events := s.events.filter (fun e => e.event / 2 ^ 48 != q) }.modQueue q (fun x => { x with head := 0, childCount := 0 }))
    else .next s

/-! ### Rings (R416, R417) -/

/-- The offset of record i in the mailbox window. -/
def Queue.recordAt (q : Queue) (i : Nat) : Nat := q.base + 256 + 256 * (i % 2 ^ q.slots)

/-- The grid of a record that has been read. -/
def newGrid (event queue asid record : Nat) (c : RecordCheck) : Grid :=
  match c with
  | .refused n => { event, queue, asid, record, refused := n }
  | .accepted h l b => { event, queue, asid, record, schedHeader := h, sched := l, peloton := b.map (·.1), ranks := (b.map (·.2)).getD [] }
  | .wait _ => { event, queue, asid, record, unchecked := true }

/-- The check of a record that has been copied (R417, R421): its grid takes what it comes to; where a read waits, the grid stands
unchecked, and what it waits for is asked once. -/
def State.checkGrid (s : State) (e : Nat) : Result :=
  match s.grid? e with
  | none => notNow "RING_RECORD_READ"
  | some g => match s.checkRecord (.engine g.engine) g.asid g.rec_ with
    | .wait (.driver va) => s.engineStop g.asid (.demand va false) g.engine "RING_RECORD_READ" (fun _ _ s => s)
    | .wait (.home va) => match s.noteFenced (some e) va with | some s => .next s | none => notNow "RING_RECORD_READ"
    | c => .next ((s.modMem (fun m => { m with refused := m.refused.filter (fun x => x.1 != g.engine) })).modGrid e (fun g =>
        let n := newGrid g.event g.queue g.asid g.record c
        { g with unchecked := false, refused := n.refused, schedHeader := n.schedHeader, sched := n.sched, peloton := n.peloton, ranks := n.ranks }))

/-- RING_RECORD_READ: the next record of a queue is copied, HEAD written, the record checked; one at a time (R417). A HEAD that lies in a
line the host caches is written once the host has answered for it (R266). -/
def execRingRecordRead (q : Nat) (s : State) : Result :=
  let d := s.queue q
  let i := d.head
  match s.grids.find? (fun g => g.queue == q && g.unchecked) with
  | some g => s.checkGrid g.event
  | none =>
    let open_ := (s.grids.filter (fun g => g.queue == q && !bit g.event 47 && g.status != .complete)).length
    let tail := bytesToNat (s.mailboxLoad d.base 8)
    if q > 255 || s.host.stage < 6 || !d.enabled || d.stopped || decide (i ≥ tail) || decide (open_ ≥ 4096)
        || [d.base, d.recordAt i, d.base + 128].any s.mailboxFenced then
      notNow "RING_RECORD_READ"
    else
      let record := bytesToNat (s.mailboxLoad (d.recordAt i) 256)
      let event := s.eventKey (ringEvent q i)
      match s.mailboxSnoop (d.base + 128) with
      | (some l, s) => match s.holdEngine (.snoop l) none with | some s => .next s | none => notNow "RING_RECORD_READ"
      | (none, s) =>
        let s := (s.mailboxStore (d.base + 128) (natToBytes 8 (i + 1))).modQueue q (fun x => { x with head := i + 1 })
        let (id, s) := s.useFresh.newId
        let s := s.addGrid { newGrid event q d.asid record (.wait (.home 0)) with engine := id }
        match s.checkGrid event with
        | .next s => .next s
        | _ => .next s

/-! ### `launch` (R151) -/

/-- What a `launch` comes to in a thread after its operands: a trap, a wait, or the record. DESIGN CHOICE (log 31): the team leader is
the thread of index 0, a spawned one too that has taken the index after thread 0 retired. -/
def State.launchRecord (s : State) (i : IssueCtx) (t : Thread) (va : Nat) : IssueRead :=
  if t.index ≠ 0 then .trap Cause.launchNotLeader 0
  else if va % 256 ≠ 0 then .trap Cause.misaligned va
  else (s.issueRead i.crew (s.asidOf t) va 256).1

/-- The status of a `launch` (R151): 1 at the depth limit, 2 with a full frame, 3 for a refused record, else 0; its record's
check. DESIGN CHOICE (log 31): where several hold, DEPTH goes before FULL and FULL before REFUSED. -/
def State.launchStatus (s : State) (i : IssueCtx) (t : Thread) (bs : List Byte) : Nat × RecordCheck :=
  let c := s.checkRecord (.crew i.crew) (s.asidOf t) ⟨bytesToNat bs⟩
  if t.frame.depth ≥ 10 then (1, c)
  else if t.frame.children ≥ 65535 then (2, c)
  else match c with
    | .refused _ => (3, c)
    | _ => (0, c)

/-- What the reads of a `launch` wait for. -/
def State.launchWait (s : State) (i : IssueCtx) (t : Thread) (va : Nat) : Option ReadWait :=
  match s.launchRecord i t va with
  | .wait w => some w
  | .trap _ _ => none
  | .bytes bs => match s.launchStatus i t bs with
    | (0, .wait w) => some w
    | _ => none

/-- A child grid queued (R151, R418, R426). -/
def State.acceptChild (s : State) (t : Thread) (record : Nat) (c : RecordCheck) : State :=
  match s.gridOf t with
  | none => s
  | some g =>
    let q := s.queue g.queue
    let child := newGrid (s.eventKey (childEvent g.queue q.childCount)) g.queue g.asid record c
    let (id, s) := s.newId
    let s := s.modQueue g.queue (fun x => { x with childCount := x.childCount + 1 })
    let s := s.addGrid { child with depth := t.frame.depth + 1, parent := some t.id, launchTm := t.outMark, engine := id }
    s.modThread t.id (fun t => { t with frame := { t.frame with children := t.frame.children + 1 } })

/-- `launch`: its record's reads are precise (R151 step 5). -/
def execLaunch (d a : BitVec 6) (s : State) : Result :=
  let od : Operand := .vv d false
  let oa : Operand := .vv a s.pfx.ua
  let va := fun (i : IssueCtx) (t : Thread) => (oa.val t i.beforeQ).toNat
  let pre := fun (i : IssueCtx) (t : Thread) => (s.accessesDone t.id).andThen (operandVerdict i.beforeQ t [oa] [od])
  match s.ctl.issue with
  | none => .next s
  | some i =>
    let waits := if i.checked then [] else i.parts.filterMap (fun t =>
      if pre i t == .pass then (s.launchWait i t (va i t)).map (fun w => (t, w)) else none)
    match waits with
    | w :: _ => .next (s.waitIssue i w.1 w.2)
    | [] => issueWord s .ctl
      (fun i t => (pre i t).andThen (match s.launchRecord i t (va i t) with
        | .trap c v => .trap c v
        | _ => .pass))
      (fun i ps s => ps.foldl (fun s t => match s.launchRecord i t (va i t) with
        | .bytes bs =>
          let (status, c) := s.launchStatus i t bs
          -- the record has been read as a load of the thread (R151, R284)
          let s := (s.freshenRange (s.placeOf t).die (s.asidOf t) 0 (va i t) 256).land64 t.id (od.dst i t) (BitVec.ofNat 64 status)
          if status = 0 then s.acceptChild t (bytesToNat bs) c else s
        | _ => s) s)

/-! ### Completion (R427-R429) -/

/-- A grid has nothing left to run: every team retired or halted, its words landed, its chunks complete (R427, R456). A capture of
a generation that was never signed in full is no outstanding word. -/
def State.gridDone (s : State) (g : Grid) : Bool :=
  let teams := s.teams.filter (fun m => m.grid == g.event)
  let mine := fun (t : Nat) => match s.thread? t with | some x => teams.any (fun m => m.id == x.team) | none => false
  decide (g.nextTeam ≥ g.rec_.teams) && teams.all (fun m => m.status == .retired || m.status == .halted)
    && !s.flights.any (fun f => f.tids.any mine && f.kind != .matrix 0)
    && !s.jobs.any (fun j => j.grid == g.event) && g.chunks.all (fun c => !c.fired || c.done)

/-- Whether a grid is to complete now. -/
def State.mayComplete (s : State) (g : Grid) : Bool :=
  g.status == .queued && !g.unchecked && (g.refused != 0 || g.depFailed || s.gridDone g)
    -- the energy of its teams is settled after the step of a whole microsecond that is due (R431)
    && !s.teams.any (fun m => m.grid == g.event && m.settling)

/-- DEADLINE_MISS (R429). -/
def Grid.missed (g : Grid) (tend : Nat) : Bool := g.rec_.deadline != 0 && decide (tend > g.rec_.deadline)

/-- A completion that carries ERROR, REFUSED or DEP_FAILED. -/
def Grid.failed (g : Grid) : Bool := g.error.isSome || g.refused != 0 || g.depFailed

/-- The completion record (R427). -/
def Grid.completion (g : Grid) (tend : Nat) : Nat :=
  let reason := if g.refused ≠ 0 then g.refused else g.error.getD 0
  let flags := 1 + g.error.isSome.toNat * 2 + (g.refused != 0).toNat * 4 + (g.missed tend).toNat * 8 + g.depFailed.toNat * 16
    + (g.haltedTeams != 0).toNat * 32 + (g.part != 0).toNat * 64
  g.event % 2 ^ 64 * 2 ^ 448 + g.tstart % 2 ^ 64 * 2 ^ 384 + tend % 2 ^ 64 * 2 ^ 320 + g.energy % 2 ^ 64 * 2 ^ 256
    + g.haltedTeams % 2 ^ 32 * 2 ^ 224 + g.full % 2 ^ 32 * 2 ^ 160 + g.part % 2 ^ 32 * 2 ^ 128 + g.drop % 2 ^ 32 * 2 ^ 96
    + reason % 256 * 2 ^ 8 + flags

/-- The completion record stored: bytes 8 to 63, then 1 to 7, byte 0 last, all in one event; outside R245 its store faults with
ADDR_RANGE. A misaligned record of a refused grid may lie in two pages: what its first store meets keeps byte 0 from being written. -/
def State.storeCompletion (s : State) (g : Grid) (tend : Nat) : Except EngineStop Nat × State :=
  let bs := natToBytes 64 (g.completion tend)
  let va := g.rec_.compl
  if !inRange va 64 then (.error (.fault Cause.addrRange va), s)
  else [(8, 56), (1, 7), (0, 1)].foldl (fun acc r => match acc with
    | (.error e, s) => (.error e, s)
    | (.ok _, s) => s.engineWrite g.asid g.rec_.step (va + r.1) ((bs.drop r.1).take r.2)) (.ok 0, s)

/-- What belongs to a complete grid leaves the machine: its teams, clusters, threads, captures. -/
def State.removeGrid (s : State) (g : Grid) : State :=
  let teams := (s.teams.filter (fun m => m.grid == g.event)).map (·.id)
  let gone := (s.threads.filter (fun t => teams.contains t.team)).map (·.id)
  { s with grids := s.grids.filter (fun x => x.event != g.event), teams := s.teams.filter (fun m => !teams.contains m.id)
           clusters := s.clusters.filter (fun c => c.grid != g.event), threads := s.threads.filter (fun t => !gone.contains t.id)
           gens := s.gens.filter (fun x => !teams.contains x.team)
           flights := s.flights.filter (fun f => !f.tids.any gone.contains) }

/-- An event is complete (R427, R428): its outcome stands, VEC is raised, STOPERR acts, the launching frame is credited. -/
def State.finishGrid (s : State) (g : Grid) (tend : Nat) : State :=
  let q := s.queue g.queue
  let s := { s with events := s.events ++ [({ event := g.event % 2 ^ 64, failed := g.failed } : EventDone)] }
  let s := s.raiseVector q.vec
  let s := if q.stopErr && (g.error.isSome || g.refused != 0 || g.missed tend) then
      s.modQueue g.queue (fun x => { x with desc := BitVec.ofNat 128 (setFld x.desc.toNat 31 1 1) }) else s
  (s.removeGrid g).creditGrid g

/-- GRID_COMPLETE. A store that faults ends the record and leaves a fault record (R427), with the address of the first store, that of bytes
8 to 63. -/
def execGridComplete (grid : Nat) (s : State) : Result :=
  match s.grid? grid with
  | none => notNow "GRID_COMPLETE"
  | some g =>
    if !s.mayComplete g then notNow "GRID_COMPLETE"
    else
      let tend := s.time.hub
      if g.rec_.compl = 0 then .next (s.finishGrid g tend)
      else match s.storeCompletion g tend with
        | (.ok _, s) => .next (s.finishGrid g tend)
        | (.error e, after) =>
          match after.stopCause g.asid e none g.engine, e with
          | none, .demand va write =>
            if (s.request? g.asid va).any (fun r => r.engines.contains g.engine) then notNow "GRID_COMPLETE"
            else .next (s.engineDemand g.asid va write none g.engine)
          | none, e => match s.holdEngine e (some g.event) with | some s => .next s | none => notNow "GRID_COMPLETE"
          | some (c, va), _ =>
            let after := (after.takeRefusal g.engine g.asid va).writeRecord 0
              { cause := c, val := g.rec_.compl + 8, asid := g.asid, grid := g.event, noThread := true }
            .next (after.finishGrid g tend)

/-! ### The cadence unit (R430-R432) -/

/-- `cr.cadence` written by the driver (R430): the new values apply from the next whole microsecond. -/
def EnergyState.write (e : EnergyState) (v : Nat) : EnergyState :=
  let limit := fld v 0 13
  let capus := fld v 32 16
  if limit < 1 ∨ limit > 4800 ∨ capus = 0 then { e with limerr := true }
  else { e with limit, capus, limerr := e.limerr && !bit v 31 }

/-- CADENCE_WRITE. One that comes at a whole microsecond whose step is still due comes after it (R431). -/
def execCadenceWrite (v : BitVec 64) (s : State) : Result :=
  if s.host.stage < 6 || s.tickDue then notNow "CADENCE_WRITE" else .next { s with energy := s.energy.write v.toNat }

/-- A value clamped to the account's range (R431). -/
def EnergyState.clamp (e : EnergyState) (a : Int) : Int := max (-(e.capacity : Int)) (min (e.capacity : Int) a)

/-- A die's measured energy attributed to its resident teams by issue beats (R431 step 3): the state, and the remainder. -/
def State.attribute (s : State) (die uj : Nat) : State × Nat :=
  let on := fun (m : Team) => (m.status == .resident || m.settling) && m.place.die == die
  let total := (s.teams.filter on).foldl (fun a m => a + m.beats) 0
  if total = 0 then (s, uj)
  else
    let share := fun (m : Team) => uj * m.beats / total
    let given := (s.teams.filter on).foldl (fun a m => a + share m) 0
    ({ s with teams := s.teams.map (fun m => if on m then { m with energy := m.energy + share m } else m) }, uj - given)

/-- The clocks after a whole microsecond (R432). -/
def clockAfter (e : EnergyState) (khz : Nat) : Nat :=
  if e.account < 0 then max 600000 (khz - 100000)
  else if (2 * e.account : Int) ≥ (e.capacity : Int) then min 2400000 (khz + 100000)
  else khz

/-- CADENCE_TICK: a whole microsecond of hub time; the energy of teams that have retired or halted in this instant is settled after it. The sensors' readings are the event's: energy outside the compute dies, and
what each die measured. -/
def execCadenceTick (unattributed : Nat) (measured : List (Nat × Nat)) (s : State) : Result :=
  if s.host.stage < 3 || decide (s.time.hub < s.energy.lastTick + 1000) then notNow "CADENCE_TICK"
  else
    let e := { s.energy with capusNow := s.energy.capus, limitNow := s.energy.limit, lastTick := s.energy.lastTick + 1000 }
    let (s, rest) := measured.foldl (fun (acc : State × Nat) m =>
      let r := acc.1.attribute m.1 m.2
      (r.1, acc.2 + r.2)) (s, unattributed)
    let e := { e with account := e.clamp (e.account + (e.limitNow : Int) - (rest : Int)) }
    let s : State := { s with
      energy := e, teams := s.teams.map (fun m => { m with beats := 0 }), time := { s.time with khz := s.time.khz.map (clockAfter e) } }
    .next ((s.teams.filter (·.settling)).foldl State.settleNow s)

end Sys2Proof.Machine
end

