-- ==== Sys2Proof/Machine/Host.lean ====
section
/-! DEFINITION. The host interface (spec/20): bring-up, the management window, service commands, page requests' answers, the mailbox
and the aperture, attestation, Ethernet. A write that the part ignores leaves the state as it was. -/
namespace Sys2Proof.Machine

/-! ### Bring-up (R472, R473) -/

/-- Whether the boot ROM accepts an image (R473). -/
def accepted (x : Firmware) : Bool := x.keyOk && x.signatureOk && x.versionOk

/-- The slots that do not train at bring-up are withdrawn and retrain; a port left with fewer than 4 is DOWN (R440, R472; log 27). -/
def State.untrained (s : State) (l : List (Nat × Nat × Nat)) : State :=
  l.foldl (fun s x => if slotExists x.1 x.2.1 x.2.2 then s.modPort x.1 x.2.1 (fun p => p.modSlot x.2.2 (fun k => { k with state := 1 })) else s) s

/-- POWER_ON_RESET: the steps in order, all six or up to the one that fails. Step 1 fails where the boot ROM refuses the image, which is a
staged one where there is one (R473). Host memory and what stands on the agenda are no part of the part. -/
def execPowerOnReset (up : BringUp) (s : State) : Result :=
  let image := s.host.staged.getD s.host.firmware
  let fresh : State := { mem := { host := s.mem.host }, ctl := { s.ctl with focus := none, issue := none }, host := { firmware := image } }
  if !accepted image then .next (fresh.modHost (fun h => { h with fail := 1 }))
  else if up.failAt = 1 ∨ up.failAt > 6 then notNow "POWER_ON_RESET"
  else
    let ports := if up.failAt = 0 ∨ up.failAt = 6 then fresh.untrained up.untrained else fresh
    .next (ports.modHost (fun h => if up.failAt = 0 then { h with stage := 6 } else { h with stage := up.failAt - 1, fail := 1 }))

/-! ### Memory that the host reaches (R266-R268, R468, R469) -/

/-- HOST_MAILBOX_WRITE: performed at the home as the host gives up ownership. -/
def execHostMailboxWrite (off : Nat) (bytes : List (BitVec 8)) (s : State) : Result :=
  if s.host.stage < 6 || bytes.isEmpty || decide (off + bytes.length > 2 ^ 28) || off / 2 ^ 21 != (off + bytes.length - 1) / 2 ^ 21
      || s.mailboxFenced off then
    notNow "HOST_MAILBOX_WRITE"
  else .next (s.mailboxStore off bytes)

/-- BACK_INVALIDATE_ANSWER (R266): the host has answered for a mailbox line; the waiting writes go on. A write by an engine finds the
line answered when it is tried again; that of a peer is taken again. -/
def execBackInvalidateAnswer (line : Nat) (s : State) : Result :=
  if !s.mem.backInval.contains line then notNow "BACK_INVALIDATE_ANSWER"
  else
    let goOn := fun (f : Flight) => match f.kind with
      | .mem a => match s.page? a.asid a.va with
        | some p => if f.stage == .waiting && lineOf (p.phys a.va) == line then { f with stage := .granted } else f
        | none => f
      | _ => f
    .next (({ s with flights := s.flights.map goOn }.modMem (fun m => { m with
      backInval := m.backInval.filter (fun x => x != line), snooped := insertNat line m.snooped })).retakePeers)

/-- The physical address of an aperture byte; none where the granule reaches no memory (R468). -/
def State.aperturePa (s : State) (off : Nat) : Option Nat :=
  let g := fld s.host.aperture.toNat 0 19
  if g / 2 ^ 15 > 11 then none else some (g * 2 ^ 21 + off)

/-- An aperture write that completes a firmware image stages it for the next reset (R473). -/
def State.stageImage (s : State) (pa : Nat) (bytes : List Byte) : State :=
  match Config.stagedImage pa bytes with
  | some x => s.modHost (fun h => { h with staged := some x })
  | none => s

/-- HOST_APERTURE_ACCESS: at the home, with no translation; for a read the bytes stand for their number. Before STAGE 6 a read returns zero
and a write is ignored (R472). -/
def execHostApertureAccess (off : Nat) (bytes : List (BitVec 8)) (write : Bool) (s : State) : Result :=
  if off + bytes.length > 2 ^ 21 then notNow "HOST_APERTURE_ACCESS"
  else match if s.host.stage < 6 then none else s.aperturePa off with
    | none => .next (if write then s else s.modHost (fun h => { h with lastRead := List.replicate bytes.length 0 }))
    | some pa =>
      .next (if write then (s.physWrite pa bytes).stageImage pa bytes
        else s.modHost (fun h => { h with lastRead := s.physRead pa bytes.length }))

/-- MAILBOX_MAP_WRITE: only while every queue has EN = 0. -/
def execMailboxMapWrite (entry : Nat) (v : BitVec 64) (s : State) : Result :=
  if entry > 127 then notNow "MAILBOX_MAP_WRITE"
  else if s.host.stage < 6 || s.queues.any Queue.enabled then .next s
  else .next (s.modMem (fun m =>
    let old := (List.range 128).map (fun k => m.mailbox.getD k 0)
    { m with mailbox := modAt (fun _ => keepFields v.toNat [(0, 19)]) entry old }))

/-! ### Page requests (R253, R471) -/

/-- A word in flight that waited for the driver goes on: its access is made again, or raises PAGE_FAULT at its address. -/
def Flight.answered (f : Flight) (retry : Bool) (va : Nat) : Flight :=
  if f.stage != .waiting then f
  else if retry then { f with stage := .start }
  else match f.kind with
    | .mem a => { f with stage := .faulted Cause.pageFault a.va }
    | _ => { f with stage := .faulted Cause.pageFault va }

/-- Requests of peers that waited on an entry. -/
def State.answerPeers (s : State) (r : PageRequest) (retry : Bool) : State :=
  let due := s.links.waiting.filter (fun w => r.engines.contains w.1)
  let s := s.modLinks (fun l => { l with waiting := l.waiting.filter (fun w => !r.engines.contains w.1) })
  due.foldl (fun s w => if retry then s.takeRequest w.2 else s.answer w.2.peer (.refused Cause.pageFault)) s

/-- Accesses that found every entry VALID look for one again. -/
def State.retryUnposted (s : State) : State :=
  let posted := s.mem.requests.flatMap (fun r => if r.valid then r.waiting else [])
  let snooped := fun (f : Flight) => match f.kind with
    | .mem a => match s.page? a.asid a.va with | some p => s.mem.backInval.contains (lineOf (p.phys a.va)) | none => false
    | _ => false
  { s with flights := s.flights.map (fun f =>
      if f.stage == .waiting && !posted.contains f.id && !snooped f then { f with stage := .start } else f) }

/-- An answer taken: every access that waits on the entry goes on; one that found every entry VALID, a peer's too, tries again. -/
def State.takeAnswer (s : State) (r : PageRequest) (retry : Bool) : State :=
  let peers := s.links.waiting.map (·.1)
  let s := s.modMem (fun m => { m with
    requests := m.requests.map (fun x => if x.index == r.index then { x with valid := false, waiting := [], fetchers := [], engines := [] } else x)
    requestsAnswered := m.requestsAnswered + 1
    refused := if retry then m.refused
      else m.refused ++ (r.engines.filter (fun e => !peers.contains e)).map (fun e => (e, r.asid, r.va)) })
  let s := { s with
    flights := s.flights.map (fun (f : Flight) => if r.waiting.contains f.id then f.answered retry r.va else f)
    crews := s.crews.map (fun (c : Crew) => if !retry && r.fetchers.contains c.id then { c with refused := some r.va } else c) }
  (s.retryChunks.answerPeers r retry).retryUnposted.retakePeers

/-- PRA_ANSWER: 1 retry, 2 refuse; any other answer and a stale TAG are ignored. -/
def execPraAnswer (v : BitVec 64) (s : State) : Result :=
  let n := v.toNat
  let entry := s.mem.requests.find? (fun r => r.valid && r.index == fld n 0 8 && r.uses == fld n 8 8)
  if s.host.stage < 6 then .next s
  else match entry, fld n 16 2 with
    | some r, 1 => .next (s.takeAnswer r true)
    | some r, 2 => .next (s.takeAnswer r false)
    | _, _ => .next s

/-! ### Service commands (R470, R477) -/

/-- A command begins: BUSY rises, with the STATUS it will leave and what it acts on. -/
def State.begin_ (s : State) (code status : Nat) (args : List Nat := []) : State :=
  s.modHost (fun h => { h with busy := some (code, status), busyArgs := args })

/-- A command whose arguments are checked: STATUS 1, STATUS 2, or its effect. Before STAGE 6 its write is ignored (R472). -/
def State.command (s : State) (name : String) (code : Nat) (argsOk allowed : Bool) (args : List Nat) (effect : State → State) : Result :=
  if s.host.stage < 6 then .next s
  else if s.host.busy.isSome then notNow name
  else if !argsOk then .next (s.begin_ code 1)
  else if !allowed then .next (s.begin_ code 2)
  else .next ((effect s).begin_ code 0 args)

/-- Bytes of a page by its size code (R251). -/
def pageBytes (code : Nat) : Nat := levelSize (3 - code)

/-- PAGE_INVAL (R254): every L1 and L2 copy of the page's lines goes, dirty ones written back; the table is walked afresh at
each access. An access to the page that is half made ends with the translation it began with (R283). -/
def execPageInval (asid : Nat) (va : BitVec 64) (size : Nat) (s : State) : Result :=
  let n := pageBytes size
  let base := va.toNat / n * n
  let hit := fun (l : Nat) => decide (base ≤ l * 128) && decide (l * 128 < base + n)
  s.command "PAGE_INVAL" 1 (decide (asid ≤ 4095) && decide (size ≤ 3) && decide (va.toNat < 2 ^ 52)) true []
    (fun s => (((s.finishHalves asid base n).giveUp (fun l => l.asid == asid && hit l.line)).unholdFills (fun g => hit g.line)).modMem (fun m =>
      { m with l1 := m.l1.filter (fun l => !(l.asid == asid && hit l.line)) }))

/-- POOL_SET (R326): an entry between EMPTY and FREE; refused where a copy-on-write has taken it (R470). -/
def execPoolSet (asid entry free : Nat) (s : State) : Result :=
  let e := (s.pool asid).find? (fun e => e.index == entry)
  s.command "POOL_SET" 2 (decide (asid ≤ 4095) && e.isSome && decide (free ≤ 1)) (e.any (fun e => decide (e.state ≤ 1)) && !s.mem.cows.any (fun c => c.asid == asid && c.entry == entry)) []
    (fun s => match e with | some e => s.writePool asid entry (setFld e.bits 138 2 free) | none => s)

/-- A route table entry set; a port of 0xFF is none. -/
def State.setRoute (s : State) (peer die : Nat) (port : Option Nat) : State :=
  s.modLinks (fun l => { l with routes := l.routes.filter (fun r => !(r.1 == peer && r.2.1 == die))
                                            ++ (match port with | some p => [(peer, die, p)] | none => []) })

/-- ROUTE: new accesses take the new port; the command is complete once those on the old one have ended. -/
def execRoute (peer die port : Nat) (s : State) : Result :=
  let old := ((s.links.routes.find? (fun r => r.1 == peer && r.2.1 == die)).map (·.2.2)).getD 0xFF
  s.command "ROUTE" 3 (decide (peer ≤ 1023) && decide (die ≤ 3) && (decide (port ≤ 127) || port == 0xFF)) true [peer, die, old]
    (fun s => s.setRoute peer die (if port = 0xFF then none else some port))

/-- SPARE_CORE (R477): the core is fenced as for CORE_FAIL and a spare takes its numbers; refused with no spare left. -/
def execSpareCore (die cluster core : Nat) (s : State) : Result :=
  s.command "SPARE_CORE" 4 (decide (die ≤ 3) && decide (cluster ≤ 15) && decide (core ≤ 7)) (decide (s.host.spareCores.getD die 0 > 0)) []
    (fun s => s.failCore ⟨die, cluster, core⟩)

/-- CHAN_REMAP (R477): onto the stack's spare, where it is free. -/
def execChanRemap (stack channel : Nat) (s : State) : Result :=
  s.command "CHAN_REMAP" 5 (decide (stack ≤ 11) && decide (channel ≤ 31)) (!s.mem.spareChannels.contains stack) [stack, channel] id

/-- The thread that a fault record names, halted for the host under DBG (R299). -/
def State.haltedBy (s : State) (die index : Nat) : Option Thread :=
  s.threads.find? (fun t => match t.status with | .haltedDbg (some i) b => i == index && recordDie b == die | _ => false)

/-- RELEASE: the thread goes on at its return point. -/
def execRelease (die index : Nat) (s : State) : Result :=
  s.command "RELEASE" 6 (decide (die ≤ 3) && decide (index ≤ 63)) (s.haltedBy die index).isSome []
    (fun s => match s.haltedBy die index with | some t => s.file t.id | none => s)

/-- A word of the part's that a link still carries on a die's port to a peer. -/
def State.onPort (s : State) (peer die port : Nat) : Bool :=
  s.flights.any (fun f => match f.via?, f.stage with
    | some (p, v), .start => p == peer && v.die == die && v.port == port
    | _, _ => false)

/-- The last effect of a command, as BUSY falls: a remapped channel's failure is over; the granules that were poisoned of themselves stay so,
the others have their bytes (R312, R477, R478). -/
def State.endCommand (s : State) (code : Nat) (args : List Nat) : State :=
  match code, args with
  | 5, [stack, channel] =>
    s.modMem (fun m => { m with
      failedChannels := m.failedChannels.filter (fun x => x != (stack, channel)), spareChannels := stack :: m.spareChannels })
  | _, _ => s

/-- SERVICE_COMMAND_COMPLETE: BUSY falls, STATUS is set. -/
def execServiceCommandComplete (s : State) : Result :=
  match s.host.busy with
  | none => notNow "SERVICE_COMMAND_COMPLETE"
  | some (code, status) =>
    let held := match code, s.host.busyArgs with | 3, [peer, die, old] => s.onPort peer die old | _, _ => false
    if held then notNow "SERVICE_COMMAND_COMPLETE"
    else .next ((s.endCommand code s.host.busyArgs).modHost (fun h => { h with busy := none, busyArgs := [], status }))

/-- SERVICE_COMMAND_LOST: a CODE written while BUSY is ignored. -/
def execServiceCommandLost (s : State) : Result :=
  if s.host.busy.isNone then notNow "SERVICE_COMMAND_LOST" else .next (s.modHost (fun h => { h with lost := true }))

/-! ### Attestation (R474) -/

/-- ATTEST_REQUEST: the last byte of NONCE has been written; a second request replaces the first. -/
def execAttestRequest (nonce : List (BitVec 8)) (s : State) : Result :=
  if nonce.length ≠ 32 then notNow "ATTEST_REQUEST"
  else if s.host.stage < 6 then .next s
  else .next (s.modHost (fun h => { h with nonce, atst := 1 }))

/-- The identity key that the part holds while its firmware runs. -/
def State.identity (s : State) : Nat := Config.identityKey s.host.firmware.digest

/-- IDKEY, CHLEN and CHAIN of the attestation block: the public key, its certificate chain's length and bytes. -/
def State.idkey (s : State) : List Byte := (List.range 1952).map (Config.publicKeyByte s.identity)
def State.chlen (s : State) : Nat := Config.chainLength s.identity % 12289
def State.chain (s : State) : List Byte := (List.range s.chlen).map (Config.chainByte s.identity)

/-- The number of firmware stages, 1 to 8. -/
def State.firmwareCount (s : State) : Nat := Config.firmwareStages s.host.firmware.digest % 8 + 1

/-- The signed part of a report. -/
def State.reportBody (s : State) : List Byte :=
  let digests := (List.range 8).flatMap (fun i => (List.range 64).map (fun k =>
    if i < s.firmwareCount then Config.digestByte s.host.firmware.digest i k else 0))
  s.host.nonce ++ natToBytes 8 s.firmwareCount ++ digests ++ natToBytes 8 Config.rollbackCounter ++ natToBytes 8 s.crIdent

/-- ATTEST_REPORT_DONE: the report for the latest nonce stands, signed with the identity key. -/
def execAttestReportDone (s : State) : Result :=
  if !bit s.host.atst 0 then notNow "ATTEST_REPORT_DONE"
  else
    let body := s.reportBody
    .next (s.modHost (fun h => { h with atst := 2, report := body ++ (List.range 3309).map (Config.signatureByte s.identity body) }))

/-! ### Ethernet (R475, R476) -/

/-- A field of a port's block, at its reset value where it has not been written. -/
def State.eth (s : State) (port off : Nat) : Nat :=
  match ((s.host.eth.getD port {}).regs.find? (fun x => x.1 == off)) with
  | some x => x.2.toNat
  | none => if off = 0x18 ∨ off = 0x38 then 4 else 0

/-- A field set. -/
def State.setEth (s : State) (port off v : Nat) : State :=
  s.modHost (fun h => { h with eth := modAt (fun p => { p with regs := p.regs.filter (fun x => x.1 != off) ++ [(off, BitVec.ofNat 64 v)] }) port h.eth })

/-- ETH_TAIL_WRITE: ignored where TAIL - HEAD would exceed the ring. -/
def execEthTailWrite (port : Nat) (rx : Bool) (v : BitVec 64) (s : State) : Result :=
  let b := if rx then 0x30 else 0x10
  if port > 3 then notNow "ETH_TAIL_WRITE"
  else if s.host.stage < 6 then .next s
  else
    let used := (v - BitVec.ofNat 64 (s.eth port (b + 0x18))).toNat
    .next (if used > 2 ^ (s.eth port (b + 8) % 16) then s else s.setEth port (b + 0x10) v.toNat)

/-- What a port has in hand forgotten: a frame sent whose FLAGS are not written, a received one not written. -/
def State.ethClear (s : State) (port : Nat) : State :=
  s.modHost (fun h => { h with eth := modAt (fun p => { p with sent := false, held := none }) port h.eth })

/-- A fault of a ring or buffer access (R476): EN falls, a record is written on the port's compute die, VEC is raised. -/
def State.ethFault (s : State) (port cause va : Nat) : State :=
  let ctl := s.eth port 0
  ((((s.setEth port 0 (setFld ctl 0 1 0)).ethClear port).writeRecord port
    { cause, val := va, asid := fld ctl 48 16, noThread := true, place := ⟨0, 0, 0⟩ }).raiseVector (fld ctl 16 11))

/-- A port's number among the engines. -/
def ethEngine (port : Nat) : Nat := 2 ^ 64 + port

/-- The stop of a port's access. -/
def State.ethStop (s : State) (port : Nat) (e : EngineStop) (name : String) : Result :=
  s.engineStop (fld (s.eth port 0) 48 16) e (ethEngine port) name (fun c va s => s.ethFault port c va)

/-- Bytes that a port reads, at the home like a host access (R267, R475): what an L2 holds dirty is not seen, and no version is checked (R324). -/
def State.ethRead (s : State) (asid va n : Nat) : Except EngineStop (List Byte) × State :=
  (runsOf va n).foldl (fun acc r => match acc with
    | (.error e, s) => (.error e, s)
    | (.ok bs, s) =>
      if s.homeFenced r.1 then (.error (.fenced r.1), s)
      else match s.translate asid r.1 .read with
      | .fault c => (.error (.fault c r.1), s)
      | .demand => (.error (.demand r.1 false), s)
      | .ok p =>
        let s := s.touchPage p false
        let pa := p.phys r.1
        if (List.range r.2).any (fun k => s.physBad (pa + k)) then (.error (.fault Cause.memPoison r.1), s)
        else (.ok (bs ++ s.physRead pa r.2), s))
    (.ok [], s)

/-- Bytes that a port writes, at the home like a host access (R267, R475), line by line to the first that stops: no copy is recalled or
dropped, a versioned page's live frame is written with no check (R324); a mailbox line waits for the host (R266). -/
def State.ethStore (s : State) (asid va : Nat) (bs : List Byte) : Except EngineStop Nat × State :=
  (runsOf va bs.length).foldl (fun acc r => match acc with
    | (.error e, s) => (.error e, s)
    | (.ok k, s) =>
      if s.homeFenced r.1 then (.error (.fenced r.1), s)
      else match s.translate asid r.1 .write with
      | .fault c => (.error (.fault c r.1), s)
      | .demand => (.error (.demand r.1 true), s)
      | .ok p =>
        let s := s.touchPage p true
        let line := lineOf (p.phys r.1)
        let (wait, s) := if p.mt == 1 then s.snoop line else (false, s)
        if wait then (.error (.snoop line), s)
        else (.ok (k + r.2), (s.physWrite (p.phys r.1) ((bs.drop (r.1 - va)).take r.2)).modMem (fun m =>
          { m with snooped := m.snooped.filter (fun x => x != line) })))
    (.ok 0, s)

/-- Where descriptor c of a ring lies. -/
def State.ethDesc (s : State) (port base c : Nat) : Nat := s.eth port base + 16 * (c % 2 ^ (s.eth port (base + 8) % 16))

/-- A count of a port's block rises. -/
def State.ethCount (s : State) (port off : Nat) : State := s.setEth port off (s.eth port off + 1)

/-- A descriptor completed: FLAGS written last, HEAD raised, VEC raised. -/
def State.ethDone (s : State) (port base desc flags : Nat) : Except EngineStop Nat × State :=
  let ctl := s.eth port 0
  match s.ethStore (fld ctl 48 16) (desc + 12) [BitVec.ofNat 8 flags] with
  | (.error e, s) => (.error e, s)
  | (.ok v, s) => (.ok v, ((s.ethCount port (base + 0x18)).ethClear port).raiseVector (fld ctl 16 11))

/-- ETH_TX_FRAME: the next transmit descriptor. The frame is kept as sent, without its check sequence; where FLAGS cannot be written at once it
has been sent all the same, and the event writes them when it comes again. -/
def execEthTxFrame (port : Nat) (s : State) : Result :=
  let ctl := s.eth port 0
  let asid := fld ctl 48 16
  let head := s.eth port 0x28
  if port > 3 || s.host.stage < 6 || !bit ctl 0 || decide (head ≥ s.eth port 0x20) then notNow "ETH_TX_FRAME"
  else
    let desc := s.ethDesc port 0x10 head
    let finish := fun (flags : Nat) (s : State) => match s.ethDone port 0x10 desc flags with
      | (.error e, s) => s.ethStop port e "ETH_TX_FRAME"
      | (.ok _, s) => .next s
    if (s.host.eth.getD port {}).sent then finish 1 s
    else match s.ethRead asid desc 16 with
    | (.error e, _) => s.ethStop port e "ETH_TX_FRAME"
    | (.ok bs, s) =>
      let d := bytesToNat bs
      let len := fld d 64 16
      if len < 64 ∨ len > 9216 then finish 3 s
      else match s.ethRead asid (fld d 0 52) len with
        | (.error e, s) => s.ethStop port e "ETH_TX_FRAME"
        | (.ok frame, s) =>
          let s := (s.ethCount port 0x50).modHost (fun h => { h with framesOut := (port, frame) :: h.framesOut })
          match s.ethDone port 0x10 desc 1 with
          | (.ok _, s) => .next s
          | (.error _, _) => .next (s.modHost (fun h => { h with eth := modAt (fun p => { p with sent := true }) port h.eth }))

/-- A frame taken into descriptor RXHEAD: its bytes, LEN, FLAGS, in this order; one longer than the buffer is dropped. -/
def State.ethReceive (s : State) (port : Nat) (frame : List Byte) : Except EngineStop Nat × State :=
  let asid := fld (s.eth port 0) 48 16
  let desc := s.ethDesc port 0x30 (s.eth port 0x48)
  match s.ethRead asid desc 16 with
  | (.error e, s) => (.error e, s)
  | (.ok bs, s) =>
    let d := bytesToNat bs
    if frame.length > fld d 64 16 then (.ok 0, (s.ethCount port 0x60).ethClear port)
    else match s.ethStore asid (fld d 0 52) frame with
      | (.error e, s) => (.error e, s)
      | (.ok _, s) => match s.ethStore asid (desc + 8) (natToBytes 2 frame.length) with
        | (.error e, s) => (.error e, s)
        | (.ok _, s) => match s.ethDone port 0x30 desc 1 with
          | (.error e, s) => (.error e, s)
          | (.ok v, s) => (.ok v, s.ethCount port 0x58)

/-- ETH_RX_FRAME: a frame that passes the address filter; byte k of its destination stands in bits [8k + 7:8k] of MAC (log 17). A frame whose
accesses have to wait is held, and the event is its writing when it comes again; the next frame comes after it. -/
def execEthRxFrame (port : Nat) (frame : List (BitVec 8)) (badCheck : Bool) (s : State) : Result :=
  let ctl := s.eth port 0
  let mine := bit ctl 1 || bytesToNat (frame.take 6) == fld (s.eth port 8) 0 48
  if port > 3 ∨ s.host.stage < 6 then notNow "ETH_RX_FRAME"
  else match (s.host.eth.getD port {}).held with
  | some f =>
    if f != frame || badCheck then notNow "ETH_RX_FRAME"
    else match s.ethReceive port frame with
      | (.ok _, s) => .next s
      | (.error e, _) => s.ethStop port e "ETH_RX_FRAME"
  | none =>
    if !bit ctl 0 || !mine then .next s
    else if badCheck || decide (s.eth port 0x48 ≥ s.eth port 0x40) then .next (s.ethCount port 0x60)
    else match s.ethReceive port frame with
      | (.ok _, s) => .next s
      | (.error e, _) =>
        if (s.stopCause (fld ctl 48 16) e none (ethEngine port)).isSome then s.ethStop port e "ETH_RX_FRAME"
        else .next (s.modHost (fun h => { h with eth := modAt (fun p => { p with held := some frame }) port h.eth }))

/-- A write to a port's block (R476): CTL other than EN, MAC, the bases and the sizes only while EN = 0. -/
def State.ethWrite (s : State) (port off v : Nat) : State :=
  let on := bit (s.eth port 0) 0
  match off with
  | 0x00 =>
    if on then
      -- what a port has in hand when the host stops it is forgotten (log 17)
      let s := if bit v 0 then s else s.ethClear port
      s.setEth port 0 (setFld (s.eth port 0) 0 1 (fld v 0 1))
    else s.setEth port 0 (keepFields v [(0, 2), (16, 11), (48, 16)]).toNat
  | 0x08 => if on then s else s.setEth port 8 (fld v 0 48)
  | 0x10 | 0x30 => if on then s else s.setEth port off v
  | 0x18 | 0x38 => if on then s else s.setEth port off (fld v 0 4)
  | _ => s

/-! ### The other registers of the management window (R469, R6) -/

/-- SERVICE_COUNTER_WRITE (R479): zero clears, any other value is ignored. -/
def execServiceCounterWrite (index : Nat) (v : BitVec 64) (s : State) : Result :=
  if s.host.stage < 6 then .next s
  else .next (if v == 0 then
      let s := (List.range 4).foldl (fun s d => if index = lostIndex d then { s with recordsLost := modAt (fun _ => 0) d s.recordsLost } else s) s
      s.modHost (fun h => { h with counters := h.counters.filter (fun c => c.1 != index) })
    else s)

/-- An event that a write stands for; where it cannot happen the write is ignored. -/
def orIgnored (r : Result) (s : State) : Result := match r with | .next s' => .next s' | _ => .next s

/-- Counters at zero when the driver gives them to a window (R446). -/
def State.clearWindow (s : State) (v : Nat) : State :=
  s.modLinks (fun l => { l with counters := l.counters.filter (fun c => !(decide (fld v 0 12 ≤ c.index) && decide (c.index < fld v 0 12 + fld v 16 13))) })

/-- A view slot as the driver sets it (R330); slot 0 stays. -/
def viewSlotOf (v : Nat) : ViewSlot := { bound := bit v 63, readers := fld v 40 16, version := fld v 0 24 }

/-- A kernel descriptor after a write to word k of its entry: the first packet, the number of packets, views 0 and 1, views 2 and 3 (log 10). -/
def KernelDesc.write (d : KernelDesc) (k v : Nat) : KernelDesc :=
  let view := fun (x : Nat) => (⟨fld x 0 12, fld x 16 12⟩ : View)
  match k with
  | 0 => { d with first := v % 2 ^ 56 }
  | 1 => { d with packets := v % 2 ^ 56 }
  | 2 => { d with views := [view v, view (v / 2 ^ 32)] ++ d.views.drop 2 }
  | _ => { d with views := d.views.take 2 ++ [view v, view (v / 2 ^ 32)] }

/-- The table of loaded kernels after a write at byte off of it: 32 bytes an entry (log 10). -/
def writeKernels (ks : List KernelDesc) (off v : Nat) : List KernelDesc :=
  let i := off / 32
  modAt (·.write (off % 32 / 8) v) i
    (ks ++ List.replicate (i + 1 - ks.length) { first := 0, packets := 0, views := List.replicate 4 ⟨0, 8⟩ })

/-- A write to an address-space block: its registers in the order of R469, 8 bytes each; then the view slots, and from 0x200 the table of
the kernels that the driver has loaded (log 10). -/
def State.asidWrite (s : State) (a off v : Nat) : State :=
  let w := BitVec.ofNat 64 v
  if 0x30 ≤ off ∧ off < 0xB0 then
    let i := (off - 0x30) / 16
    s.modAsid a (fun x => if off % 16 = 0 then { x with vrgnb := modAt (fun _ => w) i x.vrgnb }
      else { x with vrgns := modAt (fun _ => keepFields v [(63, 1), (24, 24), (0, 24)]) i x.vrgns })
  else if 0x200 ≤ off then s.modAsid a (fun x => { x with kernels := writeKernels x.kernels (off - 0x200) v })
  else if 0x108 ≤ off ∧ off < 0x180 then
    let n := (off - 0x100) / 8
    let old := (s.asidBlock a).vslots.getD n ⟨false, 0, 0⟩
    let x := viewSlotOf v
    -- a slot unbound, or bound to another version, keeps no line (R335)
    let s := if old.bound && !(x.bound && x.version == old.version) then s.dropSlot a n else s
    s.modAsid a (fun b => { b with vslots := modAt (fun _ => x) n b.vslots })
  else match off with
    | 0x00 => s.modAsid a (fun x => { x with root := w })
    | 0x08 => s.modAsid a (fun x => { x with asctl := keepFields v [(8, 1), (0, 6)] })
    | 0x10 => s.modAsid a (fun x => { x with hkey := keepFields v [(0, 10)] })
    -- the lines of what a later write allots are present when it begins (R233)
    | 0x18 => let n := min 128 (fld v 0 8)
      s.modAsid a (fun x => { x with pkwin := BitVec.ofNat 64 n, pk := { x.pk with absent := x.pk.absent.filter (fun l => decide (l < n * 16384)) } })
    | 0x20 => s.modAsid a (fun x => { x with vpool := keepFields v [(12, 28)] })
    | 0x28 => s.modAsid a (fun x => { x with vctl := keepFields v [(32, 20), (0, 4)] })
    | 0xB0 => (s.modAsid a (fun x => { x with cntwin := keepFields v [(16, 13), (0, 12)] })).clearWindow v
    | _ => s

/-- A queue descriptor with one of its halves written. -/
def State.descriptorHalf (s : State) (off v : Nat) : Result :=
  let q := off / 16
  let d := (s.queue q).desc.toNat
  -- the half that is not written holds no 1 for STOPPED
  let n := if off % 16 = 0 then fld d 64 64 * 2 ^ 64 + v else v * 2 ^ 64 + setFld (fld d 0 64) 31 1 0
  orIgnored (execQueueDescriptorWrite q (BitVec.ofNat 128 n) s) s

/-- A command's code written to MCMD (R470): LOST is W1C; a code that names no command is a bad argument. -/
def State.writeMcmd (s : State) (v : Nat) : Result :=
  let s := if bit v 56 then s.modHost (fun h => { h with lost := false }) else s
  let arg := fun (k : Nat) => (s.host.margs.getD k 0)
  let n := fun (k : Nat) => (arg k).toNat
  let code := fld v 0 8
  if code = 0 then .next s
  else if s.host.busy.isSome then execServiceCommandLost s
  else match code with
    | 1 => execPageInval (n 0) (arg 1) (n 2) s
    | 2 => execPoolSet (n 0) (n 1) (n 2) s
    | 3 => execRoute (n 0) (n 1) (n 2) s
    | 4 => execSpareCore (n 0) (n 1) (n 2) s
    | 5 => execChanRemap (n 0) (n 1) s
    | 6 => execRelease (n 0) (n 1) s
    | _ => .next (s.begin_ code 1)

/-- REGISTER_WRITE: 8 bytes written at an offset of the management window. Where the window has an event of its own for the write,
it is that event; what the table of R469 does not place, log 10 places. -/
def execRegisterWrite (off : Nat) (v : BitVec 64) (s : State) : Result :=
  let n := v.toNat
  let h := fun (f : HostState → HostState) => Host.Outcome.next (s.modHost f)
  if off % 8 ≠ 0 ∨ s.host.stage < 6 then .next s
  else if off = 0x10 then h (fun x => { x with aperture := keepFields n [(0, 19)] })
  else if 0x100 ≤ off ∧ off < 0x500 then orIgnored (execMailboxMapWrite ((off - 0x100) / 8) v s) s
  else if off = 0x1000 then orIgnored (execGuardWrite v s) s
  else if off = 0x2000 then execCadenceWrite v s
  else if off = 0x2008 then .next (s.modLinks (fun l => { l with pkidx := fld n 0 10 }))
  else if off = 0x2010 then .next (s.modLinks (fun l => { l with rto := fld n 0 16 }))
  else if off = 0x2018 then .next (s.modLinks (fun l => { l with thresh := n }))
  else if 0x4000 ≤ off ∧ off < 0x4020 then
    let old := (List.range 32).map (fun k => s.host.nonce.getD k 0)
    let new := old.take (off - 0x4000) ++ natToBytes 8 n ++ old.drop (off - 0x4000 + 8)
    if off = 0x4018 then orIgnored (execAttestRequest new s) s else h (fun x => { x with nonce := new })
  else if off = 0x10000 then orIgnored (s.writeMcmd n) s
  else if 0x10008 ≤ off ∧ off ≤ 0x10020 then h (fun x => { x with margs := modAt (fun _ => v) ((off - 0x10008) / 8) x.margs })
  else if off = 0x11800 then orIgnored (execPraAnswer v s) s
  else if 0x20000 ≤ off ∧ off < 0x21000 then s.descriptorHalf (off - 0x20000) n
  else if 0x30000 ≤ off ∧ off < 0x38000 then
    let k := (off - 0x30000) / 8
    .next (s.setRoute (k / 4) (k % 4) (if bit n 7 then some (fld n 0 7) else none))
  else if 0x40000 ≤ off ∧ off < 0x44000 then
    let k := (off - 0x40000) / 64
    if off % 64 = 0 ∧ bit n 0 then orIgnored (execFaultRecordFree (k / 64) (k % 64) s) s else .next s
  else if 0x50000 ≤ off ∧ off < 0x60000 then orIgnored (execServiceCounterWrite ((off - 0x50000) / 8) v s) s
  else if 0x60000 ≤ off ∧ off < 0x60400 then
    let port := (off - 0x60000) / 0x100
    match off % 0x100 with
    | 0x20 => orIgnored (execEthTailWrite port false v s) s
    | 0x40 => orIgnored (execEthTailWrite port true v s) s
    | o => .next (s.ethWrite port o n)
  else if 0x100000 ≤ off ∧ off < 0x1100000 then .next (s.asidWrite ((off - 0x100000) / 4096) (off % 4096) n)
  else if 0x2000000 ≤ off ∧ off < 0x2200000 then orIgnored (execHostApertureAccess (off - 0x2000000) (natToBytes 8 n) true s) s
  else .next s

end Sys2Proof.Machine
end

