-- ==== Sys2Proof/Machine/Pace.lean ====
section
/-! DEFINITION. The paceline: records, `pdef`, `pace` and the stream unit's jobs (spec/07 R214-R221). -/
namespace Sys2Proof.Machine

/-! ### Records (R215, R216) -/

/-- A paceline record's 1,024 bits. -/
structure PaceRec where
  bits : Nat
  deriving DecidableEq, Repr

def PaceRec.nops (r : PaceRec) : Nat := fld r.bits 0 4
def PaceRec.wfmt (r : PaceRec) : Nat := fld r.bits 4 4
def PaceRec.sfmt (r : PaceRec) (k : Nat) : Nat := fld r.bits (8 + 4 * k) 4
def PaceRec.dfmt (r : PaceRec) : Nat := fld r.bits 20 4
def PaceRec.rm (r : PaceRec) : Nat := fld r.bits 24 3
def PaceRec.sat (r : PaceRec) : Bool := bit r.bits 27
def PaceRec.nsrc (r : PaceRec) : Nat := fld r.bits 28 2
def PaceRec.constant (r : PaceRec) (c : Nat) : Nat := fld r.bits (64 + 64 * c) (fmtBits r.wfmt)
def PaceRec.op (r : PaceRec) (j : Nat) : Nat := fld r.bits (320 + 32 * j) 32

/-- Operands of an operation code: how many of A, B, C it uses. -/
def opUses (opc : Nat) : Nat := if opc = 4 ∨ opc = 9 then 3 else if opc = 7 ∨ opc = 8 then 1 else 2

/-- Whether an op word below NOPS is in order. -/
def PaceRec.opOk (r : PaceRec) (w : Nat) : Bool :=
  let opc := fld w 0 8
  let used := opUses opc
  decide (1 ≤ opc) && decide (opc ≤ 9) && fld w 24 8 == 0 && fld w 11 1 == 0
  && (List.range 3).all (fun k =>
    let x := fld w (12 + 4 * k) 4
    if k < used then x != 7 && (decide (x ≥ 3) || decide (x < r.nsrc)) else x == 0)

/-- R216. The high 32 bits of an `.s` constant, which R215 says are zero, are not among its cases: a record with others is accepted and
they are not read (DESIGN CHOICE, log 31). -/
def PaceRec.valid (r : PaceRec) : Bool :=
  fld r.bits 576 448 == 0 && fld r.bits 30 34 == 0
  && decide (1 ≤ r.nops) && decide (r.nops ≤ 8) && (r.wfmt == 1 || r.wfmt == 2)
  && (List.range 3).all (fun k => if k < r.nsrc then decide (1 ≤ r.sfmt k) && decide (r.sfmt k ≤ 7) else r.sfmt k == 0)
  && decide (1 ≤ r.dfmt) && decide (r.dfmt ≤ 7) && decide (r.rm ≤ 4) && (r.rm != 4 || isNarrowFmt r.dfmt)
  && (List.range 8).all (fun j => if j < r.nops then r.opOk (r.op j) else r.op j == 0)

/-- What a `pdef` comes to in a participant: its record, a trap, a wait of its read. -/
inductive Pdef where
  | record (bs : List Byte) (s : State)
  | trap (cause val : Nat)
  | wait (w : ReadWait)

/-- `pdef` in a participant (R217, steps 1 to 3). -/
def State.pdefRead (s : State) (i : IssueCtx) (t : Thread) (va : Nat) : Pdef :=
  if va % 128 ≠ 0 then .trap Cause.misaligned va
  else match s.issueRead i.crew (s.asidOf t) va 128 with
    | (.trap c v, _) => .trap c v
    | (.wait w, _) => .wait w
    | (.bytes bs, s) => if (⟨bytesToNat bs⟩ : PaceRec).valid then .record bs s else .trap Cause.paceRecord 0

/-- `pdef` (R217). -/
def execPdef (d a : BitVec 6) (s : State) : Result :=
  let oa : Operand := .vv a s.pfx.ua
  let va := fun (i : IssueCtx) (t : Thread) => (oa.val t i.beforeQ).toNat
  let pre := fun (i : IssueCtx) (t : Thread) => operandVerdict i.beforeQ t [oa] []
  match s.ctl.issue with
  | none => .next s
  | some i =>
    let waits := if i.checked then [] else i.parts.filterMap (fun t =>
      if pre i t == .pass then (match s.pdefRead i t (va i t) with | .wait w => some (t, w) | _ => none) else none)
    match waits with
    | w :: _ => .next (s.waitIssue i w.1 w.2)
    | [] => issueWord s .eng
      (fun i t => (pre i t).andThen (match s.pdefRead i t (va i t) with
        | .trap c v => .trap c v
        | .wait _ => .hold
        | .record _ _ => .pass))
      (fun i ps s => ps.foldl (fun s t => match s.pdefRead i t (va i t) with
        | .record bs s => s.modTeam t.team (fun m => { m with pace := modAt (fun _ => some bs) d.toNat m.pace })
        | _ => s) s)

/-! ### `pace` (R218) -/

/-- Bytes that n elements of a format cover (R373). -/
def streamBytes (f n : Nat) : Nat := (fmtBits f * n + 7) / 8

/-- The record in a slot of a thread's team. -/
def State.paceSlot (s : State) (t : Thread) (slot : Nat) : Option (List Byte) := (s.team? t.team).bind (fun m => (m.pace[slot]?).join)

/-- The job that registers a to a + 4 hold in a thread. -/
def paceJob (i : IssueCtx) (a : BitVec 6) (t : Thread) (record : List Byte) (dst : Dst) : PaceJob :=
  let v := fun k => ((Operand.vv (a + BitVec.ofNat 6 k) false).val t i.beforeQ).toNat
  { record, count := fld (v 0) 0 40, bases := [v 1, v 2, v 3], out := v 4, dst }

/-- A job's record. -/
def PaceJob.rec_ (p : PaceJob) : PaceRec := ⟨bytesToNat p.record⟩

/-- A job's ranges in its address space: the used streams, read, and the output, written (R373). -/
def PaceJob.ranges (p : PaceJob) : List (Nat × Nat × Bool) :=
  let r := p.rec_
  ((List.range r.nsrc).map (fun k => (p.bases.getD k 0, streamBytes (r.sfmt k) p.count, false))
    ++ [(p.out, streamBytes r.dfmt p.count, true)]).filter (fun x => x.2.1 != 0)

/-- Steps 1 and 2 of R218, and R245 of what the job touches. -/
def PaceJob.verdict (p : PaceJob) : Verdict :=
  let r := p.rec_
  let size := fun f => max 1 (fmtBits f / 8)
  let used := (List.range r.nsrc).map (fun k => (p.bases.getD k 0, size (r.sfmt k))) ++ [(p.out, size r.dfmt)]
  let aligned := match used.find? (fun x => x.1 % x.2 != 0) with
    | some x => Verdict.trap Cause.misaligned x.1
    | none => .require (r.dfmt != 7 || p.count % 2 == 0) Cause.misaligned p.out
  let inside := match p.ranges.find? (fun x => !(decide (x.1 < 2 ^ 52) && inRange x.1 x.2.1)) with
    | some x => Verdict.trap Cause.addrRange x.1
    | none => .pass
  aligned.andThen inside

/-- Room for n jobs in the stream unit of a core (R218), and in the grid's task scheduler (R379). -/
def State.paceRoom (s : State) (t : Thread) (n : Nat) : Verdict :=
  let here := fun (j : Job) => j.word == 3 && (match s.team? j.team with | some m => m.place == s.placeOf t | none => false)
  let grid := match s.gridOf t with | some g => g.event | none => 0
  .await (decide ((s.jobs.filter here).length + n ≤ 64) && s.schedulerRoom grid n)

/-- `pace` (R218). -/
def execPace (d a : BitVec 6) (la : BitVec 4) (sb : BitVec 3) (s : State) : Result :=
  let od : Operand := .vv d false
  let oa : Operand := .run a 5
  let head := fun (i : IssueCtx) (t : Thread) => ((Operand.vv a false).val t i.beforeQ).toNat
  let record := fun (i : IssueCtx) (t : Thread) => s.paceSlot t (fld (head i t) 40 3)
  issueWord s .eng
    (fun i t =>
      let r := record i t
      let nsrc := match r with | some bs => (⟨bytesToNat bs⟩ : PaceRec).nsrc | none => 0
      let reads := (oa, 0, 6) :: (oa, 32, 8) :: (List.range nsrc).map (fun k => (oa, 8 + 8 * k, 8))
      ((s.slotVerdict t.id sb.toNat 1).andThen (fieldVerdict i.beforeQ t [od, oa] reads)).andThen
        (match r with
          | none => .trap Cause.paceRecord 0
          | some bs => (paceJob i a t bs (od.dst i t)).verdict.andThen (s.paceRoom t i.parts.length)))
    (fun i ps s => ps.foldl (fun s t => match s.paceSlot t (fld (head i t) 40 3) with
      | none => s
      | some bs =>
        let p := paceJob i a t bs (od.dst i t)
        let (jid, s) := s.newId
        let fid := s.ctl.nextId
        let s := s.launchFlight i [t.id] la.toNat (some sb.toNat) .eng (.pace p)
        s.acceptJob { id := jid, grid := (s.gridOf t).elim 0 (·.event), team := t.team, die := (s.placeOf t).die, word := 3, flight := some fid
                      dst := p.dst, step := i.beforeStep
                      foot := p.ranges.map (fun x => { level := 4, owner := s.asidOf t, base := x.1, len := x.2.1, write := x.2.2 }) }) s)

/-! ### The stream unit (R219, R220) -/

/-- One operation of a record on its operands, in the working format, with its flags (R219). -/
def paceOp (w opc a b c : Nat) : FpRes :=
  let v := fpDecode w
  let rnd := roundTo w 0 false 0
  match opc with
  | 1 => rnd (exactSum false [(v a).exact, (v b).exact])
  | 2 => rnd (exactSum false [(v a).exact, (v b).negate.exact])
  | 3 => rnd (fpMul (v a) (v b))
  | 4 => rnd (exactSum false [fpMul (v a) (v b), (v c).exact])
  | 5 => fpMinMax w false a b
  | 6 => fpMinMax w true a b
  | 7 => { bits := a % 2 ^ (fmtBits w - 1) }
  | 8 => { bits := a ^^^ 2 ^ (fmtBits w - 1) }
  | _ =>
    let m := fpMinMax w true a b
    let n := fpMinMax w false m.bits c
    { bits := n.bits, flags := m.flags.or n.flags }

/-- An operand of an op word: stream elements, constants, working values. -/
def PaceRec.operand (r : PaceRec) (elems working : List Nat) (x : Nat) : Nat :=
  if x < 3 then elems.getD x 0 else if x < 7 then r.constant (x - 3) else working.getD (x - 8) 0

/-- One element computed from its sources' elements: the output's bits and the flags. -/
def PaceRec.element (r : PaceRec) (sources : List Nat) : Nat × Flags :=
  let wide := (sources.zip (List.range r.nsrc)).map (fun x => convertElem r.wfmt (r.sfmt x.2) 0 false 0 x.1)
  let flags := wide.foldl (fun (f : Flags) x => f.or x.flags) {}
  let ops := (List.range r.nops).map r.op
  let out := ops.foldl (fun (acc : List Nat × Flags × Nat) op =>
    let get := fun k => r.operand (wide.map (·.bits)) acc.1 (fld op (12 + 4 * k) 4)
    let y := paceOp r.wfmt (fld op 0 8) (get 0) (get 1) (get 2)
    (modAt (fun _ => y.bits) (fld op 8 3) acc.1, acc.2.1.or y.flags, y.bits)) (List.replicate 8 0, flags, 0)
  let d := convertElem r.dfmt r.wfmt r.rm r.sat 0 out.2.2
  (d.bits, out.2.1.or d.flags)

/-- What a stream job has done: the state, the state it began with, the latest visibility time, flags, the first elements of the
units written, where it stops. -/
structure PaceRun where
  s : State
  before : State
  vt : Nat := 0
  flags : Flags := {}
  written : List Nat := []
  stop : Option (Nat × EngineStop) := none

/-- The place of element i of a stream: its first byte, its bytes, the bit its element begins at (R218, R79). -/
def elemPlace (f base i : Nat) : Nat × Nat × Nat := if f = 7 then (base + i / 2, 1, 4 * (i % 2)) else (base + i * (fmtBits f / 8), fmtBits f / 8, 0)

/-- Whether every byte of an output that lies in n bytes from va has been written by the job. -/
def PaceRun.whole (x : PaceRun) (p : PaceJob) (va n : Nat) : Bool :=
  let f := p.rec_.dfmt
  (List.range n).all (fun b => decide (va + b < p.out) || decide (p.out + streamBytes f p.count ≤ va + b)
    || x.written.contains (if f = 7 then 2 * (va + b - p.out) else (va + b - p.out) / (fmtBits f / 8)))

/-- Element i of source `src` read: the value before the job, or the present one where the job has written it whole, a free
choice (R221). -/
def PaceRun.readElem (x : PaceRun) (p : PaceJob) (asid src i : Nat) : Except EngineStop Nat × State :=
  let f := p.rec_.sfmt src
  let (va, n, lo) := elemPlace f (p.bases.getD src 0) i
  match x.s.engineRead asid va n with
  | (.error e, s) => (.error e, s)
  | (.ok bs, s) =>
    let old := match (x.before.engineRead asid va n).1 with | .ok o => o | .error _ => bs
    (.ok (fld (bytesToNat (if Config.overlapOld s.ctl.fresh (3 * i + src) va || !x.whole p va n then old else bs)) lo (fmtBits f)), s)

/-- Elements k to k + n - 1, whole: an element, or the two that share a byte of `.f4`. -/
def PaceRun.unit (x : PaceRun) (p : PaceJob) (asid step n k : Nat) : PaceRun :=
  let r := p.rec_
  if beyondStop x.stop k then x
  else
    let read := fun (acc : Except EngineStop (List Nat) × State) (j : Nat × Nat) => match acc with
      | (.error e, s) => (.error e, s)
      | (.ok l, s) => match ({ x with s } : PaceRun).readElem p asid j.1 j.2 with
        | (.error e, s) => (.error e, s)
        | (.ok v, s) => (.ok (l ++ [v]), s)
    let js := (List.range n).flatMap (fun e => (List.range r.nsrc).map (fun src => (src, k + e)))
    match js.foldl read (.ok [], x.s) with
    | (.error e, _) => { x with stop := some (k, e) }
    | (.ok vs, s) =>
      let outs := (List.range n).map (fun e => r.element ((vs.drop (e * r.nsrc)).take r.nsrc))
      let bits := pack (fmtBits r.dfmt) (outs.map (·.1))
      -- an element that has been computed gives its flags, whether or not its store faults
      let flags := outs.foldl (fun (f : Flags) o => f.or o.2) x.flags
      match s.engineWrite asid step (elemPlace r.dfmt p.out k).1 (natToBytes (streamBytes r.dfmt n) bits) with
      | (.error e, _) => { x with stop := some (k, e), flags }
      | (.ok vt, s) => { x with s, vt := max x.vt vt, written := k :: x.written, flags }

/-- A stream job's elements in a free order. The lowest that stops is where the job stops: every element below it is written, and of
those beyond it the ones whose turn came before (R220, R221). -/
def State.runPace (s : State) (p : PaceJob) (asid step : Nat) : PaceRun :=
  let n := if p.rec_.dfmt = 7 then 2 else 1
  let ks := (List.range ((p.count + n - 1) / n)).map (· * n)
  (unitOrder s.ctl.fresh ks).foldl (fun (x : PaceRun) k => x.unit p asid step n k) ({ s, before := s } : PaceRun)

/-- The stream job leaves the scheduler with its status (R220). -/
def State.endPace (s : State) (f : Flight) (j : Job) (x : PaceRun) (err done : Nat) : State :=
  let status := err * 2 ^ 62 + x.flags.bits.toNat * 2 ^ 56 + done % 2 ^ 40
  let s := { s with jobs := s.jobs.filter (fun y => y.id != j.id) }
  s.landStatus j f status x.vt false none

/-- PACE_JOB_COMPLETE (R220). -/
def execPaceJobComplete (fid : Nat) (s : State) : Result :=
  match s.flight? fid, s.jobs.find? (fun j => j.flight == some fid) with
  | some f, some j => match f.kind with
    | .pace p =>
      if s.jobHeld j then notNow "PACE_JOB_COMPLETE"
      else
        let asid := s.teamAsid j.team
        let x := s.runPace p asid f.step
        match x.stop with
        | none => .next (x.s.useFresh.endPace f j x 0 p.count)
        | some (k, e) => match s.stopCause asid e none j.id, e with
          | some (c, va), _ =>
            let s := x.s.useFresh.takeRefusal j.id asid va
            .next ((if c = 0x2D then s.poolBadRecord f else s).endPace f j x 1 k)
          | none, .demand va write =>
            if (s.request? asid va).any (fun r => r.engines.contains j.id) then notNow "PACE_JOB_COMPLETE"
            else .next (s.engineDemand asid va write none j.id)
          | none, e => match s.holdEngine e (some j.grid) with | some s => .next s | none => notNow "PACE_JOB_COMPLETE"
    | _ => notNow "PACE_JOB_COMPLETE"
  | _, _ => notNow "PACE_JOB_COMPLETE"

end Sys2Proof.Machine
end

