-- ==== Sys2Proof/Machine/Rays.lean ====
section
/-! DEFINITION. Rays: nodes and leaf records, exact box and triangle tests, traversal, the ray words, ray generation and field
marching (spec/15 R400-R410). -/
namespace Sys2Proof.Machine

/-! ### Exact geometry -/

/-- A finite FP32 value as a rational number. -/
def ratOf (bits : Nat) : Option Rat :=
  (finOf (v32 bits)).map (fun x => if x.2 ≥ 0 then ((x.1 * 2 ^ x.2.toNat : Int) : Rat) else mkRat x.1 (2 ^ (-x.2).toNat))

/-- A rational rounded to FP32, nearest-even. -/
def ratBits (r : Rat) : Nat := if r.num = 0 then 0 else r32 (exactQuot (decide (r.num < 0)) r.num.natAbs 0 r.den 0)

/-- Three components, all finite. -/
def ratVec (l : List Nat) : Option (List Rat) := l.mapM ratOf

def vecSub (a b : List Rat) : List Rat := (a.zip b).map (fun x => x.1 - x.2)
def vecDot (a b : List Rat) : Rat := (a.zip b).foldl (fun n x => n + x.1 * x.2) 0
def vecCross (a b : List Rat) : List Rat :=
  let g := fun (l : List Rat) k => l.getD k 0
  [g a 1 * g b 2 - g a 2 * g b 1, g a 2 * g b 0 - g a 0 * g b 2, g a 0 * g b 1 - g a 1 * g b 0]

/-- Where the segment [tmin, tmax] of a ray enters a closed box, if it meets it (R403); a zero direction meets nothing
(R404). -/
def boxEntry (o d lo hi : List Rat) (tmin tmax : Rat) : Option Rat :=
  let axis := fun (acc : Option (Rat × Rat)) (x : (Rat × Rat) × (Rat × Rat)) => match acc with
    | none => none
    | some (a, b) =>
      let ((o, d), (lo, hi)) := x
      if d = 0 then (if lo ≤ o ∧ o ≤ hi then some (a, b) else none)
      else
        let t1 := (lo - o) / d
        let t2 := (hi - o) / d
        let a := max a (min t1 t2)
        let b := min b (max t1 t2)
        if a ≤ b then some (a, b) else none
  if d.all (fun x => decide (x = 0)) then none
  else match ((o.zip d).zip (lo.zip hi)).foldl axis (if tmin ≤ tmax then some (tmin, tmax) else none) with
    | some (a, _) => some a
    | none => none

/-- A triangle's hit: t, u, v and whether it faces the ray (R404). -/
structure TriHit where
  t : Nat
  u : Nat
  v : Nat
  front : Bool
  deriving DecidableEq, Repr

/-- The exact triangle test (R404). -/
def triangleTest (o d v0 v1 v2 : List Rat) (tmin : Rat) : Option TriHit :=
  let e1 := vecSub v1 v0
  let e2 := vecSub v2 v0
  let p := vecCross d e2
  let det := vecDot e1 p
  if det = 0 then none
  else
    let tv := vecSub o v0
    let q := vecCross tv e1
    let u := vecDot tv p / det
    let v := vecDot d q / det
    let t := vecDot e2 q / det
    if 0 ≤ u ∧ 0 ≤ v ∧ u + v ≤ 1 ∧ tmin ≤ t then
      some { t := ratBits t, u := ratBits u, v := ratBits v, front := decide (vecDot (vecCross e1 e2) d < 0) }
    else none

/-! ### The ray's operands and area (R402, R405) -/

/-- Half k of the ray's operand registers as FP32: origin 0-2, tmin 3, direction 4-6, tmax 7. -/
def RayState.part (r : RayState) (k : Nat) : Nat := fld ((r.regs.getD (k / 2) 0).toNat) (32 * (k % 2)) 32
def RayState.flags (r : RayState) : Nat := (r.regs.getD 4 0).toNat
def RayState.root (r : RayState) : Nat := fld r.flags 0 52
def RayState.mask (r : RayState) : Nat := fld r.flags 52 8
def RayState.allOpaque (r : RayState) : Bool := bit r.flags 60
def RayState.endFirst (r : RayState) : Bool := bit r.flags 61

/-- A hit record's 256 bits from its fields (R402). -/
def hitRecord (front : Bool) (kind status inst geom prim v u t : Nat) : Nat :=
  front.toNat * 2 ^ 208 + kind * 2 ^ 200 + status * 2 ^ 192 + inst * 2 ^ 160 + geom * 2 ^ 128 + prim * 2 ^ 96 + v * 2 ^ 64 + u * 2 ^ 32 + t

/-- The committed record stands at byte 64 of the area, the candidate at 96. -/
def committedAt : Nat := 64
def candidateAt : Nat := 96

/-- A hit record of a thread's ray as its area holds it. -/
def State.hit? (s : State) (tid : Nat) (r : RayState) (at_ : Nat) : Nat := (s.scr 3 tid).bytes.readNat (r.area + at_) 32
/-- Bytes of a ray's area written. -/
def State.putArea (s : State) (tid : Nat) (r : RayState) (off : Nat) (bs : List Byte) : State :=
  s.modScr 3 tid (·.store (r.area + off) bs)
/-- A hit record written. -/
def State.putHit (s : State) (tid : Nat) (r : RayState) (at_ bits : Nat) : State := s.putArea tid r at_ (natToBytes 32 bits)

/-- The part's own bytes of an area hold what it pleases (R402): a free value. -/
def State.partBytes (s : State) (tid : Nat) (r : RayState) : State :=
  let k := s.ctl.fresh
  let own := fun (off n : Nat) => (List.range n).map (fun j => Config.partByte (k + off + j))
  ((s.useFresh.putArea tid r 24 (own 24 40)).putArea tid r 128 (own 128 384))

/-- An area without its hit records. -/
def State.areaOwn (s : State) (tid : Nat) (r : RayState) : List Byte :=
  (s.scr 3 tid).bytes.readN r.area 64 ++ (s.scr 3 tid).bytes.readN (r.area + 128) 384

/-- A thread's ray as the part leaves it, with its area. -/
def State.keepRay (s : State) (tid : Nat) (r : RayState) : State :=
  s.modThread tid (fun t => { t with ray := some { r with image := s.areaOwn tid r } })

/-- A ray begun (R402, R405): the records at their reset values. -/
def State.startRay (s : State) (tid : Nat) (r : RayState) : State :=
  let fresh := hitRecord false 0 4 0xFFFFFFFF 0 0 0 0 (r.part 7)
  (((s.putHit tid r committedAt fresh).putHit tid r candidateAt fresh).partBytes tid r).keepRay tid r

/-- STATUS of the committed record set: the ray has ended (R402). -/
def State.endRay (s : State) (tid : Nat) (r : RayState) (status : Nat) : RayState × State :=
  let r := { r with live := false, event := 0, current := none, stack := [] }
  (r, s.putArea tid r (committedAt + 24) [BitVec.ofNat 8 status])

/-- Whether a candidate passes (R404): its T below the committed one's, or equal with a lower key. -/
def hitPasses (committed candidate : Nat) : Bool :=
  let t := fun h => v32 (fld h 0 32)
  let key := fun h => fld h 160 32 * 2 ^ 64 + fld h 128 32 * 2 ^ 32 + fld h 96 32
  fpLess (t candidate) (t committed) || (fpEqual (t candidate) (t committed) && decide (key candidate < key committed))

/-- A hit committed: STATUS stays the committed record's own. -/
def State.commitHit (s : State) (tid : Nat) (r : RayState) (hit : Nat) : State :=
  s.putHit tid r committedAt (setFld hit 192 8 (fld (s.hit? tid r committedAt) 192 8))

/-! ### Nodes (R400, R401) -/

/-- Child i of an inner node: its quantized box, its work. -/
structure Child where
  lo : List Nat
  hi : List Nat
  info : Nat
  deriving DecidableEq, Repr

/-- The children that a node has. -/
def nodeChildren (node : Nat) : List Child :=
  ((List.range 8).filter (fun i => bit node (120 + i))).map (fun i =>
    { lo := (List.range 3).map (fun k => fld node (512 + 48 * i + 8 * k) 8)
      hi := (List.range 3).map (fun k => fld node (512 + 48 * i + 24 + 8 * k) 8)
      info := fld node (256 + 32 * i) 32 })

/-- BAD_NODE for an inner node (R401). -/
def nodeOk (node : Nat) : Bool :=
  fld node 896 128 == 0
  && (nodeChildren node).all (fun c => (c.lo.zip c.hi).all (fun x => decide (x.1 ≤ x.2))
    && ((fld c.info 30 2 != 0 && fld c.info 30 2 != 3) || fld c.info 26 4 == 0))

/-- A child's box: ORIGIN + q 2^EXP on each axis (R400); none where ORIGIN is not finite. -/
def childBox (node : Nat) (q : List Nat) : Option (List Rat) :=
  ((List.range 3).zip q).mapM (fun x => (ratOf (fld node (32 * x.1) 32)).map (fun o =>
    let e := toSigned 8 (fld node (96 + 8 * x.1) 8)
    o + (if e ≥ 0 then ((x.2 * 2 ^ e.toNat : Nat) : Rat) else mkRat x.2 (2 ^ (-e).toNat))))

/-- A child as work. -/
def Child.work (c : Child) (node inst : Nat) : RayWork :=
  let ty := fld c.info 30 2
  let ix := fld c.info 0 26
  if ty = 0 then { kind := 0, addr := fld node 128 64 + 128 * ix, count := 1, inst }
  else { kind := ty, addr := fld node 192 64 + 64 * ix, count := fld c.info 26 4 + 1, inst }

/-- The space that work lies in. -/
def RayState.space (r : RayState) (k : Nat) : RaySpace := r.spaces.getD k ⟨[], [], 0, false⟩

/-- A test whose exact value the inputs do not give, because one is not finite: a free choice, drawn with a number. -/
def freeTest (k : Nat) : Bool := Config.pick k % 2 == 1

/-- The children that the ray meets, nearest entry first, ties by index (R403). -/
def metChildren (r : RayState) (sp : RaySpace) (inst node committedT fresh : Nat) : List RayWork :=
  let tmin := (ratOf (r.part 3)).getD 0
  let tmax := (ratOf committedT).getD 0
  let entry := fun (x : Child × Nat) => match ratVec sp.origin, ratVec sp.dir, childBox node x.1.lo, childBox node x.1.hi with
    | some o, some d, some lo, some hi => boxEntry o d lo hi tmin tmax
    | _, _, _, _ => if freeTest (fresh + x.2) then some tmin else none
  let cs := nodeChildren node
  let met := (cs.zip (List.range cs.length)).filterMap (fun x => (entry x).map (fun t => (t, x.1.work node inst)))
  (met.foldl (fun acc x => insertRay x acc) []).map (·.2)
where
  /-- A child put behind those that the ray enters no later. -/
  insertRay (x : Rat × RayWork) : List (Rat × RayWork) → List (Rat × RayWork)
  | [] => [x]
  | y :: ys => if x.1 < y.1 then x :: y :: ys else y :: insertRay x ys

/-! ### Leaf records (R401, R404) -/

/-- Component k of a record's FP32 values. -/
def recF (rec_ k : Nat) : Nat := fld rec_ (32 * k) 32

/-- A triangle record in order. -/
def triOk (rec_ : Nat) : Bool := fld rec_ 352 160 == 0 && fld rec_ 345 7 == 0
/-- A procedural record in order. -/
def procOk (rec_ : Nat) : Bool := fld rec_ 256 256 == 0 && fld rec_ 249 7 == 0
/-- An instance record in order. -/
def instOk (rec_ : Nat) : Bool := fld rec_ 489 23 == 0

/-- A triangle against the ray: the candidate record. -/
def triCandidate (r : RayState) (sp : RaySpace) (rec_ fresh : Nat) : Option Nat :=
  let vec := fun k => ratVec [recF rec_ k, recF rec_ (k + 1), recF rec_ (k + 2)]
  let rec8 := fun (h : TriHit) => hitRecord h.front 1 4 sp.id (recF rec_ 10) (recF rec_ 9) h.v h.u h.t
  match ratVec sp.origin, ratVec sp.dir, vec 0, vec 3, vec 6, ratOf (r.part 3) with
  | some o, some d, some a, some b, some c, some tmin => (triangleTest o d a b c tmin).map rec8
  | _, _, _, _, _, _ =>
    -- a vertex that is not finite: the spec states no result, so whether it hits and where are free
    if freeTest fresh then some (rec8 { t := Config.pick (fresh + 1) % 2 ^ 31, u := Config.pick (fresh + 2) % 2 ^ 31, v := Config.pick (fresh + 3) % 2 ^ 31, front := freeTest (fresh + 4) })
    else none

/-- A procedural box against the ray: the candidate record (R405). -/
def procCandidate (r : RayState) (sp : RaySpace) (rec_ committedT fresh : Nat) : Option Nat :=
  let vec := fun k => ratVec [recF rec_ k, recF rec_ (k + 1), recF rec_ (k + 2)]
  let rec8 := fun (t : Nat) => hitRecord false 2 4 sp.id (recF rec_ 7) (recF rec_ 6) 0 0 t
  match ratVec sp.origin, ratVec sp.dir, vec 0, vec 3, ratOf (r.part 3), ratOf committedT with
  | some o, some d, some lo, some hi, some tmin, some tmax => (boxEntry o d lo hi tmin tmax).map (fun t => rec8 (ratBits t))
  | _, _, _, _, _, _ => if freeTest fresh then some (rec8 (Config.pick (fresh + 1) % 2 ^ 31)) else none

/-- An instance's space: origin and direction rounded once (R401). -/
def instSpace (world : RaySpace) (rec_ : Nat) : RaySpace :=
  let row := fun (k : Nat) (v : List Nat) (shift : Bool) =>
    r32 (exactSum false ((List.range 3).map (fun j => fpMul (v32 (recF rec_ (4 * k + j))) (v32 (v.getD j 0)))
      ++ (if shift then [(v32 (recF rec_ (4 * k + 3))).exact] else [])))
  { origin := (List.range 3).map (fun k => row k world.origin true), dir := (List.range 3).map (fun k => row k world.dir false)
    id := recF rec_ 14, opaque_ := bit rec_ 488 }

/-! ### Traversal (R403-R405) -/

/-- What a ray has come to. -/
inductive RayOut where
  | more (r : RayState)
  | event (r : RayState) (k : Nat)
  | stop (e : EngineStop)

/-- The record after one of a leaf. -/
def RayWork.rest (w : RayWork) : Option RayWork := if w.count ≤ 1 then none else some { w with addr := w.addr + 64, count := w.count - 1 }

/-- The ray ends. -/
def State.rayDone (s : State) (tid : Nat) (r : RayState) (status : Nat) : RayOut × State :=
  let (r, s) := s.endRay tid r status
  (.event r 0, s)

/-- A candidate is offered to the thread: its record and the object-space ray are in the area (R402, R405). -/
def State.offer (s : State) (tid : Nat) (r : RayState) (sp : RaySpace) (candidate k : Nat) : RayOut × State :=
  let s := (s.putHit tid r candidateAt candidate).partBytes tid r
  let s := s.putArea tid r 0 (natToBytes 24 (pack 32 (sp.origin ++ sp.dir)))
  (.event { r with event := k, passing := k == 1 } k, s)

/-- One piece of the ray's work: a node, a leaf record, or the next from the stack. -/
def State.rayWork (s : State) (tid : Nat) (u : Reader) (r : RayState) : RayOut × State :=
  match r.current with
  | none => match r.stack with
    | [] => s.rayDone tid r 0
    | w :: ws => (.more { r with current := some w, stack := ws }, s)
  | some w =>
    match s.unitRead u w.addr (if w.kind = 0 then 128 else 64) with
    | (.error (.fault c _), s) => (.stop (.fault c w.addr), s)
    | (.error e, s) => (.stop e, s)
    | (.ok bs, s) =>
      let bits := bytesToNat bs
      let sp := r.space w.inst
      let fresh := s.ctl.fresh
      let s := s.modCtl (fun c => { c with fresh := c.fresh + 8 })
      let committed := s.hit? tid r committedAt
      let next := { r with current := w.rest }
      match w.kind with
      | 0 =>
        if !nodeOk bits then s.rayDone tid r 2
        else match metChildren r sp w.inst bits (fld committed 0 32) fresh with
          | [] => (.more { r with current := none }, s)
          | c :: cs => if r.stack.length + cs.length > 64 then s.rayDone tid r 1 else (.more { r with current := some c, stack := cs ++ r.stack }, s)
      | 1 =>
        if !triOk bits then s.rayDone tid r 2
        else match triCandidate r sp bits fresh with
          | none => (.more next, s)
          | some h =>
            if !hitPasses committed h then (.more next, s)
            else if r.allOpaque || sp.opaque_ || bit bits 344 then
              let s := s.commitHit tid r h
              if r.endFirst then s.rayDone tid r 0 else (.more next, s)
            else s.offer tid next sp h 1
      | 2 =>
        if !procOk bits then s.rayDone tid r 2
        else match procCandidate r sp bits (fld committed 0 32) fresh with
          | none => (.more next, s)
          | some h => s.offer tid next sp h 2
      | _ =>
        if !instOk bits || w.inst ≠ 0 then s.rayDone tid r 2
        else if fld bits 480 8 &&& r.mask = 0 then (.more next, s)
        else (.more { r with current := some { kind := 0, addr := fld bits 384 64, count := 1, inst := r.spaces.length }
                             spaces := r.spaces ++ [instSpace sp bits] }, s)

/-- Work until an event, a stop, or as much as one occurrence of the event does. -/
def State.rayRun (tid : Nat) (u : Reader) : Nat → RayState → State → RayOut × State
  | 0, r, s => (.more r, s)
  | n + 1, r, s => match s.rayWork tid u r with
    | (.more r, s) => State.rayRun tid u n r (s.modThread tid (fun t => { t with ray := some r }))
    | x => x

/-- A ray's first work (R404): a bad ray ends at once. -/
def State.rayBegin (s : State) (tid : Nat) (r : RayState) : RayOut × State :=
  let bad := (List.range 8).any (fun k => badF32 (r.part k)) || fpLess (v32 (r.part 7)) (v32 (r.part 3))
  if bad then s.rayDone tid r 3 else (.more r, s)

/-- A ray whose area software has written (R402): the object-space ray as the bytes give it while an event is outstanding; where the part's
own bytes have been written, a free course. -/
def State.rayStray (s : State) (tid : Nat) (r : RayState) : RayOut × State :=
  let now := s.areaOwn tid r
  let k := s.ctl.fresh
  let words := (List.range 6).map (fun j => bytesToNat ((now.drop (4 * j)).take 4))
  let space := match r.current, r.stack with | some w, _ => w.inst | none, w :: _ => w.inst | none, [] => 0
  let r := if r.event = 0 || now.take 24 == r.image.take 24 then r
    else { r with spaces := modAt (fun sp => { sp with origin := words.take 3, dir := words.drop 3 }) space r.spaces }
  if now.drop 24 == r.image.drop 24 then (.more r, s)
  else
    let s := s.useFresh
    let way := Config.strayRay k
    if way = 0 then (.more r, s)
    else if way ≤ 4 then s.rayDone tid r (way - 1)
    else
      let work := (List.range (way % 65)).map (fun j =>
        let x := Config.strayWork k j
        ({ kind := x.1 % 4, addr := x.2.1 % 2 ^ 64, count := x.2.2.1 % 16 + 1, inst := x.2.2.2 % 2 ^ 32 } : RayWork))
      (.more { r with current := none, stack := work }, s)

/-- The thread's decision on the outstanding event (R405). -/
def State.rayDecide (s : State) (tid : Nat) (r : RayState) (k : Nat) : RayOut × State :=
  let commit := (k == 1 || k == 2) && r.passing
  let s := if commit then s.commitHit tid r (s.hit? tid r candidateAt) else s
  let r := { r with event := 0, passing := false }
  if k ≥ 2 || (commit && r.endFirst) then s.rayDone tid r 0 else (.more r, s)

/-- RAY_EVENT (R405): traversal runs to its next event; a fetch that faults leaves the ray where it stands (R407). -/
def execRayEvent (fid : Nat) (s : State) : Result :=
  match s.flight? fid with
  | none => notNow "RAY_EVENT"
  | some f => match f.kind, f.stage, f.tids.head?.bind s.thread? with
    | .ray next dst, .start, some t => match t.ray with
      | none => notNow "RAY_EVENT"
      | some r =>
        if s.unitWaits f then notNow "RAY_EVENT" else
        let asid := s.asidOf t
        let begun : RayOut × State := match s.rayStray t.id r, next with
          | (.more r, s), some k => s.rayDecide t.id r k
          | (.more r, s), none => if r.live && r.stack.isEmpty && r.spaces.length == 1 && r.current == some { kind := 0, addr := r.root, count := 1, inst := 0 }
              then s.rayBegin t.id r else (.more r, s)
          | x, _ => x
        let keep := fun (r : RayState) (s : State) => s.keepRay t.id r
        let go : RayOut × State := match begun with
          | (.more r, s) => State.rayRun t.id (s.readerOf t) 4096 r ((keep r s).modFlight fid (fun f => { f with kind := .ray none dst }))
          | x => x
        match go with
        | (.more r, s) => .next (keep r s)
        | (.event r k, s) => .next (((keep r s).land64 t.id dst (BitVec.ofNat 64 k)).completeFlight f)
        | (.stop .poolBad, s) => .next (s.poolBad f)
        | (.stop e, s) => s.engineStop asid e fid "RAY_EVENT" (fun c va s => s.stage fid (.faulted c va))
    | _, _, _ => notNow "RAY_EVENT"

/-! ### Ray words (R405, R406) -/

/-- Whether a word in flight is an `rt` or `rnext` (R405). -/
def Flight.isRay (f : Flight) : Bool := match f.kind with | .ray _ _ => true | _ => false

/-- No `rt` or `rnext` of a thread is outstanding, in either context. -/
def State.rayFree (s : State) (tid : Nat) : Bool := !(s.flightsOf tid).any Flight.isRay

/-- An `rt` or `rnext` waits for an earlier one of its thread (R405); a fault of one is taken here (R296). -/
def State.rayTurn (s : State) (tid : Nat) : Verdict := (s.waitFor tid Flight.isRay).andThen (.await (s.rayFree tid))

/-- The ray that the registers of an `rt` start. -/
def rayOf (regs : List W64) : RayState :=
  let r : RayState := { regs, area := fld (regs.getD 5 0).toNat 0 32 }
  { r with current := some { kind := 0, addr := r.root, count := 1, inst := 0 }
           spaces := [{ origin := [r.part 0, r.part 1, r.part 2], dir := [r.part 4, r.part 5, r.part 6], id := 0xFFFFFFFF, opaque_ := false }] }

/-- n registers of an operand. -/
def Operand.regs (o : Operand) (t : Thread) (q : QCopy) (n : Nat) : List W64 :=
  (List.range n).map (fun k => BitVec.ofNat 64 (bytesToNat (((o.bytes t q).drop (8 * k)).take 8)))

/-- `rt` (R405). -/
def execRt (d a : BitVec 6) (la : BitVec 4) (sb : BitVec 3) (s : State) : Result :=
  let od : Operand := .vv d false
  let oa : Operand := .run a 6
  let ray := fun (i : IssueCtx) (t : Thread) => rayOf (oa.regs t i.beforeQ 6)
  issueWord s .gfx
    (fun i t =>
      let r := ray i t
      ((((s.slotVerdict t.id sb.toNat 1).andThen (s.rayTurn t.id)).andThen
        (fieldVerdict i.beforeQ t [od, oa] [(oa, 0, 40), (oa, 40, 4)])).andThen
        (.require (fld r.flags 62 2 == 0) Cause.illegalOp i.bits.toNat)).andThen
        (((Verdict.require (r.area % 128 == 0) Cause.misaligned r.area).andThen (.require (r.root % 128 == 0) Cause.misaligned r.root)).andThen
          (.require (decide (r.area + 512 ≤ t.priv.size)) Cause.scratchRange r.area)))
    (fun i ps s => ps.foldl (fun s t =>
      (s.startRay t.id (ray i t)).launchFlight i [t.id] la.toNat (some sb.toNat) .gfx (.ray none (od.dst i t))) s)

/-- What stands open of a thread's ray: R405's event code, or 0. -/
def Thread.rayEvent (t : Thread) : Nat := match t.ray with | some r => r.event | none => 0

/-- A live ray with no event and no word outstanding stands where a fault left it (R407). -/
def Thread.rayPaused (t : Thread) : Bool := match t.ray with | some r => r.live && r.event == 0 | none => false

/-- `rnext` (R405, R407): the decision on the outstanding event; of a ray left at a fault, 3 ends it and the others resume it. -/
def execRnext (d a : BitVec 6) (la : BitVec 4) (sb : BitVec 3) (s : State) : Result :=
  let od : Operand := .vv d false
  let oa : Operand := .vv a false
  let decision := fun (i : IssueCtx) (t : Thread) =>
    let k := fld (oa.val t i.beforeQ).toNat 0 2
    if t.rayEvent = 0 ∧ k ≠ 3 then 0 else k
  issueWord s .gfx
    (fun i t => (((s.slotVerdict t.id sb.toNat 1).andThen (s.rayTurn t.id)).andThen
      (partialVerdict i.beforeQ t [od, oa] [(oa, 1)])).andThen (.require (t.rayEvent != 0 || t.rayPaused) Cause.rayState 0))
    (fun i ps s => ps.foldl (fun s t =>
      s.launchFlight i [t.id] la.toNat (some sb.toNat) .gfx (.ray (some (decision i t)) (od.dst i t))) s)

/-- Field k of a hit record (R406). -/
def hitField (h k : Nat) : Nat :=
  match k with
  | 6 => fld h 192 64
  | 7 => fld h 32 64
  | _ => fld h (32 * k) 32

/-- A report of the candidate (R406): where it passes, the candidate takes it and is passing. -/
def State.reportHit (s : State) (tid t attr : Nat) : State :=
  match (s.thread? tid).bind (·.ray) with
  | none => s
  | some r =>
    let h := setFld (setFld (s.hit? tid r candidateAt) 0 32 t) 32 64 attr
    if (v32 t).isNaN || fpLess (v32 t) (v32 (r.part 3)) || !hitPasses (s.hit? tid r committedAt) h then s
    else (s.putHit tid r candidateAt h).modThread tid (fun x => { x with ray := some { r with passing := true } })

/-- `rhit` (R406). -/
def execRhit (d a b : BitVec 6) (m : BitVec 2) (s : State) : Result :=
  let od : Operand := .vv d false
  let oa : Operand := .vv a false
  let ob : Operand := .vv b false
  issueWord s .gfx
    (fun i t =>
      if m = 2 then (partialVerdict i.beforeQ t [oa, ob] [(oa, 4), (ob, 8)]).andThen
        (.require (t.rayEvent == 2 && s.rayFree t.id) Cause.rayState 0)
      else (partialVerdict i.beforeQ t [od] []).andThen (.require t.ray.isSome Cause.rayState 0))
    (fun i ps s => ps.foldl (fun s t => match t.ray with
      | none => s
      | some r =>
        if m = 2 then s.reportHit t.id (fld (oa.val t i.beforeQ).toNat 0 32) (ob.val t i.beforeQ).toNat
        else
          s.land64 t.id (od.dst i t) (BitVec.ofNat 64 (hitField (s.hit? t.id r (if m = 0 then committedAt else candidateAt)) b.toNat))) s)

/-! ### Ray generation (R408) -/

/-- One round of the hash. -/
def hashMix (x : W64) (k : W64) : W64 := (x ^^^ (x >>> 33)) * k

/-- u[j] of a pixel key and a sample index, in units of 2^-24. -/
def rgenDraw (a b : W64) (j : Nat) : Nat :=
  let x := a * 0x9E3779B97F4A7C15 + b * 0xC2B2AE3D27D4EB4F + BitVec.ofNat 64 j
  let x := hashMix (hashMix x 0xFF51AFD7ED558CCD) 0xC4CEB9FE1A85EC53
  fld (x ^^^ (x >>> 33)).toNat 40 24

/-- A draw as FP32. -/
def drawBits (u : Nat) : Nat := r32 (.num false u (-24) false)

/-- 2 pi to 240 bits below the point, rounded down. -/
def twoPi : Nat := 0x6487ed5110b4611a62633145c06e0e68948127044533e63a0105df531d89c

/-- 2 pi u rounded to FP32. -/
def phiBits (u : Nat) : Nat := if u = 0 then 0 else r32 (.num false (u * twoPi) (-264) true)

/-- What `rgen` writes (R408); `time` is `cr.rgtime`. -/
def rgenValue (m : Nat) (a b : W64) (time : Nat) : Nat :=
  let u := rgenDraw a b
  match m with
  | 0 => drawBits (u 1) * 2 ^ 32 + drawBits (u 0)
  | 1 =>
    let r := v32 (sqrtR (v32 (drawBits (u 2))))
    let part := fun (op : Nat) => r32 (fpMul r (v32 (sfuElem op 2 (phiBits (u 3)) 0).bits))
    part 6 * 2 ^ 32 + part 7
  | _ => (if fpLess (v32 (drawBits (u 4))) (v32 (fld time 32 32)) then fld time 0 4 else fld time 4 4) * 2 ^ 56 + drawBits (u 4)

/-- `rgen` (R408). -/
def execRgen (d a b : BitVec 6) (m : BitVec 2) (s : State) : Result :=
  let od : Operand := .vv d false
  let oa : Operand := .vv a false
  let ob : Operand := .vv b false
  issueWord s .gfx (fun i t => operandVerdict i.beforeQ t [oa, ob] [od])
    (fun i ps s => ps.foldl (fun s t =>
      let time := i.beforeRegs.rgtime.toNat
      s.land64 t.id (od.dst i t) (BitVec.ofNat 64 (rgenValue m.toNat (oa.val t i.beforeQ) (ob.val t i.beforeQ) time))) s)

/-! ### Field marching (R409, R410) -/

/-- A field descriptor's 512 bits. -/
structure FieldDesc where
  bits : Nat
  deriving DecidableEq, Repr

def FieldDesc.base (f : FieldDesc) : Nat := fld f.bits 0 64
def FieldDesc.size (f : FieldDesc) (axis : Nat) : Nat := fld f.bits (64 + 16 * axis) 16
def FieldDesc.table (f : FieldDesc) : Nat := fld f.bits 128 64
def FieldDesc.tfmin (f : FieldDesc) : FpVal := v32 (fld f.bits 192 32)
def FieldDesc.tfscale (f : FieldDesc) : FpVal := v32 (fld f.bits 224 32)
def FieldDesc.tend (f : FieldDesc) : FpVal := v32 (fld f.bits 256 32)

/-- R409; the reserved fields are ignored (R7). -/
def FieldDesc.valid (f : FieldDesc) (va : Nat) : Bool :=
  va % 64 == 0 && (List.range 3).all (fun k => decide (2 ≤ f.size k))
  && f.table % 16 == 0 && f.base % 4 == 0

/-- lerp of R410, rounded once. -/
def lerp (a b f : FpVal) : FpVal := v32 (r32 (addV [mulV (addV [cV 1 0, f.negate]) a, mulV f b]).exact)

/-- Where a sample lies on an axis: its voxel and the exact fraction; none outside the field. -/
def fieldAxis (p : FpVal) (n : Nat) : Option (Nat × FpVal) :=
  match p with
  | .fin neg m e =>
    if (neg && m != 0) || fpLess (cV ((n : Int) - 1) 0) p then none
    else
      let i := min (floorScaled m e) ((n : Int) - 2)
      some (i.toNat, addV [p, cV (-i) 0])
  | _ => none

/-- A march in hand: r, g, b, tr as FP32. -/
structure March where
  r : Nat := 0
  g : Nat := 0
  b : Nat := 0
  tr : Nat := 0x3F800000
  ended : Bool := false
  deriving DecidableEq, Repr

/-- An entry of the transfer function for a sample's value. -/
def FieldDesc.entry (f : FieldDesc) (v : FpVal) : Nat :=
  match mulV (addV [v, f.tfmin.negate]) f.tfscale with
  | .nan _ => 0
  | .inf neg => if neg then 0 else 255
  | .fin neg m e => if neg then 0 else (min (floorScaled m e) 255).toNat

/-- The transfer function applied to a march. -/
def March.apply (x : March) (f : FieldDesc) (e : List Nat) : March :=
  let c := fun k => v32 (e.getD k 0)
  let al := v32 (fpMinMax 2 false (fpMinMax 2 true (e.getD 3 0) 0).bits 0x3F800000).bits
  let w := v32 (r32 (fpMul (v32 x.tr) al))
  let acc := fun (old k : Nat) => r32 (addV [v32 old, mulV w (c k)]).exact
  let tr := r32 (fpMul (v32 x.tr) (addV [cV 1 0, al.negate]))
  { r := acc x.r 0, g := acc x.g 1, b := acc x.b 2, tr, ended := fpLess (v32 tr) f.tend }

/-- Values read, or the stop. -/
def State.readAll (s : State) (u : Reader) (n : Nat) (x : VerSel) (as_ : List Nat) : Except EngineStop (List Nat) × State :=
  as_.foldl (fun acc a => match acc with
    | (.error e, s) => (.error e, s)
    | (.ok l, s) => match s.unitRead u a n x with
      | (.error e, s) => (.error e, s)
      | (.ok bs, s) => (.ok (l ++ [bytesToNat bs]), s)) (.ok [], s)

/-- One sample of a march (R410). -/
def State.marchStep (s : State) (u : Reader) (slot : Nat) (f : FieldDesc) (regs : List W64) (k : Nat) (x : March) : Except EngineStop March × State :=
  let half := fun (r h : Nat) => v32 (fld (regs.getD r 0).toNat (32 * h) 32)
  let origin := [half 0 0, half 0 1, half 1 0]
  let dir := [half 2 0, half 2 1, half 3 0]
  let p := (origin.zip dir).map (fun od => v32 (r32 (addV [od.1, mulV (mulV (cV k 0) (half 1 1)) od.2]).exact))
  match fieldAxis (p.getD 0 (.nan false)) (f.size 0), fieldAxis (p.getD 1 (.nan false)) (f.size 1), fieldAxis (p.getD 2 (.nan false)) (f.size 2) with
  | some (i, fx), some (j, fy), some (l, fz) =>
    let at_ := fun (c : Nat) => f.base + 4 * (i + c % 2 + f.size 0 * (j + c / 2 % 2 + f.size 1 * (l + c / 4)))
    match s.readAll u 4 { sel := slot } ((List.range 8).map at_) with
    | (.error e, s) => (.error e, s)
    | (.ok vs, s) =>
      let v := fun c => v32 (vs.getD c 0)
      let xs := fun c => lerp (v (2 * c)) (v (2 * c + 1)) fx
      let y0 := lerp (xs 0) (xs 1) fy
      let y1 := lerp (xs 2) (xs 3) fy
      match s.readAll u 4 {} ((List.range 4).map (fun c => f.table + 16 * f.entry (lerp y0 y1 fz) + 4 * c)) with
      | (.error e, s) => (.error e, s)
      | (.ok e, s) => (.ok (x.apply f e), s)
  | _, _, _ => (.ok x, s)

/-- A march over its samples. -/
def State.march (s : State) (u : Reader) (slot : Nat) (f : FieldDesc) (regs : List W64) : Except EngineStop March × State :=
  (List.range (min (fld (regs.getD 3 0).toNat 32 32) 65535)).foldl (fun acc k => match acc with
    | (.error e, s) => (.error e, s)
    | (.ok x, s) => if x.ended then (.ok x, s) else s.marchStep u slot f regs k x) (.ok {}, s)

/-- `fmarch` (R410). -/
def execFmarch (d a : BitVec 6) (la : BitVec 4) (sb : BitVec 3) (s : State) : Result :=
  let od : Operand := .run d 2
  let oa : Operand := .run a 5
  let regs := fun (i : IssueCtx) (t : Thread) => oa.regs t i.beforeQ 5
  let last := fun (i : IssueCtx) (t : Thread) => ((regs i t).getD 4 0).toNat
  issueWord s .gfx
    (fun i t => ((s.slotVerdict t.id sb.toNat 1).andThen (operandVerdict i.beforeQ t [oa] [od])).andThen
      (.require (fld (last i t) 52 4 == 0 && fld (last i t) 60 4 == 0) Cause.illegalOp i.bits.toNat))
    (fun i ps s => ps.foldl (fun s t => s.launchFlight i [t.id] la.toNat (some sb.toNat) .gfx (.fmarch (regs i t) (od.dst i t))) s)

/-- FMARCH_COMPLETE (R410): the word reads, in its turn among the thread's reads, and its result lands, in any order (R284). -/
def execFmarchComplete (fid : Nat) (s : State) : Result :=
  match s.flight? fid with
  | none => notNow "FMARCH_COMPLETE"
  | some f => match f.kind, f.stage, f.tids.head?.bind s.thread? with
    | .fmarch regs _, .start, some t =>
      if s.unitWaits f then notNow "FMARCH_COMPLETE" else
      let asid := s.asidOf t
      let last := (regs.getD 4 0).toNat
      let done : Except EngineStop March × State := match s.unitRead (s.readerOf t) (fld last 0 52) 64 with
        | (.error e, s) => (.error e, s)
        | (.ok bs, s) =>
          let c : FieldDesc := ⟨bytesToNat bs⟩
          if !c.valid (fld last 0 52) then (.error (.fault Cause.fieldDesc 0), s) else s.march (s.readerOf t) (fld last 56 4) c regs
      match done with
      | (.ok x, s) => .next (s.stage fid (.data (natToBytes 16 (pack 32 [x.r, x.g, x.b, x.tr])) none))
      | (.error .poolBad, s) => .next (s.poolBad f)
      | (.error e, _) => s.engineStop asid e fid "FMARCH_COMPLETE" (fun c va s => s.stage fid (.faulted c va))
    | .fmarch _ dst, .data bs _, some t => .next ((s.land t.id dst bs).completeFlight f)
    | _, _, _ => notNow "FMARCH_COMPLETE"

end Sys2Proof.Machine
end

