-- ==== Sys2Proof/Machine/Dispatch.lean ====
section
/-! DEFINITION. What each step does: one arm per constructor of Instr, each a direct call of its meaning. -/
namespace Sys2Proof.Machine

def exec (i : Instr) (s : State) : Host.Outcome State Fault Refusal :=
  match i with
  | .nop => Sys2Proof.Machine.execNop s
  | .br off16 => Sys2Proof.Machine.execBr off16 s
  | .bp p sense off16 => Sys2Proof.Machine.execBp p sense off16 s
  | .bx a => Sys2Proof.Machine.execBx a s
  | .call off16 => Sys2Proof.Machine.execCall off16 s
  | .ret => Sys2Proof.Machine.execRet s
  | .reform => Sys2Proof.Machine.execReform s
  | .exit => Sys2Proof.Machine.execExit s
  | .sbwait slot k => Sys2Proof.Machine.execSbwait slot k s
  | .qsync => Sys2Proof.Machine.execQsync s
  | .vote d a m => Sys2Proof.Machine.execVote d a m s
  | .ballot d a m => Sys2Proof.Machine.execBallot d a m s
  | .spawn d a b => Sys2Proof.Machine.execSpawn d a b s
  | .spawnn d a b => Sys2Proof.Machine.execSpawnn d a b s
  | .launch d a => Sys2Proof.Machine.execLaunch d a s
  | .await => Sys2Proof.Machine.execAwait s
  | .awaitp d a => Sys2Proof.Machine.execAwaitp d a s
  | .bar d n => Sys2Proof.Machine.execBar d n s
  | .cbar d n => Sys2Proof.Machine.execCbar d n s
  | .dbar d n => Sys2Proof.Machine.execDbar d n s
  | .cvdecl d a base => Sys2Proof.Machine.execCvdecl d a base s
  | .sign cv => Sys2Proof.Machine.execSign cv s
  | .trap code => Sys2Proof.Machine.execTrap code s
  | .rtt => Sys2Proof.Machine.execRtt s
  | .brk code => Sys2Proof.Machine.execBrk code s
  | .blk payload => Sys2Proof.Machine.execBlk payload s
  | .ext payload => Sys2Proof.Machine.execExt payload s
  | .grd payload => Sys2Proof.Machine.execGrd payload s
  | .ver payload => Sys2Proof.Machine.execVer payload s
  | .fmt payload => Sys2Proof.Machine.execFmt payload s
  | .mov d a m => Sys2Proof.Machine.execMov d a m s
  | .movi d imm => Sys2Proof.Machine.execMovi d imm s
  | .movh d imm => Sys2Proof.Machine.execMovh d imm s
  | .vwset view a mode step => Sys2Proof.Machine.execVwset view a mode step s
  | .add d a b m => Sys2Proof.Machine.execAdd d a b m s
  | .sub d a b m => Sys2Proof.Machine.execSub d a b m s
  | .mul d a b m => Sys2Proof.Machine.execMul d a b m s
  | .mulhSigned d a b m => Sys2Proof.Machine.execMulhSigned d a b m s
  | .mulhUnsigned d a b m => Sys2Proof.Machine.execMulhUnsigned d a b m s
  | .mad d a b m => Sys2Proof.Machine.execMad d a b m s
  | .addc d a b m => Sys2Proof.Machine.execAddc d a b m s
  | .subb d a b m => Sys2Proof.Machine.execSubb d a b m s
  | .and d a b m => Sys2Proof.Machine.execAnd d a b m s
  | .or d a b m => Sys2Proof.Machine.execOr d a b m s
  | .xor d a b m => Sys2Proof.Machine.execXor d a b m s
  | .andn d a b m => Sys2Proof.Machine.execAndn d a b m s
  | .not d a m => Sys2Proof.Machine.execNot d a m s
  | .shl d a b m => Sys2Proof.Machine.execShl d a b m s
  | .shr d a b m => Sys2Proof.Machine.execShr d a b m s
  | .sar d a b m => Sys2Proof.Machine.execSar d a b m s
  | .rol d a b m => Sys2Proof.Machine.execRol d a b m s
  | .minSigned d a b m => Sys2Proof.Machine.execMinSigned d a b m s
  | .minUnsigned d a b m => Sys2Proof.Machine.execMinUnsigned d a b m s
  | .maxSigned d a b m => Sys2Proof.Machine.execMaxSigned d a b m s
  | .maxUnsigned d a b m => Sys2Proof.Machine.execMaxUnsigned d a b m s
  | .abs d a m => Sys2Proof.Machine.execAbs d a m s
  | .neg d a m => Sys2Proof.Machine.execNeg d a m s
  | .cmpSigned p cond a b m => Sys2Proof.Machine.execCmpSigned p cond a b m s
  | .cmpUnsigned p cond a b m => Sys2Proof.Machine.execCmpUnsigned p cond a b m s
  | .sel d a b m => Sys2Proof.Machine.execSel d a b m s
  | .popc d a m => Sys2Proof.Machine.execPopc d a m s
  | .clz d a m => Sys2Proof.Machine.execClz d a m s
  | .ctz d a m => Sys2Proof.Machine.execCtz d a m s
  | .brev d a m => Sys2Proof.Machine.execBrev d a m s
  | .bfxSigned d a b m => Sys2Proof.Machine.execBfxSigned d a b m s
  | .bfxUnsigned d a b m => Sys2Proof.Machine.execBfxUnsigned d a b m s
  | .bfi d a b m => Sys2Proof.Machine.execBfi d a b m s
  | .lea d a b m => Sys2Proof.Machine.execLea d a b m s
  | .pand d na a nb b => Sys2Proof.Machine.execPand d na a nb b s
  | .por d na a nb b => Sys2Proof.Machine.execPor d na a nb b s
  | .pxor d na a nb b => Sys2Proof.Machine.execPxor d na a nb b s
  | .pmov d a b => Sys2Proof.Machine.execPmov d a b s
  | .csrR d num => Sys2Proof.Machine.execCsrR d num s
  | .csrW d num => Sys2Proof.Machine.execCsrW d num s
  | .addImm d a imm => Sys2Proof.Machine.execAddImm d a imm s
  | .andImm d a imm => Sys2Proof.Machine.execAndImm d a imm s
  | .orImm d a imm => Sys2Proof.Machine.execOrImm d a imm s
  | .xorImm d a imm => Sys2Proof.Machine.execXorImm d a imm s
  | .shlImm d a imm => Sys2Proof.Machine.execShlImm d a imm s
  | .shrImm d a imm => Sys2Proof.Machine.execShrImm d a imm s
  | .sarImm d a imm => Sys2Proof.Machine.execSarImm d a imm s
  | .mulImm d a imm => Sys2Proof.Machine.execMulImm d a imm s
  | .cmpSignedImm p cond a imm => Sys2Proof.Machine.execCmpSignedImm p cond a imm s
  | .cmpUnsignedImm p cond a imm => Sys2Proof.Machine.execCmpUnsignedImm p cond a imm s
  | .fadd d a b m => Sys2Proof.Machine.execFadd d a b m s
  | .fsub d a b m => Sys2Proof.Machine.execFsub d a b m s
  | .fmul d a b m => Sys2Proof.Machine.execFmul d a b m s
  | .fma d a b m => Sys2Proof.Machine.execFma d a b m s
  | .fnma d a b m => Sys2Proof.Machine.execFnma d a b m s
  | .fmin d a b m => Sys2Proof.Machine.execFmin d a b m s
  | .fmax d a b m => Sys2Proof.Machine.execFmax d a b m s
  | .fabs d a m => Sys2Proof.Machine.execFabs d a m s
  | .fneg d a m => Sys2Proof.Machine.execFneg d a m s
  | .fcmp p cond a b m => Sys2Proof.Machine.execFcmp p cond a b m s
  | .fclass d a m => Sys2Proof.Machine.execFclass d a m s
  | .fsel d a b m => Sys2Proof.Machine.execFsel d a b m s
  | .frnd d a m => Sys2Proof.Machine.execFrnd d a m s
  | .fcvt d a df sf => Sys2Proof.Machine.execFcvt d a df sf s
  | .fpack d a b => Sys2Proof.Machine.execFpack d a b s
  | .funpack d a half => Sys2Proof.Machine.execFunpack d a half s
  | .fscale d a b m => Sys2Proof.Machine.execFscale d a b m s
  | .fexp d a m => Sys2Proof.Machine.execFexp d a m s
  | .fdot2 d a b m => Sys2Proof.Machine.execFdot2 d a b m s
  | .fdot4 d a b m => Sys2Proof.Machine.execFdot4 d a b m s
  | .rcp d a la sb m => Sys2Proof.Machine.execRcp d a la sb m s
  | .rsq d a la sb m => Sys2Proof.Machine.execRsq d a la sb m s
  | .sqrt d a la sb m => Sys2Proof.Machine.execSqrt d a la sb m s
  | .div d a la sb m => Sys2Proof.Machine.execDiv d a la sb m s
  | .exp2 d a la sb m => Sys2Proof.Machine.execExp2 d a la sb m s
  | .log2 d a la sb m => Sys2Proof.Machine.execLog2 d a la sb m s
  | .sin d a la sb m => Sys2Proof.Machine.execSin d a la sb m s
  | .cos d a la sb m => Sys2Proof.Machine.execCos d a la sb m s
  | .tanh d a la sb m => Sys2Proof.Machine.execTanh d a la sb m s
  | .sfuResultLand f => Sys2Proof.Machine.execSfuResultLand f s
  | .mred d a b m => Sys2Proof.Machine.execMred d a b m s
  | .mscan d a m => Sys2Proof.Machine.execMscan d a m s
  | .shfl d a b m => Sys2Proof.Machine.execShfl d a b m s
  | .bcast d a m => Sys2Proof.Machine.execBcast d a m s
  | .cred d a m => Sys2Proof.Machine.execCred d a m s
  | .pdef d a => Sys2Proof.Machine.execPdef d a s
  | .pace d a la sb => Sys2Proof.Machine.execPace d a la sb s
  | .paceJobComplete f => Sys2Proof.Machine.execPaceJobComplete f s
  | .ldl d a la sb m => Sys2Proof.Machine.execLdl d a la sb m s
  | .stl d a la sb m => Sys2Proof.Machine.execStl d a la sb m s
  | .lds d a la sb m => Sys2Proof.Machine.execLds d a la sb m s
  | .sts d a la sb m => Sys2Proof.Machine.execSts d a la sb m s
  | .ldc d a la sb m => Sys2Proof.Machine.execLdc d a la sb m s
  | .stc d a la sb m => Sys2Proof.Machine.execStc d a la sb m s
  | .ldk d a la sb m => Sys2Proof.Machine.execLdk d a la sb m s
  | .stk d a la sb m => Sys2Proof.Machine.execStk d a la sb m s
  | .spres set a count => Sys2Proof.Machine.execSpres set a count s
  | .swf => Sys2Proof.Machine.execSwf s
  | .atomsAdd d a la sb m => Sys2Proof.Machine.execAtomsAdd d a la sb m s
  | .atomsMin d a la sb m => Sys2Proof.Machine.execAtomsMin d a la sb m s
  | .atomsMax d a la sb m => Sys2Proof.Machine.execAtomsMax d a la sb m s
  | .atomsAnd d a la sb m => Sys2Proof.Machine.execAtomsAnd d a la sb m s
  | .atomsOr d a la sb m => Sys2Proof.Machine.execAtomsOr d a la sb m s
  | .atomsXor d a la sb m => Sys2Proof.Machine.execAtomsXor d a la sb m s
  | .atomsXchg d a la sb m => Sys2Proof.Machine.execAtomsXchg d a la sb m s
  | .atomsCas d a la sb m => Sys2Proof.Machine.execAtomsCas d a la sb m s
  | .ld d a la sb m => Sys2Proof.Machine.execLd d a la sb m s
  | .st d a la sb m => Sys2Proof.Machine.execSt d a la sb m s
  | .pf a m => Sys2Proof.Machine.execPf a m s
  | .red d a la sb m => Sys2Proof.Machine.execRed d a la sb m s
  | .cinval a b m => Sys2Proof.Machine.execCinval a b m s
  | .cwb a b => Sys2Proof.Machine.execCwb a b s
  | .hflush a b => Sys2Proof.Machine.execHflush a b s
  | .hinval a b => Sys2Proof.Machine.execHinval a b s
  | .atomAdd d a la sb m => Sys2Proof.Machine.execAtomAdd d a la sb m s
  | .atomMin d a la sb m => Sys2Proof.Machine.execAtomMin d a la sb m s
  | .atomMax d a la sb m => Sys2Proof.Machine.execAtomMax d a la sb m s
  | .atomAnd d a la sb m => Sys2Proof.Machine.execAtomAnd d a la sb m s
  | .atomOr d a la sb m => Sys2Proof.Machine.execAtomOr d a la sb m s
  | .atomXor d a la sb m => Sys2Proof.Machine.execAtomXor d a la sb m s
  | .atomXchg d a la sb m => Sys2Proof.Machine.execAtomXchg d a la sb m s
  | .atomCas d a la sb m => Sys2Proof.Machine.execAtomCas d a la sb m s
  | .hrel d a la sb => Sys2Proof.Machine.execHrel d a la sb s
  | .mmaD c a b la sb m => Sys2Proof.Machine.execMmaD c a b la sb m s
  | .mmaS c a b la sb m => Sys2Proof.Machine.execMmaS c a b la sb m s
  | .mmaBf c a b la sb m => Sys2Proof.Machine.execMmaBf c a b la sb m s
  | .mmaH c a b la sb m => Sys2Proof.Machine.execMmaH c a b la sb m s
  | .mmaE4 c a b la sb m => Sys2Proof.Machine.execMmaE4 c a b la sb m s
  | .mmaE5 c a b la sb m => Sys2Proof.Machine.execMmaE5 c a b la sb m s
  | .mmaF4 c a b la sb m => Sys2Proof.Machine.execMmaF4 c a b la sb m s
  | .mmg c a b la sb m => Sys2Proof.Machine.execMmg c a b la sb m s
  | .mres d a b => Sys2Proof.Machine.execMres d a b s
  | .mrel d handle => Sys2Proof.Machine.execMrel d handle s
  | .mobl d a la sb m => Sys2Proof.Machine.execMobl d a la sb m s
  | .mzero c la sb m => Sys2Proof.Machine.execMzero c la sb m s
  | .mld d a la sb m => Sys2Proof.Machine.execMld d a la sb m s
  | .mst d a la sb m => Sys2Proof.Machine.execMst d a la sb m s
  | .mepi d a b m => Sys2Proof.Machine.execMepi d a b m s
  | .mcholD c la sb => Sys2Proof.Machine.execMcholD c la sb s
  | .mluD c a la sb => Sys2Proof.Machine.execMluD c a la sb s
  | .mtrsmD c a b la sb m => Sys2Proof.Machine.execMtrsmD c a b la sb m s
  | .matrixGenerationComplete g => Sys2Proof.Machine.execMatrixGenerationComplete g s
  | .cpy d a la sb => Sys2Proof.Machine.execCpy d a la sb s
  | .stage d k => Sys2Proof.Machine.execStage d k s
  | .cpyq d a la sb => Sys2Proof.Machine.execCpyq d a la sb s
  | .gat d a la sb => Sys2Proof.Machine.execGat d a la sb s
  | .vstep a m => Sys2Proof.Machine.execVstep a m s
  | .ldv d a la sb => Sys2Proof.Machine.execLdv d a la sb s
  | .vbind d a b => Sys2Proof.Machine.execVbind d a b s
  | .vrel d a => Sys2Proof.Machine.execVrel d a s
  | .vpub d a la sb => Sys2Proof.Machine.execVpub d a la sb s
  | .vq d a m => Sys2Proof.Machine.execVq d a m s
  | .tex d a la sb m => Sys2Proof.Machine.execTex d a la sb m s
  | .texl d a la sb m => Sys2Proof.Machine.execTexl d a la sb m s
  | .texg d a la sb m => Sys2Proof.Machine.execTexg d a la sb m s
  | .rgen d a b m => Sys2Proof.Machine.execRgen d a b m s
  | .rt d a la sb => Sys2Proof.Machine.execRt d a la sb s
  | .rnext d a la sb => Sys2Proof.Machine.execRnext d a la sb s
  | .rhit d a b m => Sys2Proof.Machine.execRhit d a b m s
  | .fmarch d a la sb => Sys2Proof.Machine.execFmarch d a la sb s
  | .momAcc d a la sb => Sys2Proof.Machine.execMomAcc d a la sb s
  | .momRes d a la sb m => Sys2Proof.Machine.execMomRes d a la sb m s
  | .rld d a la sb m => Sys2Proof.Machine.execRld d a la sb m s
  | .rst d a la sb m => Sys2Proof.Machine.execRst d a la sb m s
  | .ratom d a la sb m => Sys2Proof.Machine.execRatom d a la sb m s
  | .cntAdd a b m => Sys2Proof.Machine.execCntAdd a b m s
  | .cwait d a la sb => Sys2Proof.Machine.execCwait d a la sb s
  | .coll d a la sb => Sys2Proof.Machine.execColl d a la sb s
  | .timeTokenSend => Sys2Proof.Machine.execTimeTokenSend s
  | .timeTokenArrival r => Sys2Proof.Machine.execTimeTokenArrival r s
  | .timeEcho r => Sys2Proof.Machine.execTimeEcho r s
  | .echoSilenceTimeout r => Sys2Proof.Machine.execEchoSilenceTimeout r s
  | .dieFenceTimeout die => Sys2Proof.Machine.execDieFenceTimeout die s
  | .guardWrite v => Sys2Proof.Machine.execGuardWrite v s
  | .guardEffective r => Sys2Proof.Machine.execGuardEffective r s
  | .guardTransitionEnd => Sys2Proof.Machine.execGuardTransitionEnd s
  | .leaseExpiry die asid slot line => Sys2Proof.Machine.execLeaseExpiry die asid slot line s
  | .edgeReconcile tid => Sys2Proof.Machine.execEdgeReconcile tid s
  | .crewActivate cid lane => Sys2Proof.Machine.execCrewActivate cid lane s
  | .schedulerDecision p slice lane => Sys2Proof.Machine.execSchedulerDecision p slice lane s
  | .crewNotReadyTimeout cid => Sys2Proof.Machine.execCrewNotReadyTimeout cid s
  | .crewResidencyTimeout cid => Sys2Proof.Machine.execCrewResidencyTimeout cid s
  | .binAgeDraw bin => Sys2Proof.Machine.execBinAgeDraw bin s
  | .binIdleDraw bin slice lane => Sys2Proof.Machine.execBinIdleDraw bin slice lane s
  | .strayTimeout tid => Sys2Proof.Machine.execStrayTimeout tid s
  | .registerScrub tid found => Sys2Proof.Machine.execRegisterScrub tid found s
  | .dbarDieMessage grid n die => Sys2Proof.Machine.execDbarDieMessage grid n die s
  | .teamSwap team => Sys2Proof.Machine.execTeamSwap team s
  | .stolenContinuation team p => Sys2Proof.Machine.execStolenContinuation team p s
  | .memoryLoadLand f => Sys2Proof.Machine.execMemoryLoadLand f s
  | .memoryWritePerformed f => Sys2Proof.Machine.execMemoryWritePerformed f s
  | .lateFault f => Sys2Proof.Machine.execLateFault f s
  | .handlerTimeout tid => Sys2Proof.Machine.execHandlerTimeout tid s
  | .homeReadRequest f => Sys2Proof.Machine.execHomeReadRequest f s
  | .homeOwnershipRequest f => Sys2Proof.Machine.execHomeOwnershipRequest f s
  | .homeWriteArrival f => Sys2Proof.Machine.execHomeWriteArrival f s
  | .fillArrival f => Sys2Proof.Machine.execFillArrival f s
  | .cacheScrub found => Sys2Proof.Machine.execCacheScrub found s
  | .scratchScrub found => Sys2Proof.Machine.execScratchScrub found s
  | .copyLineLanding j line => Sys2Proof.Machine.execCopyLineLanding j line s
  | .vpubJobRun f => Sys2Proof.Machine.execVpubJobRun f s
  | .versionReclaim asid entry => Sys2Proof.Machine.execVersionReclaim asid entry s
  | .moblComplete f => Sys2Proof.Machine.execMoblComplete f s
  | .routedTileComplete f r => Sys2Proof.Machine.execRoutedTileComplete f r s
  | .jobStart j => Sys2Proof.Machine.execJobStart j s
  | .jobComplete j => Sys2Proof.Machine.execJobComplete j s
  | .wtLoad tid => Sys2Proof.Machine.execWtLoad tid s
  | .wtDrop tid => Sys2Proof.Machine.execWtDrop tid s
  | .texComplete f => Sys2Proof.Machine.execTexComplete f s
  | .rayEvent f => Sys2Proof.Machine.execRayEvent f s
  | .fmarchComplete f => Sys2Proof.Machine.execFmarchComplete f s
  | .ringRecordRead q => Sys2Proof.Machine.execRingRecordRead q s
  | .queueDescriptorWrite q v => Sys2Proof.Machine.execQueueDescriptorWrite q v s
  | .teamAdmit p => Sys2Proof.Machine.execTeamAdmit p s
  | .teamResume team p => Sys2Proof.Machine.execTeamResume team p s
  | .gridComplete grid => Sys2Proof.Machine.execGridComplete grid s
  | .cadenceTick unattributed measured => Sys2Proof.Machine.execCadenceTick unattributed measured s
  | .cadenceWrite v => Sys2Proof.Machine.execCadenceWrite v s
  | .coreFail p => Sys2Proof.Machine.execCoreFail p s
  | .laneFail p slice lane => Sys2Proof.Machine.execLaneFail p slice lane s
  | .hbmChannelFail stack channel => Sys2Proof.Machine.execHbmChannelFail stack channel s
  | .quadFail quad => Sys2Proof.Machine.execQuadFail quad s
  | .faultRecordFree die index => Sys2Proof.Machine.execFaultRecordFree die index s
  | .flitSend die port => Sys2Proof.Machine.execFlitSend die port s
  | .berWindowEnd die port slot errors => Sys2Proof.Machine.execBerWindowEnd die port slot errors s
  | .uncorrectableCodeword die port slot => Sys2Proof.Machine.execUncorrectableCodeword die port slot s
  | .trainingWindowEnd die port slot errors => Sys2Proof.Machine.execTrainingWindowEnd die port slot errors s
  | .retrainTimeout die port slot => Sys2Proof.Machine.execRetrainTimeout die port slot s
  | .remoteRequestArrival r => Sys2Proof.Machine.execRemoteRequestArrival r s
  | .remoteAck f r => Sys2Proof.Machine.execRemoteAck f r s
  | .linkTimeout f => Sys2Proof.Machine.execLinkTimeout f s
  | .counterAddArrival a => Sys2Proof.Machine.execCounterAddArrival a s
  | .cwaitTimeout f => Sys2Proof.Machine.execCwaitTimeout f s
  | .collMessageArrival m => Sys2Proof.Machine.execCollMessageArrival m s
  | .collWaitTimeout grid chunk => Sys2Proof.Machine.execCollWaitTimeout grid chunk s
  | .chunkComplete grid chunk => Sys2Proof.Machine.execChunkComplete grid chunk s
  | .pageInval asid va size => Sys2Proof.Machine.execPageInval asid va size s
  | .poolSet asid entry free => Sys2Proof.Machine.execPoolSet asid entry free s
  | .route peer die port => Sys2Proof.Machine.execRoute peer die port s
  | .spareCore die cluster core => Sys2Proof.Machine.execSpareCore die cluster core s
  | .chanRemap stack channel => Sys2Proof.Machine.execChanRemap stack channel s
  | .release die index => Sys2Proof.Machine.execRelease die index s
  | .serviceCommandLost => Sys2Proof.Machine.execServiceCommandLost s
  | .praAnswer v => Sys2Proof.Machine.execPraAnswer v s
  | .hostMailboxWrite off bytes => Sys2Proof.Machine.execHostMailboxWrite off bytes s
  | .hostApertureAccess off bytes write => Sys2Proof.Machine.execHostApertureAccess off bytes write s
  | .mailboxMapWrite entry v => Sys2Proof.Machine.execMailboxMapWrite entry v s
  | .powerOnReset up => Sys2Proof.Machine.execPowerOnReset up s
  | .attestRequest nonce => Sys2Proof.Machine.execAttestRequest nonce s
  | .attestReportDone => Sys2Proof.Machine.execAttestReportDone s
  | .ethTailWrite port rx v => Sys2Proof.Machine.execEthTailWrite port rx v s
  | .ethTxFrame port => Sys2Proof.Machine.execEthTxFrame port s
  | .ethRxFrame port frame badCheck => Sys2Proof.Machine.execEthRxFrame port frame badCheck s
  | .serviceCounterWrite index v => Sys2Proof.Machine.execServiceCounterWrite index v s
  | .registerWrite off v => Sys2Proof.Machine.execRegisterWrite off v s
  | .serviceCommandComplete => Sys2Proof.Machine.execServiceCommandComplete s
  | .backInvalidateAnswer line => Sys2Proof.Machine.execBackInvalidateAnswer line s
  | .snapshotCopyComplete asid page => Sys2Proof.Machine.execSnapshotCopyComplete asid page s

end Sys2Proof.Machine
end

