-- ==== Sys2Proof/Machine/Issue.lean ====
section
/-! DEFINITION. Issuing one tied group of a crew (spec/02 R39-R46, spec/04 R105-R112, R54, R55, R132, spec/11
R296-R298): readiness, late faults at their holding point, fetch, decoding, the checks of every word on the state before
the group, the effects in word order, and what follows the group. -/
namespace Sys2Proof.Machine

/-- The issue context of a group. -/
def State.issueCtx (s : State) (c : Crew) (pkt entry : Nat) (g : Group) (active : List Thread) : IssueCtx :=
  { crew := c.id, pkt, entry, last := g.last, num := s.ctl.nextId, word := entry, bits := 0, words := g.words.map (·.word)
    active := active.map (·.id), before := active, beforeQ := c.q
    beforeStep := c.step, beforeRegs := match s.team? c.team with | some m => m.regs | none => {} }

/-- The word at issue set. -/
def IssueCtx.at_ (i : IssueCtx) (g : GroupWord) : IssueCtx := { i with word := g.idx, bits := g.word, status := .ran }

/-- What follows a word within its group: modifiers last until the instruction they modify; `sign` names its register. -/
def IssueCtx.after (i : IssueCtx) (g : Instr) : IssueCtx :=
  match g with
  | .blk _ | .ext _ | .grd _ | .ver _ | .fmt _ => i
  | .sign cv => { i with pfx := {}, signed := some cv.toNat }
  | _ => { i with pfx := {} }

/-- Modifier words set the modifiers of the context that checks use. -/
def IssueCtx.pre (i : IssueCtx) (g : Instr) : IssueCtx :=
  match g.modifier? with
  | some k => { i with pfx := (i.pfx.add? k).getD i.pfx }
  | none => i

/-- Whether a word's cause is its effect (R46). -/
def isTrapWord : Instr → Bool
  | .trap _ | .brk _ => true
  | _ => false

/-- What the checks of a group's words come to on the state before it. -/
structure Check where
  /-- A word reached a holding point or parked its crew: the state that follows. -/
  taken : Option State := none
  stalled : Bool := false
  raised : List Raised := []

/-- The slot counts of threads carried from one state to another: the words of a group count together (R54). -/
def State.withSlots (s s' : State) (active : List Nat) : State :=
  active.foldl (fun s t => match s'.thread? t with
    | some x => s.modThread t (fun y => y.modCtx (fun c => { c with slots := x.ctx.slots }))
    | none => s) s

/-- The checks of the words of a group, each on the state before the group, slots apart (R40, R46, R54). -/
def checkWords (base s : State) : List GroupWord → IssueCtx → Check → Check
  | [], _, acc => acc
  | g :: rest, i, acc =>
    let i := (i.at_ g).pre g.instr
    let (acc, s) := if g.instr.modifier?.isSome || isTrapWord g.instr then (acc, s)
      else match exec g.instr (s.modCtl (fun c => { c with issue := some i })) with
        | .next s' => match s'.ctl.issue with
          | some j => match j.status with
            | .ran => (acc, s.withSlots s' i.active)
            | .stalled => ({ acc with stalled := true }, s)
            | .parked | .late =>
              let taken := match exec g.instr (base.modCtl (fun c => { c with issue := some i })) with | .next b => some b | _ => none
              (if acc.taken.isNone then { acc with taken } else acc, s)
            | .raised xs => ({ acc with raised := acc.raised ++ xs.filter (fun x => !acc.raised.any (fun y => y.tid == x.tid)) }, s)
          | none => (acc, s)
        | _ => (acc, s)
    checkWords base s rest (i.after g.instr) acc

/-- The effects of words in order, each one `exec` (R40). -/
def runWords : List GroupWord → State → Result
  | [], s => .next s
  | g :: rest, s =>
    match exec g.instr (s.modIssue (·.at_ g)) with
    | .next s => runWords rest (s.modIssue (·.after g.instr))
    | r => r

/-- The words of a group cut after each instruction: an instruction stands with its modifiers. -/
def splitUnits : List GroupWord → List GroupWord → List (List GroupWord)
  | [], acc => if acc.isEmpty then [] else [acc]
  | g :: rest, acc => if g.instr.modifier?.isSome then splitUnits rest (acc ++ [g]) else (acc ++ [g]) :: splitUnits rest []

/-- Words after which the thread leaves its crew: their tied words take effect first (R41, R46). -/
def leavesCrew : Instr → Bool
  | .trap _ | .brk _ | .reform | .exit | .ret | .await | .awaitp _ _ | .rtt => true
  | _ => false

/-- The words of a group in the order in which they take effect: those that end it after the others (R41, R46, R305). DESIGN CHOICE (log 31):
an `awaitp` that is released at once so writes its predicate after a tied word of higher index has written the same one; R40 does not say
whether a release is a write of the group. -/
def effectOrder (ws : List GroupWord) : List GroupWord :=
  let us := splitUnits ws []
  let late := fun (u : List GroupWord) => u.any (fun g => leavesCrew g.instr)
  (us.filter (fun u => !late u)).flatten ++ (us.filter late).flatten

/-- Whether a word takes one beat however many members are active: a uniform word (R108) and the words that act once for the crew
(R133, R215, R385). -/
def GroupUnit.oneBeat (u : GroupUnit) : Bool :=
  match u.instr with
  | .qsync | .stage _ _ | .vstep _ _ => true
  | _ => u.uniform && !u.instr.isSetLevel

/-- The beats of a group: one per active member, one where every word takes one, none for nops alone (R43, R107). -/
def groupBeats (g : Group) (members : Nat) : Nat :=
  let us := g.units.filter (fun u => u.instr != .nop)
  if us.isEmpty then 0 else if us.all GroupUnit.oneBeat then 1 else members

/-- The units of a group after a word, nops apart (R55). -/
def followers (g : Group) (word : Nat) : Nat := (g.units.filter (fun u => decide (word < u.idx) && u.instr != .nop)).length

/-- A context after a group that its thread executed in it: its windows run down, those of the group's own words open (R55). -/
def Ctx.countGroup (c : Ctx) (g : Group) (mine : List (Nat × Nat × Nat)) : Ctx :=
  { c with
    windows := (c.windows.filter (fun w => decide (Group.count g ≤ w.2))).map (fun w => (w.1, w.2 - Group.count g))
      ++ mine.map (fun b => (b.1, b.2.2 - followers g b.2.1)) }

/-- The windows of every thread that executed a group, in the context in which it did, those that left the crew with it too (R55, R131,
R295, R296). -/
def State.countWindows (s : State) (i : IssueCtx) (g : Group) : State :=
  i.before.foldl (fun s t =>
    let mine := i.born.filter (fun b => match s.flight? b.1 with | some f => f.tids.contains t.id | none => false)
    s.modThread t.id (fun live => live.modWordCtx t.trap.isSome (fun c => c.countGroup g mine))) s

/-- The address of a thread that stays in the crew moves on unless a word of the group has set it (R37, R41). -/
def State.moveOn (s : State) (i : IssueCtx) : State :=
  i.before.foldl (fun s t => match s.crewOf t.id with
    | some d => if d.id == i.crew && !i.jumped.contains t.id then s.modThread t.id (·.goto i.next.1 i.next.2) else s
    | none => s) s

/-- Crew, lane and clock after a group (R5, R111, R112, R431). DESIGN CHOICE (log 31): a group of nops alone, which has no beat, counts the
gap of its hint from the dclk before the one in which it was chosen. -/
def State.afterIssue (s : State) (c : Crew) (g : Group) (beats : Nat) : State :=
  match s.team? c.team with
  | none => s
  | some m =>
    let now := s.dclk m.place.die
    let last := now + beats - 1
    let s := s.modCrew c.id (fun c => { c with lastIssue := some now, gaveWay := g.giveWay, notReadySince := none, stalled := false
                                               gapUntil := if g.gap = 0 then c.gapUntil else last + g.gap })
    let lane := c.lane.getD 0
    let here := fun (l : Lane) => l.place == m.place && l.slice == c.slice && l.lane == lane
    let busy : Lane := { place := m.place, slice := c.slice, lane, busyUntil := now + beats }
    let s := { s with lanes := if s.lanes.any here then modFirst here (fun l => { l with busyUntil := now + beats }) s.lanes else s.lanes ++ [busy] }
    let s := s.modTeam m.id (fun m => { m with beats := m.beats + beats })
    s.addBeats m.place.die beats

/-- The members of a crew that are off-path are marked with the time, the active ones are not (R117, R120). -/
def State.markPath (s : State) (cid : Nat) : State :=
  match s.crew? cid with
  | none => s
  | some c =>
    let now := match s.team? c.team with | some m => s.dclk m.place.die | none => 0
    let active := s.activeOf c
    s.modCrew cid (fun c => { c with members := c.members.map (fun m =>
      if active.contains m.tid then { m with offSince := none } else { m with offSince := some (m.offSince.getD now) }) })

/-- An `sbwait` that a group has passed holds no longer (R132). -/
def State.passHolds (s : State) (active : List Nat) : State :=
  active.foldl (fun s t => s.modThread t (fun t => t.modCtx (fun c => { c with hold := none }))) s

/-- The focus and the group at issue end. -/
def State.endIssue (s : State) : State := s.modCtl (fun c => { c with focus := none, issue := none })

/-- A refusal of the driver concerns the group that asked (R253). -/
def State.forgetRefusal (s : State) (cid : Nat) : State := s.modCrew cid (fun c => { c with refused := none })

/-- A chosen crew whose group does not issue. DESIGN CHOICE (log 31): a crew that is held only by a wait of the word itself (R148, R345, R385, a
full queue), which is not among R109's conditions, may win the decision point with LOSS 0, and counts from then as not ready (R114). -/
def State.notReady (s : State) (c : Crew) : State :=
  ((s.markNotReady c).modCrew c.id (fun c => { c with stalled := true })).endIssue

/-- A decoded group of a crew issues, is held, or traps. -/
def State.issueDecoded (s : State) (c : Crew) (active : List Thread) (pkt entry : Nat) (g : Group) : Result :=
  let i := s.issueCtx c pkt entry g active
  let k := checkWords s s g.words i {}
  match k.taken with
  | some s' => .next s'.endIssue
  | none =>
    if k.stalled then .next (s.notReady c)
    else if !k.raised.isEmpty then .next (((s.forgetRefusal c.id).takeTraps k.raised i.active pkt entry).endIssue)
    else
      let s0 := s.modCtl (fun x => { x with issue := some { i with checked := true } })
      match runWords (effectOrder g.words) ((s0.markPath c.id).passHolds i.active) with
      | .next s1 =>
        let j := s1.ctl.issue.getD i
        let s2 := (s1.countWindows j g).moveOn j
        .next (((s2.forgetRefusal c.id).afterIssue c g (groupBeats g active.length)).markPath c.id).endIssue
      | r => r

/-- The crew's next group: readiness, holding points, fetch, decoding, issue. -/
def issueGroup (cid : Nat) (s : State) : Result :=
  match s.crew? cid with
  | none => .next s.endIssue
  | some c => match s.crewAddr c with
    | none => .next s.endIssue
    | some (pkt, entry) =>
      let active := (s.activeOf c).filterMap s.thread?
      let raise := fun (s : State) (cause val word ret : Nat) (pipe : Option Pipe) =>
        let code := match pipe with | some p => p.code | none => (Config.noPipe cause val).toNat
        let xs : List Raised := (s.inIndexOrder (active.map (·.id))).map (fun t => { tid := t, cause, val, word, pipe := code })
        ((xs.foldl (fun s x => s.takeTrap x (pkt, x.word) (pkt, ret)) (s.forgetRefusal cid))).endIssue
      let held := fun (n : Nat) (go : Result) =>
        let vs := active.map (fun t => (t.id, s.holdVerdict n t))
        let lates := (vs.filter (fun v => v.2 == .late)).map (·.1)
        if !lates.isEmpty then .next ((lates.foldl (fun s t => s.takeLate t (pkt, entry)) s).endIssue)
        else if vs.any (fun v => v.2 == .hold) then .next (s.notReady c)
        else if active.any (fun t => t.ctx.marks.any (t.markDue n)) then .next ((s.dueMarks active n).notReady c)
        else go
      if !s.crewReady c active then .next (s.notReady c)
      else
        let asid := match active with | t :: _ => s.asidOf t | [] => 0
        match s.fetch asid pkt with
        | .wait _ => .next (s.notReady c)
        | .fault cause val => held 1 (.next (raise s cause val 0 0 none))
        | .demand va =>
          if c.refused == some (va / 65536 * 65536) then held 1 (.next (raise s Cause.fetchFault va 0 0 none))
          else held 1 (.next ((s.postRequest asid va 2 [] [cid]).notReady c))
        | .words ws =>
          match decodeGroup ws entry with
          | .error e =>
            let cause := match e.cause with
              | .illegalOp => Cause.illegalOp | .illegalTie => Cause.illegalTie | .illegalPrefix => Cause.illegalPrefix
            let w := ws.getD e.idx 0
            held 1 (.next (raise (s.touchCode asid pkt) cause w.toNat e.idx entry (pipeOfWord w)))
          | .ok g => held (Group.count g) ((s.touchCode asid pkt).issueDecoded c active pkt entry g)

end Sys2Proof.Machine
end

