-- ==== Sys2Proof/Machine/Schedule.lean ====
section
/-! DEFINITION. What happens when nothing is on the agenda and no crew has the word: the events that the part takes of itself
(spec/95), tried in turn. Which of the enabled ones comes first is a choice of the model's own (log 3). -/
namespace Sys2Proof.Machine

/-- The events that a word in flight may take. -/
def flightEvents (f : Flight) : List Instr :=
  match f.kind with
  | .sfu _ _ _ _ _ => [.sfuResultLand f.id]
  | .mem _ | .scr _ => [.memoryLoadLand f.id, .memoryWritePerformed f.id, .fillArrival f.id, .homeReadRequest f.id,
      .homeOwnershipRequest f.id, .homeWriteArrival f.id, .lateFault f.id]
  | .matrix _ => [.lateFault f.id]
  | .tile _ _ _ _ _ _ _ => [.linkTimeout f.id, .lateFault f.id]
  | .job _ => []
  | .pace _ => [.paceJobComplete f.id]
  | .mobl _ _ _ _ _ => [.moblComplete f.id, .lateFault f.id]
  | .vpub _ _ _ => [.vpubJobRun f.id, .lateFault f.id]
  | .tex _ _ _ _ _ _ _ _ => [.texComplete f.id, .lateFault f.id]
  | .ray _ _ => [.rayEvent f.id, .lateFault f.id]
  | .fmarch _ _ => [.fmarchComplete f.id, .lateFault f.id]
  | .remote _ => [.linkTimeout f.id, .lateFault f.id]
  | .cwait _ _ _ _ _ => [.cwaitTimeout f.id, .lateFault f.id]
  | .coll _ _ => [.lateFault f.id]
  | .send _ _ _ _ _ _ => []
  | .cntAdd _ _ _ _ _ _ _ => [.counterAddArrival (.posted f.id), .linkTimeout f.id, .lateFault f.id]

/-- The line of an access is on its way to another die for a store, or there and not yet stored to. -/
def State.lineHeld (s : State) (a : MemAcc) : Bool :=
  s.flights.any (fun g => match g.kind with
    | .mem b => b.op == .store && b.place.die != a.place.die && b.asid == a.asid && lineOf b.va == lineOf a.va
      && (match g.stage with | .fill h => h.owns | .granted => (s.ownedLine g b).isSome | _ => false)
    | _ => false)

/-- The events that the step tries for a word in flight. DESIGN CHOICE (log 3): a request for a line that has been granted to another die for
a store is not tried before that store has been performed; an agenda may let it come sooner. -/
def State.eventsFor (s : State) (f : Flight) : List Instr :=
  match f.kind with
  | .mem a => if f.stage == .start && s.lineHeld a then [.memoryLoadLand f.id, .memoryWritePerformed f.id] else flightEvents f
  | _ => flightEvents f

/-- Cores on which a team that waits for one may be put: cores of the part one at a time, and the first cores of each cluster
together. Other choices come with the event itself. -/
def coreChoices : List (List Place) :=
  (List.range 4).flatMap (fun d => (List.range 16).flatMap (fun c =>
    (List.range 8).map (fun k => [(⟨d, c, k⟩ : Place)]) ++ (List.range 7).map (fun n => (List.range (n + 2)).map (fun k => ⟨d, c, k⟩))))

/-- The placements that may be enabled. -/
def placements (s : State) : List Instr :=
  (if s.grids.any s.mayStart then coreChoices.map (fun ps => .teamAdmit ps) else [])
  ++ (s.teams.filter (fun m => m.status == .preempted)).flatMap (fun m => coreChoices.map (fun ps => .teamResume m.id ps))
  ++ (s.teams.filter (fun m => m.status == .swapped)).flatMap (fun m => coreChoices.flatten.map (fun p => .stolenContinuation m.id p))

/-- The cores on which teams stand. -/
def allPlaces (s : State) : List Place := (s.teams.map (·.place)).foldl (fun acc p => if acc.contains p then acc else acc ++ [p]) []

/-- The events that may be enabled, whoever they happen to. -/
def candidates (s : State) : List Instr :=
  if s.host.stage = 0 ∧ s.host.fail = 0 then [.powerOnReset {}]
  else
    s.flights.flatMap s.eventsFor
    ++ s.jobs.flatMap (fun j => .jobStart j.id :: .jobComplete j.id :: (j.cleared.map (fun l => .copyLineLanding j.id l.line)))
    ++ s.gens.map (fun g => .matrixGenerationComplete g.id)
    ++ (s.threads.filter (fun t => t.edge.isSome || s.flights.any (fun f => f.tids.contains t.id && (match f.kind with
        | .cwait _ _ _ _ _ => true | _ => false)))).map (fun t => .edgeReconcile t.id)
    ++ (s.threads.filter (fun t => t.trap.isSome)).map (fun t => .handlerTimeout t.id)
    ++ (s.threads.filter (fun t => t.wt.isSome)).flatMap (fun t => [.wtLoad t.id, .wtDrop t.id])
    ++ s.mem.cows.map (fun c => .snapshotCopyComplete c.asid c.page)
    ++ (s.mem.l2.filter s.leaseEnded).map (fun l => .leaseExpiry l.die l.asid l.slot l.line)
    ++ s.asids.flatMap (fun a => ((s.pool a.id).filter (fun e => e.state == 2 && !e.bad)).map (fun e => .versionReclaim a.id e.index))
    ++ s.bins.map (fun b => .binAgeDraw b.id)
    ++ s.bins.flatMap (fun b => (s.binSlices b).flatMap (fun k => (List.range 4).map (fun l => .binIdleDraw b.id k l)))
    ++ (s.crews.filter (fun c => c.lane.isNone)).flatMap (fun c => (List.range 4).map (fun l => .crewActivate c.id l))
    ++ (s.crews.filter (fun c => c.lane.isSome)).flatMap (fun c => [.crewNotReadyTimeout c.id, .crewResidencyTimeout c.id])
    ++ (s.crews.flatMap (fun c => c.members.map (fun m => .strayTimeout m.tid)))
    ++ s.grids.flatMap (fun g => (List.range 16).flatMap (fun n => (List.range 4).map (fun d => .dbarDieMessage g.event n d)))
    ++ s.grids.map (fun g => .gridComplete g.event)
    ++ s.grids.flatMap (fun g => g.chunks.flatMap (fun c => [.collWaitTimeout g.event c.index, .chunkComplete g.event c.index]))
    ++ placements s
    ++ (List.range 256).map (fun q => .ringRecordRead q)
    ++ s.teams.map (fun t => .teamSwap t.id)
    ++ (List.range 8).map (fun r => .timeTokenArrival r)
    ++ (List.range 8).map (fun r => .timeEcho r)
    ++ (List.range 8).map (fun r => .guardEffective r)
    ++ ((List.range 8).filter s.silent).map (fun r => .echoSilenceTimeout r)
    ++ [.guardTransitionEnd, .serviceCommandComplete, .attestReportDone]
    ++ (List.range 4).map (fun p => .ethTxFrame p)
    ++ (List.range 4).flatMap (fun p => ((s.host.eth.getD p {}).held.toList).map (fun f => .ethRxFrame p f false))
    ++ (allPlaces s).flatMap (fun p => (List.range 16).flatMap (fun k => (List.range 4).map (fun l => .schedulerDecision p k l)))
    ++ [.timeTokenSend]

/-- The first of a list of events that can happen, run. -/
def firstEnabled (s : State) : List Instr → Result
  | [] => .next s
  | e :: rest => match exec e s with
    | .next s' => .next s'
    | _ => firstEnabled s rest

/-- The step of the energy account for a whole microsecond, with readings that are free values where no event gives them (R431; log 29). -/
def State.ownTick (s : State) : Result :=
  let at_ := s.energy.lastTick
  execCadenceTick (Config.sensor at_ 4) ((List.range 4).map (fun d => (d, Config.sensor at_ d))) s

/-- A step of the part itself: the step of the energy account that is due (R431), else the enabled events in rotation, the passing of a
nanosecond between two tokens among them (R18). -/
def idleStep (s : State) : Result :=
  if s.tickDue then s.ownTick else
  let l := candidates s
  let k := s.ctl.turn % (l.length + 1)
  let s := s.modCtl (fun c => { c with turn := c.turn + 1 })
  match (if k = l.length then s.nanosecond else none) with
  | some t => .next t
  | none => firstEnabled s (l.drop k ++ l.take k)

/-- What follows every step: threads at `rtt` or masked off at `exit` whose words have completed return or retire (R130, R304), pre-emptions that waited for a trap
go on (R308), schedule entries that are due find room (R384), records and replays that a fence held go on (R312), grids whose dependences have been met become ready (R423). -/
def afterStep : Result → Result
  | .next s => .next s.finishReturns.retireExiting.finishEvictions.releaseDue.flushRecords.replayHeld.refreshReady
  | r => r

/-! ### Placing an instruction where the machine fetches next -/

/-- The launch record of the grid that `withFetchWord` makes: one team of one thread, a window of 2,048 bytes, valid views. -/
def probeRecord : Nat :=
  7 * 2 ^ 128 + 2 ^ 64 + 2048 * 2 ^ 204 + 2048 * 2 ^ 228 + 2048 * 2 ^ 252 + 2048 * 2 ^ 276

/-- A 32 GiB leaf at level 0: V, LEAF, level, spread, readable, writable, executable, accessed (R250, R251). -/
def probeLeaf : Nat := 15 * 2 ^ 60 + 15 * 2 ^ 32 + 0x1E0

/-- The packet index at which the placed instruction stands, and the root of its address space's table. -/
def probePacket : Nat := 0x1000
def probeRoot : Nat := 2 ^ 35

/-- A packet at an address: a word and two nops. -/
def probeBytes (w : W32) : List Byte := bytesOfWord w ++ List.replicate 8 0

/-- A state in which one thread of one crew stands ready at the placed packet: log 15. -/
def State.place (s : State) (w : W32) : State :=
  let id := s.ctl.nextId
  let p : Place := ⟨0, 0, 0⟩
  let va := packetAddr probePacket
  let dram := (s.mem.dram.writeNat probeRoot 8 probeLeaf).writeN va (probeBytes w)
  let grid : Grid := { event := id, queue := 0, asid := 1, record := probeRecord, nextTeam := 1, ready := some 0 }
  let cluster : Cluster := { id := id + 1, grid := id, index := 0 }
  let team : Team := { id := id + 2, grid := id, index := 0, place := p, cluster := id + 1, tag := id + 2 }
  let thread : Thread :=
    { id := id + 3, team := id + 2, index := 0, spawned := false, slice := 0, status := .crewed
      ctx := { pkt := probePacket, word := 0, srseed := 1 }, winSize := 2048, views := recordViews probeRecord }
  let crew : Crew :=
    { id := id + 4, team := id + 2, slice := 0, members := [{ slot := 0, tid := id + 3 }], q := {}, step := 0, lane := some 0 }
  { s with
    host := { s.host with stage := 6 }
    time := { s.time with receivers := modAt (fun r => { r with fenced := false }) 0 s.time.receivers }
    asids := s.asids.filter (fun a => a.id != 1) ++ [({ id := 1, root := BitVec.ofNat 64 probeRoot } : Asid)]
    mem := { s.mem with dram, l2 := s.mem.l2.filter (fun l => l.pa != lineOf va)
                        poison := clearWhole s.mem.poison (va / 8 * 8) 24, requests := [], failedChannels := [] }
    grids := s.grids ++ [grid], clusters := s.clusters ++ [cluster], teams := s.teams ++ [team]
    threads := s.threads ++ [thread], crews := s.crews ++ [crew]
    ctl := { s.ctl with agenda := [], focus := some (id + 4), issue := none, nextId := id + 5 } }

end Sys2Proof.Machine
end

