-- ==== Sys2Proof/Machine/Step.lean ====
section
/-! DEFINITION. One step of the part: the next event of the agenda; else the group of the crew that a scheduler decision has
chosen; else an event the part takes of itself. -/
namespace Sys2Proof.Machine

/-- One step. -/
def step (s : State) : Host.Outcome State Fault Refusal :=
  match s.ctl.agenda with
  | e :: rest => afterStep (exec e (s.modCtl (fun c => { c with agenda := rest })))
  | [] => match s.ctl.focus with
    | some c => afterStep (issueGroup c s)
    | none => afterStep (idleStep s)

/-- The state with an instruction, its bits numbered as the opcode table numbers them, where the step fetches next. -/
def State.withFetchWord (s : State) (nbits w : Nat) : State := s.place (BitVec.ofNat 32 (w % 2 ^ nbits))

end Sys2Proof.Machine
end

