-- ==== Sys2Proof/Safety.lean ====
section
/-! DEFINITION. The words claims are made of: which steps answer, what every step leaves behind, when a word's operands are free to be
read and written, and what an element-wise word leaves in the threads it acts in. -/
namespace Sys2Proof.Machine

/-! ### Steps -/

/-- One step from s gives s'. -/
def Steps (s s' : State) : Prop := step s = .next s'

/-- The next thing on the agenda, if there is one, can happen. -/
def AgendaEnabled (s : State) : Prop :=
  match s.ctl.agenda with
  | [] => True
  | e :: rest => ∃ s', exec e (s.modCtl (fun c => { c with agenda := rest })) = .next s'

/-- No grid is left waiting whose dependences are all met, or one of whose dependences has failed (R423). -/
def GridsFresh (s : State) : Prop := ∀ g ∈ s.grids, g.waits = true → s.gridDeps g = .unmet

/-- Device memory in canonical form. -/
def MemCanonical (s : State) : Prop := Mem.wf s.mem.dram = true

/-! ### Words at issue -/

/-- A range of (first byte, bytes) meets none of a list of bytes. -/
def Untouched (r : Nat × Nat) (bytes : List Nat) : Prop := ∀ p ∈ bytes, ¬(r.1 ≤ p ∧ p < r.1 + r.2)

/-- Window ranges that lie in the window (R164) and name no byte that is pending for a matrix result (R345). -/
def RangesFree (t : Thread) (rs : List (Nat × Nat)) : Prop := ∀ r ∈ rs, r.1 + r.2 ≤ t.winSize ∧ Untouched r (t.pending.map (·.1))

/-- Over the given steps, the operands read and written are free, and no byte read is poisoned (R181). -/
def OperandsFree (t : Thread) (q : QCopy) (reads writes : List Operand) (steps : List (Nat × Nat)) : Prop :=
  RangesFree t (namedRanges t (reads ++ writes) steps)
  ∧ (∀ r ∈ namedRanges t reads steps, Untouched r t.winPoison)
  ∧ ∀ o ∈ reads, o.isQ = true → Untouched (8 * o.reg, o.len) q.poison

/-- The operands named are free, and of the bytes read (operand, first byte, bytes) none is poisoned. -/
def FieldsFree (t : Thread) (q : QCopy) (named : List Operand) (reads : List (Operand × Nat × Nat)) : Prop :=
  RangesFree t (namedRanges t named [(0, 0)])
  ∧ (∀ x ∈ reads, x.1.isQ = false → Untouched (x.1.off t 0 0 + x.2.1, x.2.2) t.winPoison)
  ∧ ∀ x ∈ reads, x.1.isQ = true → Untouched (8 * x.1.reg + x.2.1, x.2.2) q.poison

/-- The participants of the word at issue stand in the state, each once. -/
def PartsLive (s : State) (i : IssueCtx) : Prop :=
  (i.parts.map (·.id)).Nodup ∧ ∀ t ∈ i.parts, ∃ live, s.thread? t.id = some live

/-- A change made to the live record of each thread of a list, which may depend on the thread as it stands in the list. -/
def State.modThreads (s : State) (ps : List Thread) (f : Thread → Thread → Thread) : State :=
  ps.foldl (fun s t => s.modThread t.id (f t)) s

/-- Nothing but threads differs. -/
def OnlyThreads (s s' : State) : Prop := s' = { s with threads := s'.threads }

/-- Nothing but threads and the model's own fields differs. -/
def OnlyThreadsCtl (s s' : State) : Prop := s' = { s with threads := s'.threads, ctl := s'.ctl }

/-! ### Element-wise words (R107, R108, R183) -/

/-- What an element-wise word leaves: each participant's registers as its steps write them; under UD, one result in the crew's copy,
made of the first active member's operands. -/
def laneAfter (s : State) (i : IssueCtx) (w : LaneWord) : State :=
  if i.pfx.ud then
    match i.active.filterMap i.src with
    | [] => s
    | t :: _ =>
      let l := w.go i.pfx t i.beforeQ
      let s := s.modCrew i.crew (fun c => { c with q := l.writes.foldl QCopy.replay c.q })
      let s := i.active.foldl (fun s u => s.modThread u (·.setFlags l.flags)) s
      s.modThread t.id (fun live =>
        if l.t.ctx.srseed != t.ctx.srseed then live.modCtx (fun c => { c with srseed := l.t.ctx.srseed }) else live)
  else s.modThreads i.parts (fun t live => live.applyLane t (w.go i.pfx t i.beforeQ))

/-- A thread's operands are free for an element-wise word: its ranges over all steps, and no step reads a poisoned byte. -/
def LaneWord.FreeIn (w : LaneWord) (x : Pfx) (t : Thread) (q : QCopy) : Prop :=
  RangesFree t (namedRanges t w.operands (blockSteps x)) ∧ (w.go x t q).bad = [] ∧ (w.go x t q).badQ = []

/-- The word may issue: its operands are free in every participant, and in the first active member. -/
def LaneFree (i : IssueCtx) (w : LaneWord) : Prop :=
  (∀ t ∈ i.parts, w.FreeIn i.pfx t i.beforeQ) ∧ ∀ t, (i.active.filterMap i.src).head? = some t → w.FreeIn i.pfx t i.beforeQ

/-- An element-wise word completes with the effect of `w`: in every state in which it stands at issue with free operands, `r` is
the next state that `w` leaves. -/
def LaneCompletes (r : State → Result) (w : Pfx → LaneWord) : Prop :=
  ∀ (s : State) (i : IssueCtx), s.ctl.issue = some i → LaneFree i (w i.pfx) → r s = .next (laneAfter s i (w i.pfx))

/-- A property of every participant. -/
def Each (i : IssueCtx) (p : Thread → Prop) : Prop := ∀ t ∈ i.parts, p t

/-! ### Words across a crew (R210-R213) -/

/-- A participant's operands are free for a word across the crew: its ranges over all steps, and no step reads a poisoned byte. -/
def CrossWord.FreeIn (w : CrossWord) (s : State) (i : IssueCtx) (t : Thread) : Prop :=
  RangesFree t (namedRanges t ([w.d, w.a] ++ w.b.toList) (blockSteps i.pfx))
  ∧ ∀ l ∈ w.go s i, l.2.t.id = t.id → l.2.bad = [] ∧ l.2.badQ = []

/-- What a word across the crew leaves: each participant's registers, a `q` destination once (R108). -/
def crossAfter (s : State) (i : IssueCtx) (w : CrossWord) : State :=
  let ls := w.go s i
  let s := match ls with
    | l :: _ => if w.d.isQ then s.modCrew i.crew (fun c => { c with q := l.2.writes.foldl QCopy.replay c.q }) else s
    | [] => s
  ls.foldl (fun s l => match i.src l.2.t.id with
    | some t => s.modThread t.id (fun live => live.applyLane t l.2)
    | none => s) s

/-- A word across the crew completes with the effect of `w`: its operands are free in every participant, or, its destination in the `q`
copy, in the first (R108). -/
def CrossCompletes (r : State → Result) (w : Pfx → CrossWord) : Prop :=
  ∀ (s : State) (i : IssueCtx), s.ctl.issue = some i →
    (∀ t ∈ (if (w i.pfx).d.isQ then i.parts.take 1 else i.parts), (w i.pfx).FreeIn s i t) → r s = .next (crossAfter s i (w i.pfx))

/-! ### Other words -/

/-- A word completes with an effect: wherever it stands at issue and its conditions hold, the next state is that effect. -/
def Completes (w : Instr) (ok : State → IssueCtx → Prop) (after : State → IssueCtx → State) : Prop :=
  ∀ (s : State) (i : IssueCtx), s.ctl.issue = some i → ok s i → exec w s = .next (after s i)

/-- Operands of a word without a block are free in every participant. -/
def Free (i : IssueCtx) (reads writes : List Operand) : Prop := Each i (fun t => OperandsFree t i.beforeQ reads writes [(0, 0)])

/-- A change to the state for each thread of a list, in order. -/
def State.each (s : State) (ts : List Thread) (f : State → Thread → State) : State := ts.foldl f s

/-- Threads whose next address a word of the group has set (R41). -/
def State.noteJumps (s : State) (ts : List Thread) : State := s.modIssue (fun i => { i with jumped := i.jumped ++ ts.map (·.id) })

/-- A slot takes n more counts (R54). -/
def SlotFree (s : State) (tid sb n : Nat) : Prop := ∀ t, s.thread? tid = some t → t.ctx.slots.getD sb 0 + n ≤ 63

/-- None of a thread's words of a kind is outstanding or has faulted and not completed, and no pending fault of its running context stands in
its way (R57, R296). -/
def NoneOutstanding (s : State) (tid : Nat) (p : Flight → Bool) : Prop :=
  ∀ t, s.thread? tid = some t →
    (∀ f ∈ t.faulted, p f = false) ∧ (∀ f ∈ t.faults, t.faultHere f = true → f.posted = false)
    ∧ ∀ f ∈ s.flights, tid ∈ f.tids → p f = false

/-- Words in flight launched for threads of a list, one per thread, each as it stands in the state before. -/
def State.launchEach (s : State) (i : IssueCtx) (ts : List Thread) (tids : Thread → List Nat) (la : Nat) (sb : Option Nat) (pipe : Pipe)
    (kind : Thread → FlightKind) : State :=
  s.each ts (fun s t => s.launchFlight i (tids t) la sb pipe (kind t))

/-- The participant's own number. -/
def own (t : Thread) : List Nat := [t.id]

end Sys2Proof.Machine
end

