-- ==== Sys2Proof/Certificates/Slice0/Obligations.lean ====
section
/-! DEFINITION. Statements for the provers, each a proposition about the machine; titles, rules and tiers stand in OBLIGATIONS.json. -/
namespace Sys2Proof.Claims
open Sys2Proof.Machine

/-! ### Elements of a 64-bit value, as the rules write them (R35, R187) -/

/-- Element e of width w. -/
def element (w e v : Nat) : BitVec w := BitVec.ofNat w (v / 2 ^ (w * e))

/-- The value whose elements of width w are given. -/
def elementwise (w : Nat) (f : Nat → BitVec w) : Nat := pack w ((List.range (64 / w)).map (fun e => (f e).toNat))

/-- The byte of eight bits. -/
def byteOf (f : Nat → Bool) : Byte := BitVec.ofNat 8 ((List.range 8).map (fun e => (f e).toNat * 2 ^ e)).sum

/-- d := f(a, b, d) element by element; a and b are read whole, d where asked. -/
def wordOf (x : Pfx) (d a b : BitVec 6) (m : BitVec 2) (old : Bool) (f : (w : Nat) → BitVec w → BitVec w → BitVec w → BitVec w) : LaneWord :=
  { d := some (opD x d), a := some (opA x a), b := some (opB x b), reads := fun _ => (if old then 0xFF else 0, 0xFF, 0xFF)
    run := fun y => { d := some (elementwise (widthOf m) (fun e =>
      f _ (element _ e y.a) (element _ e y.b) (element _ e y.d))) } }

/-- d := f(a) element by element. -/
def wordOf1 (x : Pfx) (d a : BitVec 6) (m : BitVec 2) (f : (w : Nat) → BitVec w → BitVec w) : LaneWord :=
  { d := some (opD x d), a := some (opA x a), reads := fun _ => (0, 0xFF, 0)
    run := fun y => { d := some (elementwise (widthOf m) (fun e => f _ (element _ e y.a))) } }

/-- Bit k for each byte k of a value on which a function depends: one of its bits, set alone, changes the result (R181; for which functions
this says it: log 31). -/
def dependsOn {w : Nat} (f : BitVec w → BitVec w) : Nat :=
  (((List.range (w / 8)).filter (fun k => (List.range 8).any (fun j => f (BitVec.ofNat w (2 ^ (8 * k + j))) != f 0))).map (2 ^ ·)).sum

/-- d := f(a, b) element by element, where the count b keeps only some bytes of a; `bytes`: how many low bytes of a count are read. -/
def wordShift (x : Pfx) (d a b : BitVec 6) (m : BitVec 2) (bytes : Nat) (f : (w : Nat) → BitVec w → BitVec w → BitVec w) : LaneWord :=
  let w := widthOf m
  let masks := fun (g : Nat → Nat) => pack (w / 8) ((List.range (64 / w)).map g)
  { wordOf x d a b m false (fun w u v _ => f w u v) with
    reads := fun y => (0, masks (fun e => dependsOn (fun u => f w u (element w e y.b))), masks (fun _ => 2 ^ bytes - 1)) }

/-- d := f(a, immediate) on one 64-bit element, of whose bytes those are read on which the result depends. -/
def wordImm (x : Pfx) (d a : BitVec 6) (y : W64) (f : W64 → W64 → W64) : LaneWord :=
  { d := some (opD x d), a := some (opA x a), reads := fun _ => (0, dependsOn (fun u => f u y), 0)
    run := fun z => { d := some (elementwise 64 (fun e => f (element 64 e z.a) y)) } }

/-- p[p] := f(a, b) of the low elements, of which alone bytes are read. -/
def wordTest (x : Pfx) (p : BitVec 3) (a b : BitVec 6) (m : BitVec 2) (f : (w : Nat) → BitVec w → BitVec w → Bool) : LaneWord :=
  let low := 2 ^ (widthOf m / 8) - 1
  { a := some (opA x a), b := some (opB x b), reads := fun _ => (0, low, low)
    run := fun y => { p := some (p.toNat, f _ (element (widthOf m) 0 y.a) (element (widthOf m) 0 y.b)) } }

/-- p[d] := f(p[a] xor na, p[b] xor nb). -/
def wordPred (d : BitVec 3) (na : BitVec 1) (a : BitVec 3) (nb : BitVec 1) (b : BitVec 3) (f : Bool → Bool → Bool) : LaneWord :=
  { reads := fun _ => (0, 0, 0)
    run := fun y => { p := some (d.toNat, f (xor (y.preds.getLsbD a.toNat) (na.getLsbD 0)) (xor (y.preds.getLsbD b.toNat) (nb.getLsbD 0))) } }

/-- The six conditions of `cmp` (R189) on signed or unsigned values. -/
def condition (signed : Bool) (c : BitVec 3) {w : Nat} (x y : BitVec w) : Bool :=
  let lt := fun (u v : BitVec w) => if signed then u.slt v else u.ult v
  match c.toNat with
  | 0 => x == y
  | 1 => x != y
  | 2 => lt x y
  | 3 => !lt y x
  | 4 => lt y x
  | _ => !lt x y

/-- An immediate of R193: 8 bits, or 21 with a nonzero IMMX. -/
def immediate (x : Pfx) (signed : Bool) (imm : BitVec 8) : W64 :=
  let v : BitVec 21 := BitVec.ofNat 13 x.immx ++ imm
  if x.immx = 0 then (if signed then imm.signExtend 64 else imm.setWidth 64) else (if signed then v.signExtend 64 else v.setWidth 64)

/-- Leading zeros, trailing zeros, ones. -/
def leadingZeros {w : Nat} (x : BitVec w) : BitVec w :=
  BitVec.ofNat w ((List.range w).reverse.takeWhile (fun k => !x.getLsbD k)).length
def trailingZeros {w : Nat} (x : BitVec w) : BitVec w := BitVec.ofNat w ((List.range w).takeWhile (fun k => !x.getLsbD k)).length
def ones {w : Nat} (x : BitVec w) : BitVec w := BitVec.ofNat w ((List.range w).countP x.getLsbD)

/-! ### Floating-point elements (R70-R95) -/

/-- d := f(element e of a, b and d, draw) for each of n elements, in ascending order, with their flags and draws (R79, R84, R91). -/
def floatWordOf (x : Pfx) (d a : BitVec 6) (b : Option (BitVec 6)) (w n : Nat) (draws : Nat) (mask : Nat × Nat × Nat)
    (f : LaneIn → Nat → Nat → FpRes) : LaneWord :=
  { d := some (opD x d), a := some (opA x a), b := b.map (opB x), reads := fun _ => mask
    run := fun y => floatOut w n draws y.seed (f y) }

/-- The value of a finite datum. -/
def valueOf (neg : Bool) (m : Nat) (e : Int) : ℚ := (if neg then -1 else 1) * (m : ℚ) * (2 : ℚ) ^ e

/-- The order of `fcmp` on data that are no NaN: infinities outside, finite values as numbers, so that -0 equals +0 (R200). -/
def less : FpVal → FpVal → Prop
  | .nan _, _ | _, .nan _ => False
  | .inf n, .inf k => n = true ∧ k = false
  | .inf n, .fin _ _ _ => n = true
  | .fin _ _ _, .inf k => k = false
  | .fin n m e, .fin k j d => valueOf n m e < valueOf k j d

/-! ### Words that access memory (R245, R268) -/

/-- What a word of virtual memory is: its operation, the registers that name d and give data (with how many of their bytes), the bytes
it moves, checks and aligns to, where its result goes. -/
structure AccessForm where
  op : MemOp
  d : List (IssueCtx → Operand)
  sources : IssueCtx → List (Operand × Nat)
  size : IssueCtx → Nat
  span : IssueCtx → Nat := size
  align : IssueCtx → Nat := size
  typed : Bool := true
  vol : IssueCtx → Bool := fun _ => false
  dst : IssueCtx → Thread → Dst
  noReturn : Bool := false
  pipe : Pipe := .lsu
  la : BitVec 4 := 0
  sb : Option (BitVec 3)

/-- The address that register a gives in a thread. -/
def addressIn (a : BitVec 6) (i : IssueCtx) (t : Thread) : Nat := ((Operand.vv a i.pfx.ua).val t i.beforeQ).toNat

/-- The threads that access: one for the crew where d is a `q` register (R108, R269). -/
def AccessForm.accessors (f : AccessForm) (i : IssueCtx) : List Thread := if f.d.any (fun o => (o i).isQ) then i.parts.take 1 else i.parts

/-- What the access of a thread is. -/
def AccessForm.access (f : AccessForm) (a : BitVec 6) (s : State) (i : IssueCtx) (t : Thread) : MemAcc :=
  { op := f.op, place := s.placeOf t, asid := s.asidOf t, va := addressIn a i t, size := f.size i, dfmt := if f.typed then i.pfx.dfmt else 0
    vol := f.vol i, ver := verOf i, dst := f.dst i t, data := (f.sources i).flatMap (fun x => (x.1.bytes t i.beforeQ).take x.2)
    noReturn := f.noReturn }

/-- The word may issue: room in its slot, its operands free, its address in range and aligned. -/
def AccessForm.FreeIn (f : AccessForm) (a : BitVec 6) (s : State) (i : IssueCtx) : Prop :=
  Each i (fun t => ∀ sb, f.sb = some sb → SlotFree s t.id sb.toNat 1)
  ∧ ∀ t ∈ f.accessors i,
      FieldsFree t i.beforeQ (.vv a i.pfx.ua :: f.d.map (· i)) ((.vv a i.pfx.ua, 0, 8) :: (f.sources i).map (fun x => (x.1, 0, x.2)))
      ∧ (i.pfx.verMode = 1 → Untouched (8 * i.pfx.verSel, 3) i.beforeQ.poison)
      ∧ inRange (addressIn a i t) (f.span i) = true ∧ addressIn a i t % f.align i = 0

/-- The word completes: the access of each thread that accesses enters flight, counted for it or for the whole crew. -/
def AccessCompletes (a : BitVec 6) (f : AccessForm) (w : Instr) : Prop :=
  Completes w (fun s i => f.FreeIn a s i)
    (fun s i => s.launchEach i (f.accessors i) (if f.d.any (fun o => (o i).isQ) then fun _ => i.parts.map (·.id) else own) f.la.toNat
      (f.sb.map (·.toNat)) f.pipe (fun t => .mem (f.access a s i t)))

/-! ### Words across a set (R343, R344) -/

/-- A set-level word completes: its members' operands are free; each captures, and the generation is issued with the crew, or with the last
member that signs. -/
def CaptureCompletes (w : Pfx → SetWord) (la : Nat) (sb : Option Nat) (word : Instr) : Prop :=
  Completes word
    (fun s i => Each i (fun t => (∀ n, sb = some n → SlotFree s t.id n 1) ∧ ∀ m, s.team? t.team = some m →
      let p := (w i.pfx).plan { m with regs := i.beforeRegs } t
      RangesFree t (p.reads.map (·.2) ++ p.writes) ∧ ∀ r ∈ p.reads, Untouched r.2 t.winPoison))
    (fun s i => match i.parts.head?.bind (fun t => s.team? t.team) with
      | none => s
      | some m => match i.signed with
        | none =>
          let r := s.captureAll i (w i.pfx) m la sb (i.parts.zip (List.range i.parts.length))
          r.2.issueGen m.id (w i.pfx) r.1
        | some n =>
          let c := m.cvs.getD n {}
          let r := s.captureAll i (w i.pfx) m la sb (i.parts.filterMap (fun t => (c.memberOf t).map (fun k => (t, popcount k c.mask.toNat))))
          if c.signed = c.mask then (r.2.modCv m.id n (fun c => { c with signed := 0, captures := [] })).issueGen m.id (w i.pfx) (c.captures ++ r.1)
          else r.2.modCv m.id n (fun d => { d with captures := c.captures ++ r.1 }))

end Sys2Proof.Claims

open Sys2Proof Sys2Proof.Machine Sys2Proof.Claims

/-! ### Encoding -/

/-- Decoding the word of a well-formed instruction gives it back, with every operand, for every tie and hint (a modifier word takes
no hint, R58). -/
def Obligations.DecodeEncode : Prop :=
  ∀ (i : Instr) (t : Bool) (h : BitVec 2), i.wf = true → (i.modifier?.isSome = true → h = 0) →
    ∃ w, encodeWith t h i = some w ∧ wordT w = t ∧ wordH w = h.toNat ∧ decodeWord w = .ok i

/-- A word that decodes is the one word of its instruction, tie and hint: no bit of it is dropped. -/
def Obligations.EncodeDecode : Prop :=
  ∀ (w : W32) (i : Instr), decodeWord w = .ok i → i.wf = true ∧ encodeWith (wordT w) (BitVec.ofNat 2 (wordH w)) i = some w

/-- What decoding refuses in a word by itself: an OP no row assigns (R44 step 1); a word of format N with a bit of its body set, OP 0 with
an empty body being `nop` (R36); a modifier word of a kind that names none, kinds 1 to 5 naming theirs (R47). -/
def Obligations.ReservedWordsRefused : Prop :=
  ∀ w : W32,
    let op := w.toNat / 2 ^ 20 % 2 ^ 9
    let body := w.toNat % 2 ^ 20
    let kind := w.toNat / 2 ^ 16 % 2 ^ 4
    let payload : BitVec 16 := w.setWidth 16
    (opAssigned op = false → decodeWord w = .error .illegalOp)
    ∧ (op ∈ [0, 5, 6, 7, 9, 0x13, 0x21, 0x149] → body ≠ 0 → decodeWord w = .error .illegalOp)
    ∧ (op = 0 → body = 0 → decodeWord w = .ok .nop)
    ∧ (op = 0x30 → (kind = 0 ∨ 6 ≤ kind → decodeWord w = .error .illegalOp)
      ∧ ∀ i, decodeWord w = .ok i →
          (kind = 1 ∧ i = .blk payload) ∨ (kind = 2 ∧ i = .ext payload) ∨ (kind = 3 ∧ i = .grd payload) ∨ (kind = 4 ∧ i = .ver payload)
            ∨ (kind = 5 ∧ i = .fmt payload))

/-- Words written out bit by bit from their formats (R29, R31) decode to what they stand for. -/
def Obligations.SampleWordsDecode : Prop :=
  decodeWord (0b0#1 ++ 0b00#2 ++ 0x044#9 ++ 5#6 ++ 6#6 ++ 7#6 ++ 1#2) = .ok (.add 5 6 7 1)
  ∧ decodeWord (0b1#1 ++ 0b01#2 ++ 0x070#9 ++ 63#6 ++ 0#6 ++ 0xFF#8) = .ok (.addImm 63 0 0xFF)
  ∧ decodeWord (0b0#1 ++ 0b00#2 ++ 0x041#9 ++ 1#6 ++ 0x2ABC#14) = .ok (.movi 1 0x2ABC)
  ∧ decodeWord (0b0#1 ++ 0b00#2 ++ 0x158#9 ++ 8#6 ++ 9#6 ++ 15#4 ++ 7#3 ++ 1#1) = .ok (.ld 8 9 15 7 1)
  ∧ decodeWord (0b0#1 ++ 0b00#2 ++ 0x183#9 ++ 4#4 ++ 2#4 ++ 1#4 ++ 0#4 ++ 3#3 ++ 1#1) = .ok (.mmaH 4 2 1 0 3 1)
  ∧ decodeWord (0b0#1 ++ 0b00#2 ++ 0x002#9 ++ 3#3 ++ 1#1 ++ 0xFFFE#16) = .ok (.bp 3 1 0xFFFE)
  ∧ decodeWord (0b1#1 ++ 0b00#2 ++ 0x030#9 ++ 2#4 ++ 0xE000#16) = .ok (.ext 0xE000)
  ∧ decodeWord (0b0#1 ++ 0b11#2 ++ 0x007#9 ++ 0#20) = .ok .exit

/-! ### Integer words -/

/-- The element-wise integer words of two operands (R187, R183). A shift reads the bytes of a that its count keeps, and a rotation one byte of
its count (R181); that this is what these words read is the model's reading (log 31). -/
def Obligations.IntegerBinary : Prop :=
  ∀ (d a b : BitVec 6) (m : BitVec 2),
    let word := fun (f : (w : Nat) → BitVec w → BitVec w → BitVec w) (x : Pfx) => wordOf x d a b m false (fun w u v _ => f w u v)
    let shift := fun (bytes : Nat) (f : (w : Nat) → BitVec w → BitVec w → BitVec w) (x : Pfx) => wordShift x d a b m bytes f
    LaneCompletes (exec (.add d a b m)) (word (fun _ x y => x + y))
    ∧ LaneCompletes (exec (.sub d a b m)) (word (fun _ x y => x - y))
    ∧ LaneCompletes (exec (.mul d a b m)) (word (fun _ x y => x * y))
    ∧ LaneCompletes (exec (.mulhSigned d a b m)) (word (fun w x y => BitVec.ofInt w (x.toInt * y.toInt / 2 ^ w)))
    ∧ LaneCompletes (exec (.mulhUnsigned d a b m)) (word (fun w x y => BitVec.ofNat w (x.toNat * y.toNat / 2 ^ w)))
    ∧ LaneCompletes (exec (.and d a b m)) (word (fun _ x y => x &&& y))
    ∧ LaneCompletes (exec (.or d a b m)) (word (fun _ x y => x ||| y))
    ∧ LaneCompletes (exec (.xor d a b m)) (word (fun _ x y => x ^^^ y))
    ∧ LaneCompletes (exec (.andn d a b m)) (word (fun _ x y => x &&& ~~~y))
    ∧ LaneCompletes (exec (.shl d a b m)) (shift 8 (fun w x y => if w ≤ y.toNat then 0 else x <<< y.toNat))
    ∧ LaneCompletes (exec (.shr d a b m)) (shift 8 (fun w x y => if w ≤ y.toNat then 0 else x >>> y.toNat))
    ∧ LaneCompletes (exec (.sar d a b m)) (shift 8 (fun w x y => x.sshiftRight (min y.toNat (w - 1))))
    ∧ LaneCompletes (exec (.rol d a b m)) (shift 1 (fun w x y => x.rotateLeft (y.toNat % w)))
    ∧ LaneCompletes (exec (.minSigned d a b m)) (word (fun _ x y => if x.slt y then x else y))
    ∧ LaneCompletes (exec (.minUnsigned d a b m)) (word (fun _ x y => if x.ult y then x else y))
    ∧ LaneCompletes (exec (.maxSigned d a b m)) (word (fun _ x y => if x.slt y then y else x))
    ∧ LaneCompletes (exec (.maxUnsigned d a b m)) (word (fun _ x y => if x.ult y then y else x))

/-- The element-wise integer words of one operand (R187). -/
def Obligations.IntegerUnary : Prop :=
  ∀ (d a : BitVec 6) (m : BitVec 2),
    let word := fun (f : (w : Nat) → BitVec w → BitVec w) (x : Pfx) => wordOf1 x d a m f
    LaneCompletes (exec (.not d a m)) (word (fun _ x => ~~~x))
    ∧ LaneCompletes (exec (.abs d a m)) (word (fun _ x => if x.msb then -x else x))
    ∧ LaneCompletes (exec (.neg d a m)) (word (fun _ x => -x))
    ∧ LaneCompletes (exec (.popc d a m)) (word (fun _ x => ones x))
    ∧ LaneCompletes (exec (.clz d a m)) (word (fun _ x => leadingZeros x))
    ∧ LaneCompletes (exec (.ctz d a m)) (word (fun _ x => trailingZeros x))
    ∧ LaneCompletes (exec (.brev d a m)) (word (fun _ x => x.reverse))

/-- The words that also read d: `mad` (R187) and `sel` (R190); the carry chains `addc` and `subb`, which leave the carry out of, or
borrow into, each element in its bit of `cr.icarry` and the bits above alone (R188). -/
def Obligations.IntegerWithState : Prop :=
  ∀ (d a b : BitVec 6) (m : BitVec 2),
    let chained := fun (f : Int → Int → Int → Int) (x : Pfx) => ({
      d := some (opD x d), a := some (opA x a), b := some (opB x b), reads := fun _ => (0, 0xFF, 0xFF)
      run := fun y =>
        let w := widthOf m
        let r := fun e => f (element w e y.a).toNat (element w e y.b).toNat (y.icarry.getLsbD e).toNat
        { d := some (elementwise w (fun e => BitVec.ofInt w (r e)))
          icarry := some (byteOf (fun e => if e < 64 / w then decide (r e < 0 ∨ 2 ^ w ≤ r e) else y.icarry.getLsbD e)) } } : LaneWord)
    LaneCompletes (exec (.mad d a b m)) (fun x => wordOf x d a b m true (fun _ u v z => u * v + z))
    ∧ LaneCompletes (exec (.sel d a b m)) (fun x => wordOf x d a b 0 true (fun _ u v z => (u &&& z) ||| (v &&& ~~~z)))
    ∧ LaneCompletes (exec (.addc d a b m)) (chained (fun x y c => x + y + c))
    ∧ LaneCompletes (exec (.subb d a b m)) (chained (fun x y c => x - y - c))

/-- Moves and address sums: `mov` copies the E bytes of the view that m names (R184); `movi` writes its sign-extended immediate, of 27
bits with a nonzero IMMX, `movh` shifts d left by 14 bits and writes its immediate below (R185); `lea` adds b scaled by s (R192). -/
def Obligations.MovesAndAddresses : Prop :=
  ∀ (d a b : BitVec 6) (m : BitVec 2) (imm : BitVec 14),
    LaneCompletes (exec (.mov d a m)) (fun x =>
      { d := some { view := m.toNat, reg := d.toNat, isQ := x.ud, step := x.bd }, a := some { view := m.toNat, reg := a.toNat, isQ := x.ua, step := x.ba }
        reads := fun _ => (0, 0xFFFFFFFF, 0), run := fun y => { d := some y.a } })
    ∧ LaneCompletes (exec (.movi d imm)) (fun x =>
      { d := some (opD x d), reads := fun _ => (0, 0, 0)
        run := fun _ =>
          let v : BitVec 27 := BitVec.ofNat 13 x.immx ++ imm
          { d := some (if x.immx = 0 then imm.signExtend 64 else v.signExtend 64).toNat } })
    ∧ LaneCompletes (exec (.movh d imm)) (fun x =>
      { d := some (opD x d), reads := fun _ => (0x7F, 0, 0)
        run := fun y => { d := some (BitVec.ofNat 64 y.d <<< 14 ||| imm.setWidth 64).toNat } })
    ∧ LaneCompletes (exec (.lea d a b m)) (fun x => wordOf x d a b 0 false (fun _ u v _ => u + v <<< (3 - m.toNat)))

/-- `bfx` takes a field of every element, sign- or zero-extended; `bfi` puts one in and leaves the other bits (R191). Only the bytes
that hold the field are read, and only those written. -/
def Obligations.BitFields : Prop :=
  ∀ (d a b : BitVec 6) (m : BitVec 2),
    let w := widthOf m
    let at_ := fun (y : LaneIn) => fld y.b 0 6
    let len := fun (y : LaneIn) => if w ≤ at_ y then 0 else min (fld y.b 8 7) (w - at_ y)
    let taken := fun (signed : Bool) (x : Pfx) => ({
      d := some (opD x d), a := some (opA x a), b := some (opB x b), reads := fun y => (0, fieldBytes w (at_ y) (len y), 3)
      run := fun y => { d := some (elementwise w (fun e =>
        let f := (element w e y.a).extractLsb' (at_ y) (len y)
        if len y = 0 then 0 else if signed then f.signExtend w else f.setWidth w)) } } : LaneWord)
    LaneCompletes (exec (.bfxSigned d a b m)) (taken true)
    ∧ LaneCompletes (exec (.bfxUnsigned d a b m)) (taken false)
    ∧ LaneCompletes (exec (.bfi d a b m)) (fun x =>
      { d := some (opD x d), a := some (opA x a), b := some (opB x b)
        reads := fun y => (fieldBytes w (at_ y) (len y) - fieldWhole w (at_ y) (len y), fieldBytes w 0 (len y), 3)
        run := fun y =>
          let mask : BitVec w := (BitVec.allOnes w >>> (w - len y)) <<< at_ y
          { d := some (elementwise w (fun e => (element w e y.d &&& ~~~mask) ||| ((element w e y.a <<< at_ y) &&& mask)))
            dMask := fieldBytes w (at_ y) (len y) } })

/-- The immediate forms act on one 64-bit element with y from 8 bits, or 21 with a nonzero IMMX (R193). Of a they read the bytes on
which the result depends (R181), the model's reading of which these are (log 31). -/
def Obligations.ImmediateForms : Prop :=
  ∀ (d a : BitVec 6) (p cond : BitVec 3) (imm : BitVec 8),
    let word := fun (f : W64 → W64 → W64) (x : Pfx) => wordImm x d a (immediate x true imm) f
    let shift := fun (f : W64 → W64 → W64) (x : Pfx) => wordImm x d a (imm.setWidth 64) f
    let test := fun (signed : Bool) (x : Pfx) => ({
      a := some (opA x a), reads := fun _ => (0, 0xFF, 0)
      run := fun y => { p := some (p.toNat, condition signed cond (element 64 0 y.a) (immediate x signed imm)) } } : LaneWord)
    LaneCompletes (exec (.addImm d a imm)) (word (fun x y => x + y))
    ∧ LaneCompletes (exec (.andImm d a imm)) (word (fun x y => x &&& y))
    ∧ LaneCompletes (exec (.orImm d a imm)) (word (fun x y => x ||| y))
    ∧ LaneCompletes (exec (.xorImm d a imm)) (word (fun x y => x ^^^ y))
    ∧ LaneCompletes (exec (.mulImm d a imm)) (word (fun x y => x * y))
    ∧ (imm.toNat < 64 →
      LaneCompletes (exec (.shlImm d a imm)) (shift (fun x y => x <<< y.toNat))
      ∧ LaneCompletes (exec (.shrImm d a imm)) (shift (fun x y => x >>> y.toNat))
      ∧ LaneCompletes (exec (.sarImm d a imm)) (shift (fun x y => x.sshiftRight y.toNat)))
    ∧ LaneCompletes (exec (.cmpSignedImm p cond a imm)) (test true)
    ∧ LaneCompletes (exec (.cmpUnsignedImm p cond a imm)) (test false)

/-- Words that write a predicate: `cmp` of the low elements (R189), `pand`, `por`, `pxor` (R194), the three modes of `pmov`
(R195). -/
def Obligations.PredicateWords : Prop :=
  (∀ (p cond : BitVec 3) (a b : BitVec 6) (m : BitVec 2), cond.toNat ≤ 5 →
    LaneCompletes (exec (.cmpSigned p cond a b m)) (fun x => wordTest x p a b m (fun _ u v => condition true cond u v))
    ∧ LaneCompletes (exec (.cmpUnsigned p cond a b m)) (fun x => wordTest x p a b m (fun _ u v => condition false cond u v)))
  ∧ (∀ (d : BitVec 3) (na : BitVec 1) (a : BitVec 3) (nb : BitVec 1) (b : BitVec 3),
    LaneCompletes (exec (.pand d na a nb b)) (fun _ => wordPred d na a nb b and)
    ∧ LaneCompletes (exec (.por d na a nb b)) (fun _ => wordPred d na a nb b or)
    ∧ LaneCompletes (exec (.pxor d na a nb b)) (fun _ => wordPred d na a nb b xor))
  ∧ (∀ (d a : BitVec 6),
    let pa := fun (y : LaneIn) => xor (y.preds.getLsbD (a.toNat % 8)) (a.getLsbD 5)
    LaneCompletes (exec (.pmov d a 0)) (fun _ => { reads := fun _ => (0, 0, 0), run := fun y => { p := some (d.toNat % 8, pa y) } })
    ∧ LaneCompletes (exec (.pmov d a 1)) (fun x =>
      { d := some (opD x d), reads := fun _ => (0, 0, 0), run := fun y => { d := some (if pa y then (BitVec.allOnes 64).toNat else 0) } })
    ∧ LaneCompletes (exec (.pmov d a 2)) (fun x =>
      { a := some (opA x a), reads := fun _ => (0, 0xFF, 0), run := fun y => { p := some (d.toNat % 8, y.a != 0) } }))

/-- `vwset` (R186): from the first four bytes of a register, or by a signed number of registers; where the view would be invalid under R165, VIEW_RANGE in
that thread alone and no view changes. -/
def Obligations.ViewSetting : Prop :=
  ∀ (view a : BitVec 6) (mode : BitVec 1) (step : BitVec 7), view.toNat ≤ 3 →
    let e : Int := viewE view.toNat
    let reg := fun (x : Pfx) => Operand.vv a x.ua
    let new := fun (i : IssueCtx) (t : Thread) =>
      let v := ((reg i.pfx).val t i.beforeQ)
      if mode = 0 then (((v.extractLsb' 0 12).toNat : Int), ((v.extractLsb' 16 12).toNat : Int))
      else (((t.view view.toNat).base : Int) + step.toInt * e, ((t.view view.toNat).stride : Int))
    let valid := fun (i : IssueCtx) (t : Thread) =>
      0 ≤ (new i t).1 ∧ (new i t).1 < t.winSize ∧ (new i t).1 % e = 0 ∧ (new i t).2 % e = 0 ∧ e ≤ (new i t).2 ∧ (new i t).2 ≤ t.winSize
    let free := fun (i : IssueCtx) => mode = 0 → Each i (fun t => FieldsFree t i.beforeQ [reg i.pfx] [(reg i.pfx, 0, 4)])
    Completes (.vwset view a mode step) (fun _ i => free i ∧ Each i (valid i))
      (fun s i => s.modThreads i.parts (fun t live => { live with views := live.views.set view.toNat ⟨(new i t).1.toNat, (new i t).2.toNat⟩ }))
    ∧ ∀ (s : State) (i : IssueCtx), s.ctl.issue = some i → i.checked = false → free i → (∃ t ∈ i.parts, ¬valid i t) →
      ∃ xs, exec (.vwset view a mode step) s = .next ((s.takeTraps xs i.active i.pkt i.entry).modIssue (fun i => { i with status := .raised xs }))
        ∧ ∀ t ∈ i.parts, (¬valid i t ↔ ∃ x ∈ xs, x.tid = t.id ∧ x.cause = Cause.viewRange)

/-- What an element-wise word writes and what it leaves alone. Without a block and with its destination in the window: the destination's
bytes become the result's, least significant first, and lose their poison; no other byte, predicate or view of the thread changes; flags
are ORed (R91, R168, R182). Of every such word (R107, R108): but for the crew's copy of its `q` destination, nothing but threads changes,
and of them only window bytes, predicates, flags, generator and carry of the participants (of the active members, flags of a uniform
word). That a uniform word draws from the first active member's generator is the model's choice (log 12). -/
def Obligations.LaneWordWritesOnlyItsDestination : Prop :=
  (∀ (w : LaneWord) (x : Pfx) (t live : Thread) (q : QCopy) (o : Operand) (v : Nat),
     let l := w.go x t q
     let y := w.run { d := ({ t, q } : LaneState).get w.d 0 0, a := ({ t, q } : LaneState).get w.a 0 0, b := ({ t, q } : LaneState).get w.b 0 0
                      preds := t.ctx.preds, icarry := t.icarry, seed := t.ctx.srseed }
     let off := o.off t 0 0
     let after := live.applyLane t l
     x.blk = none → w.d = some o → o.isQ = false → y.d = some v → y.dMask = 0xFFFFFFFF → y.p = none → o.len ≤ 32 → Mem.wf live.win = true →
       (∀ k, k < o.len → after.win.read (off + k) = BitVec.ofNat 8 (v / 256 ^ k) ∧ off + k ∉ after.winPoison)
       ∧ (∀ p, p < off ∨ off + o.len ≤ p → after.win.read p = live.win.read p ∧ (p ∈ after.winPoison ↔ p ∈ live.winPoison))
       ∧ after.ctx.fflags = live.ctx.fflags ||| y.flags.bits
       ∧ after = { live with win := after.win, winPoison := after.winPoison, icarry := after.icarry
                             ctx := { live.ctx with fflags := after.ctx.fflags, srseed := after.ctx.srseed } })
  ∧ ∀ (s : State) (i : IssueCtx) (w : LaneWord),
      let after := laneAfter s i w
      (i.pfx.ud = false → OnlyThreads s after)
      ∧ after = { s with threads := after.threads, crews := after.crews }
      ∧ (∀ u, u ∉ i.parts.map (·.id) → u ∉ i.active → after.thread? u = s.thread? u)
      ∧ (∀ u t, s.thread? u = some t → ∃ t', after.thread? u = some t'
          ∧ t' = { t with win := t'.win, winPoison := t'.winPoison, icarry := t'.icarry
                          ctx := { t.ctx with preds := t'.ctx.preds, fflags := t'.ctx.fflags, srseed := t'.ctx.srseed } })
      ∧ (∀ c, c ≠ i.crew → after.crew? c = s.crew? c)

/-! ### Floating-point words -/

/-- Arithmetic words: the exact result of each element, rounded once in the mode of `fmt` (R197, R198); the dot products sum their
products and the accumulator exactly and round once.
`fscale` of a finite x by k rounds x 2^k once, and `fexp` gives floor(log2 |x|) exactly, without a flag (R197, R198). -/
def Obligations.FloatArithmetic : Prop :=
  ∀ (d a b : BitVec 6) (m : BitVec 2),
    let k := m.toNat + 1
    let w := fmtBits k
    let word := fun (mask : Nat) (f : Bool → FpVal → FpVal → FpVal → Exact) (x : Pfx) =>
      floatWordOf x d a (some b) w (64 / w) x.rm (mask, 0xFF, 0xFF) (fun y e g =>
        roundTo k x.rm x.sat g (f (x.rm == 3) (fpDecode k (elem w e y.a)) (fpDecode k (elem w e y.b)) (fpDecode k (elem w e y.d))))
    let dot := fun (src dst n : Nat) (x : Pfx) =>
      let v := fmtBits dst
      floatWordOf x d a (some b) v (64 / v) x.rm (0xFF, 0xFF, 0xFF) (fun y e g =>
        roundTo dst x.rm x.sat g (exactSum (x.rm == 3) ((fpDecode dst (elem v e y.d)).exact :: (List.range n).map (fun j =>
          fpMul (fpDecode src (elem (fmtBits src) (n * e + j) y.a)) (fpDecode src (elem (fmtBits src) (n * e + j) y.b))))))
    LaneCompletes (exec (.fadd d a b m)) (word 0 (fun dn x y _ => exactSum dn [x.exact, y.exact]))
    ∧ LaneCompletes (exec (.fsub d a b m)) (word 0 (fun dn x y _ => exactSum dn [x.exact, y.negate.exact]))
    ∧ LaneCompletes (exec (.fmul d a b m)) (word 0 (fun _ x y _ => fpMul x y))
    ∧ LaneCompletes (exec (.fma d a b m)) (word 0xFF (fun dn x y z => exactSum dn [fpMul x y, z.exact]))
    ∧ LaneCompletes (exec (.fnma d a b m)) (word 0xFF (fun dn x y z => exactSum dn [z.exact, fpMul x.negate y]))
    ∧ LaneCompletes (exec (.fscale d a b m)) (fun x => floatWordOf x d a (some b) w (64 / w) x.rm (0, 0xFF, 0xFF) (fun y e g =>
        roundTo k x.rm x.sat g (scaleExact (fpDecode k (elem w e y.a)) (element w e y.b).toInt)))
    ∧ LaneCompletes (exec (.fexp d a m)) (fun x => floatWordOf x d a none w (64 / w) 0 (0, 0xFF, 0) (fun y e _ => fexpElem k (elem w e y.a)))
    ∧ (m ≠ 0 → LaneCompletes (exec (.fdot2 d a b m)) (dot k (if m = 1 then 1 else 2) 2))
    ∧ LaneCompletes (exec (.fdot4 d a b m)) (if m.toNat ≤ 1 then dot (m.toNat + 5) 2 4 else dot k 1 4)
    ∧ ∀ (bits : Nat) (n : Bool) (x : Nat) (e : Int), bits < 2 ^ w → fpDecode k bits = .fin n x e → x ≠ 0 →
        (∀ (j : Int) (rm g : Nat) (sat : Bool), rm ≤ 5 →
          roundTo k rm sat g (scaleExact (.fin n x e) j) = roundTo k rm sat g (.num n x (e + j) false))
        ∧ ∀ p : Int, (2 : ℚ) ^ p ≤ (x : ℚ) * 2 ^ e → (x : ℚ) * 2 ^ e < 2 ^ (p + 1) →
            ∃ n' x' e', fpDecode k (fexpElem k bits).bits = .fin n' x' e' ∧ valueOf n' x' e' = p ∧ (fexpElem k bits).flags = {}

/-- Words that choose, test or change bits: `fabs` clears and `fneg` inverts the sign and keeps every other bit; `fsel` keeps every
bit of the element it chooses by the old d; `fmin`, `fmax`, `fclass`, `frnd` element by element; `fcmp` compares element 0 and sets
NV on any NaN for the four ordered conditions, on a signalling one for the others (R197, R199-R202). What the five element
operations give: minimum and maximum with NaNs, signed zeros and signalling NaNs, the class mask, the integral value that the mode names with
the sign kept, the special operands (R198, R199, R201, R202). -/
def Obligations.FloatSelection : Prop :=
  ∀ (d a b : BitVec 6) (m : BitVec 2) (p cond : BitVec 3),
    let k := m.toNat + 1
    let w := fmtBits k
    let bitsOf := fun (f : BitVec w → BitVec w) (x : Pfx) =>
      floatWordOf x d a none w (64 / w) 0 (0, 0xFF, 0) (fun y e _ => { bits := (f (element w e y.a)).toNat })
    LaneCompletes (exec (.fabs d a m)) (bitsOf (fun v => v &&& ~~~BitVec.twoPow w (w - 1)))
    ∧ LaneCompletes (exec (.fneg d a m)) (bitsOf (fun v => v ^^^ BitVec.twoPow w (w - 1)))
    ∧ LaneCompletes (exec (.fsel d a b m)) (fun x =>
      { d := some (opD x d), a := some (opA x a), b := some (opB x b)
        reads := fun y => (0xFF, elemBytes w (fun e => elem w e y.d != 0), elemBytes w (fun e => elem w e y.d == 0))
        run := fun y => { d := some (elementwise w (fun e => if element w e y.d ≠ 0 then element w e y.a else element w e y.b)) } })
    ∧ LaneCompletes (exec (.fmin d a b m)) (fun x => floatWordOf x d a (some b) w (64 / w) 0 (0, 0xFF, 0xFF) (fun y e _ => fpMinMax k false (elem w e y.a) (elem w e y.b)))
    ∧ LaneCompletes (exec (.fmax d a b m)) (fun x => floatWordOf x d a (some b) w (64 / w) 0 (0, 0xFF, 0xFF) (fun y e _ => fpMinMax k true (elem w e y.a) (elem w e y.b)))
    ∧ LaneCompletes (exec (.fclass d a m)) (fun x => floatWordOf x d a none w (64 / w) 0 (0, 0xFF, 0) (fun y e _ => { bits := fpClass k (elem w e y.a) }))
    ∧ LaneCompletes (exec (.frnd d a m)) (fun x => floatWordOf x d a none w (64 / w) 0 (0, 0xFF, 0) (fun y e _ => frndElem k x.rm (elem w e y.a)))
    ∧ LaneCompletes (exec (.fcmp p cond a b m)) (fun x =>
      { a := some (opA x a), b := some (opB x b), reads := fun _ => (0, 2 ^ (w / 8) - 1, 2 ^ (w / 8) - 1)
        run := fun y =>
          let u := fpDecode k (elem w 0 y.a)
          let v := fpDecode k (elem w 0 y.b)
          let un := u.isNaN || v.isNaN
          let truth := match cond.toNat with
            | 0 => !un && !fpLess u v && !fpLess v u
            | 1 => un || fpLess u v || fpLess v u
            | 2 => !un && fpLess u v
            | 3 => !un && !fpLess v u
            | 4 => !un && fpLess v u
            | 5 => !un && !fpLess u v
            | 6 => un
            | _ => !un
          { p := some (p.toNat, truth)
            flags := { nv := if 2 ≤ cond.toNat ∧ cond.toNat ≤ 5 then un else u.isSignalling || v.isSignalling } } })
    ∧ (∀ u v : Nat, u < 2 ^ w → v < 2 ^ w →
        let x := fpDecode k u
        let y := fpDecode k v
        ∀ big : Bool,
          let r := fpMinMax k big u v
          r.flags = { nv := x.isSignalling || y.isSignalling }
          ∧ (x.isNaN = true → y.isNaN = true → r.bits = fpNaN k) ∧ (x.isNaN = true → y.isNaN = false → r.bits = v)
          ∧ (x.isNaN = false → y.isNaN = true → r.bits = u)
          ∧ (x.isNaN = false → y.isNaN = false →
            (less x y ∨ (¬less y x ∧ u.testBit (w - 1) = true ∧ v.testBit (w - 1) = false) → r.bits = if big then v else u)
            ∧ (less y x ∨ (¬less x y ∧ v.testBit (w - 1) = true ∧ u.testBit (w - 1) = false) → r.bits = if big then u else v)))
    ∧ (∀ v : Nat, v < 2 ^ w → match fpDecode k v with
        | .nan s => fpClass k v = 2 ^ (if s then 8 else 9)
            ∧ frndElem k 0 v = { bits := fpNaN k, flags := { nv := s } } ∧ fexpElem k v = { bits := fpNaN k, flags := { nv := s } }
        | .inf n => fpClass k v = 2 ^ (if n then 0 else 7) ∧ (∀ rm, frndElem k rm v = { bits := v }) ∧ fexpElem k v = { bits := fpInfBits k }
        | .fin n x e =>
          let size : ℚ := (x : ℚ) * 2 ^ e
          (x = 0 → fpClass k v = 2 ^ (if n then 3 else 4) ∧ (∀ rm, frndElem k rm v = { bits := v })
            ∧ fexpElem k v = { bits := 2 ^ (w - 1) + fpInfBits k, flags := { dz := true } })
          ∧ (x ≠ 0 → fpClass k v = 2 ^ (if size < 2 ^ fpEmin k then (if n then 2 else 5) else if n then 1 else 6)
            ∧ ∀ rm ≤ 3,
                let r := roundAt rm n x e false 0 0
                ∃ x' e', fpDecode k (frndElem k rm v).bits = .fin n x' e' ∧ (x' : ℚ) * 2 ^ e' = r.1 ∧ (frndElem k rm v).flags = { nx := r.2 }))

/-- Conversions: `fcvt` of as many elements as both formats hold, zeros above them (R203); `fpack` of a, then b, into half the width,
`funpack` of one half into the full width, with the default formats where `fmt` gives none (R204). -/
def Obligations.FloatConversion : Prop :=
  ∀ (d a b : BitVec 6) (df sf : BitVec 4) (half : BitVec 1),
    let other := fun (code default : Nat) => if code = 0 then default else code
    LaneCompletes (exec (.fcvt d a df sf)) (fun x =>
      let n := min (64 / fmtBits sf.toNat) (64 / fmtBits df.toNat)
      floatWordOf x d a none (fmtBits df.toNat) n x.rm (0, 2 ^ ((n * fmtBits sf.toNat + 7) / 8) - 1, 0) (fun y e g =>
        convertElem df.toNat sf.toNat x.rm x.sat g (elem (fmtBits sf.toNat) e y.a)))
    ∧ LaneCompletes (exec (.fpack d a b)) (fun x =>
      let dst := other x.dfmt 4
      let src := other x.sfmt 2
      let h := 64 / fmtBits src
      floatWordOf x d a (some b) (fmtBits dst) (2 * h) x.rm (0, 0xFF, 0xFF) (fun y e g =>
        convertElem dst src x.rm x.sat g (if e < h then elem (fmtBits src) e y.a else elem (fmtBits src) (e - h) y.b)))
    ∧ LaneCompletes (exec (.funpack d a half)) (fun x =>
      let dst := other x.dfmt 2
      let src := other x.sfmt 4
      let h := 64 / fmtBits dst
      floatWordOf x d a none (fmtBits dst) h 0 (0, if half = 0 then 0x0F else 0xF0, 0) (fun y e _ =>
        convertElem dst src 0 false 0 (elem (fmtBits src) (half.toNat * h + e) y.a)))

/-- Rounding takes the neighbour that its mode names (R80): of the multiples of 2^q around a value, nearest with ties to even, toward
zero, up, down, nearest with ties away, the draw's (R81); it is inexact exactly where the value is no such multiple. A result above the largest
finite value once rounded with an unbounded exponent range overflows as R85 has it, stochastic rounding to infinity where it chose the larger
magnitude (a value exact in the unbounded range then gives the largest finite one: the model's choice, log 31); any other is rounded with the
format's spacing, UF where it is inexact and tiny (R80, R81). A value of a format rounds to itself
in every mode, and sets no flag. -/
def Obligations.RoundingTakesTheRightNeighbour : Prop :=
  (∀ (rm : Nat) (neg : Bool) (m : Nat) (e q : Int) (g : Nat), rm ≤ 5 →
     let x : ℚ := (m : ℚ) * 2 ^ e
     let lo : Nat := ⌊x / 2 ^ q⌋.toNat
     let r := roundAt rm neg m e false g q
     (r.2 = false → (r.1 : ℚ) * 2 ^ q = x)
     ∧ (r.2 = true → (lo : ℚ) * 2 ^ q < x ∧ x < (lo + 1 : ℚ) * 2 ^ q ∧ (r.1 = lo ∨ r.1 = lo + 1)
       ∧ (rm = 0 → 2 * |(r.1 : ℚ) * 2 ^ q - x| ≤ 2 ^ q ∧ (2 * |(r.1 : ℚ) * 2 ^ q - x| = 2 ^ q → r.1 % 2 = 0))
       ∧ (rm = 1 → r.1 = lo)
       ∧ (rm = 2 → r.1 = if neg then lo else lo + 1)
       ∧ (rm = 3 → r.1 = if neg then lo + 1 else lo)
       ∧ (rm = 4 → 2 * |(r.1 : ℚ) * 2 ^ q - x| ≤ 2 ^ q ∧ (2 * |(r.1 : ℚ) * 2 ^ q - x| = 2 ^ q → r.1 = lo + 1))
       ∧ (rm = 5 → r.1 = if g < ⌊(x / 2 ^ q - lo) * 65536⌋.toNat then lo + 1 else lo)))
  ∧ (∀ (f bits rm g : Nat) (sat neg : Bool) (m : Nat) (e : Int),
       1 ≤ f → f ≤ 7 → bits < 2 ^ fmtBits f → fpDecode f bits = .fin neg m e → roundTo f rm sat g (.num neg m e false) = { bits, flags := {} })
  ∧ ∀ (f rm g : Nat) (sat neg : Bool) (m : Nat) (e : Int) (big : Nat) (eBig : Int), 1 ≤ f → f ≤ 7 → rm ≤ 5 → m ≠ 0 →
      fpDecode f (fpMaxBits f) = .fin false big eBig →
      let max : ℚ := (big : ℚ) * 2 ^ eBig
      let ulp : Int := e + (Nat.log2 m : Nat) - (fpFmt f).fbits
      let least : Int := fpEmin f - (fpFmt f).fbits
      let free := roundAt rm neg m e false g ulp
      let kept := roundAt rm neg m e false g (if ulp < least then least else ulp)
      let unbounded : ℚ := (free.1 : ℚ) * 2 ^ ulp
      let away := rm = 0 ∨ (rm = 2 ∧ neg = false) ∨ (rm = 3 ∧ neg = true) ∨ rm = 4
        ∨ (rm = 5 ∧ free.2 = true ∧ (m : ℚ) * 2 ^ e < unbounded)
      let r := roundTo f rm sat g (.num neg m e false)
      (max < unbounded → r.flags = { ov := true, nx := true }
        ∧ (sat = true ∨ f = 7 ∨ ¬away → r.bits = fpSign f neg + fpMaxBits f)
        ∧ (sat = false → f ≠ 7 → away → r.bits = if f = 5 then fpNaN 5 else fpSign f neg + fpInfBits f))
      ∧ (unbounded ≤ max → r.flags = { uf := kept.2 && decide (unbounded < 2 ^ fpEmin f), nx := kept.2 }
        ∧ ∃ m' e', fpDecode f r.bits = .fin neg m' e' ∧ (m' : ℚ) * 2 ^ e' = (kept.1 : ℚ) * 2 ^ (if ulp < least then least else ulp))

/-- A draw of a thread's generator (R82), as numbers of 32 bits; a conversion to an integer format saturates, whatever SAT holds: a NaN
gives 0, an infinity or a rounded value outside the format its maximum or minimum, each with NV and without NX; a rounded value in range
is that value, with NX where inexact (R87, R78). -/
def Obligations.DrawsAndIntegerConversions : Prop :=
  (∀ s : BitVec 32,
     let a := if s = 0 then 1 else s.toNat
     let b := (a ^^^ a * 2 ^ 13) % 2 ^ 32
     let c := b ^^^ b / 2 ^ 17
     (srStep s).toNat = (c ^^^ c * 2 ^ 5) % 2 ^ 32 ∧ srDraw s = s.toNat / 2 ^ 16)
  ∧ ∀ (k sf rm g bits : Nat) (sat : Bool), 8 ≤ k → k ≤ 15 → 1 ≤ sf → sf ≤ 7 →
      let w := fmtBits k
      let lo : Int := if k ≤ 11 then -(2 ^ (w - 1)) else 0
      let hi : Int := if k ≤ 11 then 2 ^ (w - 1) - 1 else 2 ^ w - 1
      let r := convertElem k sf rm sat g bits
      let is := fun (v : Int) (f : Flags) => r.bits = (BitVec.ofInt w v).toNat ∧ r.flags = f
      (∀ q, fpDecode sf bits = .nan q → is 0 { nv := true })
      ∧ (∀ neg, fpDecode sf bits = .inf neg → is (if neg then lo else hi) { nv := true })
      ∧ ∀ neg m e, fpDecode sf bits = .fin neg m e →
          let x := roundAt rm neg m e false g 0
          let v : Int := if neg then -(x.1 : Int) else x.1
          (hi < v → is hi { nv := true }) ∧ (v < lo → is lo { nv := true }) ∧ (lo ≤ v → v ≤ hi → is v { nx := x.2 })

/-- A NaN operand of an addition or a multiplication gives the canonical NaN of its format, NV where an operand is signalling; so do
infinities of unlike sign added and an infinity times zero, with NV (R73, R197); `.f4` has no NaN. The order that `fcmp`, `fmin` and
`fmax` use on other data is that of the values, infinities outside and -0 equal to +0 (R199, R200). -/
def Obligations.SpecialFloatValues : Prop :=
  (∀ (f rm g : Nat) (sat dn : Bool) (x y : FpVal), 1 ≤ f → f ≤ 6 →
     let sig := x.isSignalling || y.isSignalling
     (x.isNaN = true ∨ y.isNaN = true → roundTo f rm sat g (exactSum dn [x.exact, y.exact]) = { bits := fpNaN f, flags := { nv := sig } }
       ∧ roundTo f rm sat g (fpMul x y) = { bits := fpNaN f, flags := { nv := sig } })
     ∧ (∀ n, roundTo f rm sat g (exactSum dn [.inf n, .inf (!n)]) = { bits := fpNaN f, flags := { nv := true } })
     ∧ (∀ n k e, roundTo f rm sat g (fpMul (.inf n) (.fin k 0 e)) = { bits := fpNaN f, flags := { nv := true } }
       ∧ roundTo f rm sat g (fpMul (.fin k 0 e) (.inf n)) = { bits := fpNaN f, flags := { nv := true } }))
  ∧ (∀ x y : FpVal, x.isNaN = false → y.isNaN = false → (fpLess x y = true ↔ less x y))

/-! ### The SFU and the words across a crew -/

/-- An SFU word enters one entry per participant and step of its block into the queue, with its operands as the steps before it leave
them, and each entry counts in the slot (R205, R208, R49); it begins when its slice's queue has room for them (R209). That a word of more entries than
the queue's 32 begins when it is empty, its first entries landing while it issues, is the model's choice (log 23). The next entry of its thread and crew lands, sets its flags in its context and lowers its slot (R208, R91). -/
def Obligations.SfuWords : Prop :=
  (∀ (d a : BitVec 6) (la : BitVec 4) (sb : BitVec 3) (m : BitVec 1) (op : Nat) (word : Instr),
     (op, word) ∈ [(0, Instr.rcp d a la sb m), (1, .rsq d a la sb m), (2, .sqrt d a la sb m), (3, .div d a la sb m), (4, .exp2 d a la sb m),
       (5, .log2 d a la sb m), (6, .sin d a la sb m), (7, .cos d a la sb m), (8, .tanh d a la sb m)] →
     Completes word
       (fun s i =>
         let n := (blockSteps i.pfx).length
         Each i (fun t => SlotFree s t.id sb.toNat (min n 63) ∧ s.sfuQueued t + min (n * i.parts.length) 32 ≤ 32 ∧ s.sfuDrained t = true
           ∧ (sfuLane op (opD i.pfx d) (opA i.pfx a) (m == 1)).FreeIn i.pfx t i.beforeQ))
       (fun s i =>
         let beats := (blockSteps i.pfx).flatMap (fun ij => i.parts.map (fun t => (ij, t)))
         beats.zipIdx.foldl (fun s b =>
           s.sfuEnqueue i op (opD i.pfx d) (opA i.pfx a) la.toNat sb.toNat (m == 1) (decide (b.2 + 32 < beats.length)) b.1.1 b.1.2) s))
  ∧ (∀ (s : State) (f : Flight) (t : Nat) (rest : List Nat) (op : Nat) (single : Bool) (x y : W64) (dst : Dst),
       s.flight? f.id = some f → f.kind = .sfu op single x y dst → f.tids = t :: rest → s.sfuNext f = true →
       let r := sfuResult op single x.toNat y.toNat
       exec (.sfuResultLand f.id) s = .next (((s.land64 t dst r.1).setFlagsLate t f.trapCtx r.2).completeFlight f))

/-- A word entering flight raises its slot by one in each thread that counts it, in the running context, and stands among the words in
flight as its entry gives it; a word that completes leaves them and lowers its slot by one in each thread that counts it, in the context it
was issued in; no register, memory or other thread changes (R54, R300). -/
def Obligations.SlotsCountWordsInFlight : Prop :=
  (∀ (s : State) (i : IssueCtx) (tids : List Nat) (la sb : Nat) (pipe : Pipe) (kind : FlightKind) (stage : FlightStage), tids.Nodup →
     let after := s.launchFlight i tids la (some sb) pipe kind stage
     (∃ f, after.flights = s.flights ++ [f] ∧ f.id = s.ctl.nextId ∧ f.tids = tids ∧ f.sb = some sb ∧ f.kind = kind ∧ f.stage = stage
       ∧ f.pkt = i.pkt ∧ f.word = i.word ∧ f.step = i.beforeStep)
     ∧ (∀ u t, s.thread? u = some t → after.thread? u = some (if u ∈ tids
         then { t with ctx := { t.ctx with slots := t.ctx.slots.modify sb (· + 1) } } else t))
     ∧ after = { s with threads := after.threads, flights := after.flights, ctl := after.ctl })
  ∧ (∀ (s : State) (f : Flight) (sb : Nat), f.sb = some sb → f.tids.Nodup →
       let after := s.completeFlight f
       (∀ g, g ∈ after.flights ↔ g ∈ s.flights ∧ g.id ≠ f.id)
       ∧ (∀ u t, s.thread? u = some t → u ∉ f.tids → after.thread? u = some t)
       ∧ (∀ u t, s.thread? u = some t → u ∈ f.tids → t.trap = none → f.trapCtx = false →
         after.thread? u = some { t with ctx := { t.ctx with slots := t.ctx.slots.modify sb (· - 1) } })
       ∧ (∀ u t x, s.thread? u = some t → u ∈ f.tids → t.trap = some x → f.trapCtx = false →
         after.thread? u = some { t with trap := some { x with saved := { x.saved with slots := x.saved.slots.modify sb (· - 1) } } })
       ∧ (∀ u t x, s.thread? u = some t → u ∈ f.tids → t.trap = some x → f.trapCtx = true →
         after.thread? u = some { t with ctx := { t.ctx with slots := t.ctx.slots.modify sb (· - 1) } })
       ∧ after = { s with threads := after.threads, flights := after.flights })

/-- The special operands of the SFU (R206): a NaN gives the canonical NaN, with NV where it signals; divisions by zero, roots and
logarithms of negatives, infinities. -/
def Obligations.SfuSpecialOperands : Prop :=
  ∀ (f x y : Nat), (f = 1 ∨ f = 2) →
    let v := fpDecode f x
    let zero := fun (n : Bool) => fpSign f n
    let inf := fun (n : Bool) => fpSign f n + fpInfBits f
    let one := fun (n : Bool) => fpSign f n + (fpFmt f).bias * 2 ^ (fpFmt f).fbits
    let nan : FpRes := { bits := fpNaN f, flags := { nv := true } }
    (∀ op, op ≤ 8 → ∀ sig, v = .nan sig → (op = 3 → (fpDecode f y).isNaN = false) → sfuElem op f x y = { bits := fpNaN f, flags := { nv := sig } })
    ∧ (∀ n e, v = .fin n 0 e →
      sfuElem 0 f x y = { bits := inf n, flags := { dz := true } } ∧ sfuElem 1 f x y = { bits := inf n, flags := { dz := true } }
      ∧ sfuElem 2 f x y = { bits := zero n } ∧ sfuElem 4 f x y = { bits := one false }
      ∧ sfuElem 5 f x y = { bits := inf true, flags := { dz := true } } ∧ sfuElem 6 f x y = { bits := zero n }
      ∧ sfuElem 7 f x y = { bits := one false } ∧ sfuElem 8 f x y = { bits := zero n }
      ∧ (∀ k j d, fpDecode f y = .fin k j d → sfuElem 3 f x y = if j = 0 then nan else { bits := inf (xor n k), flags := { dz := true } }))
    ∧ (∀ n, v = .inf n →
      sfuElem 0 f x y = { bits := zero n } ∧ sfuElem 1 f x y = (if n then nan else { bits := zero false })
      ∧ sfuElem 2 f x y = (if n then nan else { bits := inf false })
      ∧ sfuElem 4 f x y = (if n then { bits := zero false } else { bits := inf false })
      ∧ sfuElem 5 f x y = (if n then nan else { bits := inf false }) ∧ sfuElem 6 f x y = nan ∧ sfuElem 7 f x y = nan
      ∧ sfuElem 8 f x y = { bits := one n }
      ∧ (∀ k, fpDecode f y = .inf k → sfuElem 3 f x y = nan) ∧ (∀ k j d, fpDecode f y = .fin k j d → sfuElem 3 f x y = { bits := zero (xor n k) }))
    ∧ (∀ m e, m ≠ 0 → v = .fin true m e → sfuElem 1 f x y = nan ∧ sfuElem 2 f x y = nan ∧ sfuElem 5 f x y = nan)

/-- `shfl` takes a from the participant of the slot that m and b name, else the thread's own (R210); `bcast` gives every participant a
of the first or the last (R211); `cred` and `mred` reduce by the tree of R95 over all participants, or over those of equal b, and give
each its result and flags (R212). All reads of a step precede its writes; a value that no participant receives is not read (R181). -/
def Obligations.CrewWords : Prop :=
  (∀ (d a b : BitVec 6) (m : BitVec 2),
    let source := fun (ins : List (Nat × LaneIn)) (t : Nat × LaneIn) =>
      let c := t.2.b % 256
      let from_ : Option Nat := match m.toNat with
        | 0 => some c
        | 1 => some (t.1 ^^^ c)
        | 2 => if c ≤ t.1 then some (t.1 - c) else none
        | _ => some (t.1 + c)
      (ins.find? (fun u => some u.1 == from_)).getD t
    let given := fun (ins : List (Nat × LaneIn)) => if m = 0 then ins.head? else ins.getLast?
    CrossCompletes (exec (.shfl d a b m)) (fun x =>
      { d := opD x d, a := opA x a, b := some (opB x b)
        reads := fun ins => ins.map (fun u => (0, if ins.any (fun t => (source ins t).1 == u.1) then 0xFF else 0, 1))
        run := fun ins => ins.map (fun t => { d := some (source ins t).2.a }) })
    ∧ (m.toNat ≤ 1 → CrossCompletes (exec (.bcast d a m)) (fun x =>
      { d := opD x d, a := opA x a
        reads := fun ins => ins.map (fun u => (0, if (given ins).any (fun t => t.1 == u.1) then 0xFF else 0, 0))
        run := fun ins => ins.map (fun _ => { d := some ((given ins).elim 0 (fun u => u.2.a)) }) }))
    ∧ (m ≠ 3 → CrossCompletes (exec (.cred d a m)) (fun x =>
      { d := opD x d, a := opA x a, reads := fun ins => ins.map (fun _ => (0, 0xFF, 0))
        run := fun ins => ins.map (fun _ => reducePacked (orDefault x.dfmt 1) (fun _ => reduceElems m.toNat (orDefault x.dfmt 1) x.rm) (ins.map (·.2.a))) })
      ∧ CrossCompletes (exec (.mred d a b m)) (fun x =>
        { d := opD x d, a := opA x a, b := some (opB x b), reads := fun ins => ins.map (fun _ => (0, 0xFF, 0xFF))
          run := fun ins => ins.map (fun t => reducePacked (orDefault x.dfmt 1) (fun _ => reduceElems m.toNat (orDefault x.dfmt 1) x.rm)
            ((ins.filter (fun u => u.2.b == t.2.b)).map (·.2.a))) })))
  ∧ ∀ (op k rm : Nat) (vs : List Nat), 1 ≤ k → k ≤ 4 → rm ≤ 3 → vs ≠ [] → vs.length ≤ 32 →
      let combine := fun (x y : Nat) => if op = 0 then roundTo k rm false 0 (exactSum (rm == 3) [(fpDecode k x).exact, (fpDecode k y).exact])
        else fpMinMax k (decide (op ≠ 1)) x y
      let half := (List.range (vs.length / 2)).map (fun i => combine (vs.getD (2 * i) 0) (vs.getD (2 * i + 1) 0))
      let next := half.map (·.bits) ++ (if vs.length % 2 = 1 then [vs.getD (vs.length - 1) 0] else [])
      (∀ v, vs = [v] → reduceElems op k rm vs = match fpDecode k v with | .nan s => { bits := fpNaN k, flags := { nv := s } } | _ => { bits := v })
      ∧ (vs.length = 2 → reduceElems op k rm vs = combine (vs.getD 0 0) (vs.getD 1 0))
      ∧ (2 < vs.length → reduceElems op k rm vs
          = { bits := (reduceElems op k rm next).bits
              flags := half.foldl (fun acc r => acc.or r.flags) (reduceElems op k rm next).flags })

/-- `mscan` gives participant k the combination of the values of participants 0 to k, or 0 to k - 1 under `.xadd`, by some tree of
rounded combinations: which one is free (R213, R102). The last participant's value, on which no prefix of `.xadd` depends, is not read. -/
def Obligations.ScanWord : Prop :=
  ∀ (d a : BitVec 6) (m : BitVec 2) (s : State) (i : IssueCtx), s.ctl.issue = some i →
    ∃ key : Nat → Nat → List Nat → Nat,
      let k := orDefault i.pfx.dfmt 1
      let op := match m.toNat with | 0 => 0 | 1 => 0 | 2 => 1 | _ => 2
      let word : CrossWord :=
        { d := opD i.pfx d, a := opA i.pfx a
          reads := fun ins => (List.range ins.length).map (fun n => (0, if m = 1 ∧ n + 1 = ins.length then 0 else 0xFF, 0))
          run := fun ins => (List.range ins.length).map (fun n =>
            let vs := (ins.take (if m = 1 then n else n + 1)).map (·.2.a)
            reducePacked k (fun e es => scanElems op k i.pfx.rm (key n e vs) es) vs) }
      Each i (word.FreeIn s i) → exec (.mscan d a m) s = .next ((crossAfter s i word).modCtl (fun c => { c with fresh := c.fresh + 1 }))

/-! ### Control -/

/-- Branches: `br` and `call` go to packet P + off16, `call` leaving P + 1 in LINK; `bp` goes there in the threads whose predicate
differs from its sense; `bx` goes to the packet that its register holds (R42, R124, R125, R126). Nothing else of a thread changes. -/
def Obligations.Branches : Prop :=
  ∀ (off : BitVec 16) (p : BitVec 3) (sense : BitVec 1) (a : BitVec 6),
    let target := fun (i : IssueCtx) => (BitVec.ofNat 64 i.pkt + off.signExtend 64).toNat
    let taken := fun (i : IssueCtx) => i.parts.filter (fun t => xor (t.ctx.preds.getLsbD p.toNat) (sense.getLsbD 0))
    let reg := fun (i : IssueCtx) => Operand.vv a i.pfx.ua
    Completes (.br off) (fun _ _ => True)
      (fun s i => (s.modThreads i.parts (fun _ live => live.goto (target i) 0)).noteJumps i.parts)
    ∧ Completes (.call off) (fun _ _ => True)
      (fun s i => (s.modThreads i.parts (fun _ live => { live with ctx := { live.ctx with
        pkt := target i, word := 0, link := BitVec.ofNat 64 (i.pkt + 1) } })).noteJumps i.parts)
    ∧ Completes (.bp p sense off) (fun _ _ => True)
      (fun s i => (s.modThreads (taken i) (fun _ live => live.goto (target i) 0)).noteJumps (taken i))
    ∧ Completes (.bx a) (fun _ i => Free i [reg i] [])
      (fun s i => (s.modThreads i.parts (fun t live => live.goto ((reg i).val t i.beforeQ).toNat 0)).noteJumps i.parts)

/-- `nop` has no effect on any state (R123), `sbwait` holds the thread's next instruction until the slot's count is at most k (R132),
`qsync` clears QDIV where a participant is left (R133), and each modifier word is added to those before its instruction (R47); a guard
keeps a word out of the threads in which it does not hold: they take no part (R51). -/
def Obligations.HoldsAndModifiers : Prop :=
  ((∀ s, exec .nop s = .next s)
   ∧ (∀ (slot : BitVec 6) (k : BitVec 14), Completes (.sbwait slot k) (fun _ _ => True)
       (fun s i => s.modThreads i.parts (fun _ live => { live with ctx := { live.ctx with hold := some (slot.toNat, k.toNat) } })))
   ∧ Completes .qsync (fun _ _ => True)
       (fun s i => if i.parts = [] then s else s.modCrew i.crew (fun c => { c with qdiv := false }))
   ∧ (∀ y, Completes (.blk y) (fun _ i => i.pfx.blk = none) (fun s _ => s.modIssue (fun i => { i with pfx := { i.pfx with blk := some y } }))
       ∧ Completes (.ext y) (fun _ i => i.pfx.ext = none) (fun s _ => s.modIssue (fun i => { i with pfx := { i.pfx with ext := some y } }))
       ∧ Completes (.grd y) (fun _ i => i.pfx.grd = none) (fun s _ => s.modIssue (fun i => { i with pfx := { i.pfx with grd := some y } }))
       ∧ Completes (.ver y) (fun _ i => i.pfx.ver = none) (fun s _ => s.modIssue (fun i => { i with pfx := { i.pfx with ver := some y } }))
       ∧ Completes (.fmt y) (fun _ i => i.pfx.fmt = none) (fun s _ => s.modIssue (fun i => { i with pfx := { i.pfx with fmt := some y } }))))
  ∧ (∀ (i : IssueCtx) (y : BitVec 16) (t : Thread), i.pfx.grd = some y →
       (t ∈ i.parts ↔ t ∈ i.active.filterMap i.src ∧ t.ctx.preds.getLsbD (y >>> 13).toNat = !y.getLsbD 12))

/-- Leaving a crew: `exit`, and `ret` with LINK = END, mask the thread off at once; `ret` else goes to LINK (R128, R130); `reform`
sends every active member to (P + 1, 0) and files all members, active or not (R131). A thread masked off stands in no crew and issues no
more; its next address, registers and words in flight stay as they are (R130). -/
def Obligations.LeavingACrew : Prop :=
  (let settled := fun (t : Thread) => ∀ f ∈ t.faults, t.faultHere f = false
   Completes .exit (fun _ i => Each i settled) (fun s i => s.each i.parts (fun s t => s.maskOff t.id))
   ∧ Completes .ret (fun _ i => Each i (fun t => t.ctx.link = BitVec.allOnes 64 → settled t))
       (fun s i => s.each i.parts (fun s t => if t.ctx.link = BitVec.allOnes 64 then s.maskOff t.id else s.jump t.id t.ctx.link.toNat 0))
   ∧ Completes .reform (fun _ _ => True)
       (fun s i =>
         let s := s.modThreads i.parts (fun _ live => live.goto (i.pkt + 1) 0)
         match s.crew? i.crew with
         | none => s
         | some c => (c.members.map (·.tid)).foldl State.fileFromCrew s))
  ∧ (∀ (s : State) (t : Thread) (c : Crew), s.thread? t.id = some t → s.crewOf t.id = some c →
       let after := s.maskOff t.id
       after.thread? t.id = some { t with status := .exiting, q := c.q, step := c.step }
       ∧ (∀ u, u ≠ t.id → after.thread? u = s.thread? u)
       ∧ ((s.crews.map (·.id)).Nodup → ∀ d, after.crew? c.id = some d → t.id ∉ d.members.map (·.tid) ∧ d.q = c.q)
       ∧ after = { s with threads := after.threads, crews := after.crews })

/-- `vote` gives every participant one truth value made of all their predicates, read before any is written (R134); `ballot` gives the mask of
the crew slots whose predicate is true, or how many there are, to each participant, or once to the crew's `q` register (R135). -/
def Obligations.VotesAndBallots : Prop :=
  (∀ (d a : BitVec 6) (m : BitVec 2), m ≠ 3 →
     let p := fun (t : Thread) => t.ctx.preds.getLsbD a.toNat
     Completes (.vote d a m) (fun _ _ => True)
       (fun s i => s.modThreads i.parts (fun _ live => live.setPred d.toNat (match m.toNat with
         | 0 => i.parts.all p
         | 1 => i.parts.any p
         | _ => i.parts.all p || i.parts.all (fun t => !p t)))))
  ∧ (∀ (d a : BitVec 6) (m : BitVec 2), m.toNat ≤ 1 →
       let o := fun (i : IssueCtx) => Operand.vv d i.pfx.ud
       let mask := fun (s : State) (i : IssueCtx) => ballotMask s i.crew i.parts a.toNat
       let result := fun (s : State) (i : IssueCtx) => BitVec.ofNat 64 (if m = 0 then mask s i else popcount 32 (mask s i))
       Completes (.ballot d a m) (fun _ i => Free i [] [o i])
         (fun s i => if i.pfx.ud then s.modCrew i.crew (fun c => { c with q := c.q.set d.toNat (result s i) })
           else s.modThreads i.parts (fun t live => live.write ((o i).off t 0 0) (natToBytes 8 (result s i).toNat)))
       ∧ ∀ (s : State) (i : IssueCtx) (c : Crew) (k : Nat), s.crew? i.crew = some c → (c.members.map (·.slot)).Nodup →
           ((mask s i).testBit k = true ↔ ∃ x ∈ c.members, x.slot = k ∧ ∃ t ∈ i.parts, t.id = x.tid ∧ t.ctx.preds.getLsbD a.toNat = true))

/-! ### Traps (R164, R181, R299-R305) -/

/-- An operand that names a byte at or above SIZE raises WINDOW_RANGE with the lowest such byte, a poisoned byte read REG_POISON with the
lowest such byte of the window, for every element-wise word; the word has no effect (R164, R181, R303, R46). A uniform word reads its operands in
the first active member (R108). The model's choices: the other members are filed at the group (log 28); where only bytes of the `q` copy are
poisoned, VAL is the lowest one's offset in the copy, and a cause that a uniform word meets is every participant's (log 31). -/
def Obligations.OperandFaults : Prop :=
  (∀ (s : State) (i : IssueCtx) (w : LaneWord) (pipe : Pipe) (t : Thread) (o : Nat),
    s.ctl.issue = some i → i.checked = false → (∀ a ∈ w.operands, 0 < a.len) →
    (if i.pfx.ud then (i.active.filterMap i.src).head? = some t ∧ i.parts ≠ [] else t ∈ i.parts) →
    (∀ u, u = t ∨ (u ∈ i.parts ∧ i.pfx.ud = false) →
      ∀ r ∈ namedRanges u w.operands (blockSteps i.pfx), Untouched r (u.pending.map (·.1))) →
    let named := fun (x : Nat) => ∃ r ∈ namedRanges t w.operands (blockSteps i.pfx), r.1 ≤ x ∧ x < r.1 + r.2
    let least := fun (l : List Nat) => o ∈ l ∧ ∀ x ∈ l, o ≤ x
    let read := w.go i.pfx t i.beforeQ
    let raises := fun (cause : Nat) => ∃ xs, runLaneWord s pipe w
        = .next ((s.takeTraps xs i.active i.pkt i.entry).modIssue (fun i => { i with status := .raised xs }))
      ∧ (let raised := fun (u : Thread) => ({ tid := u.id, cause, val := o, word := i.word, pipe := pipe.code } : Raised)
         if i.pfx.ud then xs = i.parts.map raised else raised t ∈ xs ∧ ∀ x ∈ xs, ∃ u ∈ i.parts, x.tid = u.id)
    (named o → t.winSize ≤ o → (∀ x, named x → t.winSize ≤ x → o ≤ x) → raises 0x08)
    ∧ ((∀ x, named x → x < t.winSize) → least read.bad ∨ (read.bad = [] ∧ least read.badQ) → raises 0x0A))
  ∧ ∀ (w : LaneWord) (l : LaneState) (ij : Nat × Nat) (n : Nat),
      let m := w.reads { d := l.get w.d ij.1 ij.2, a := l.get w.a ij.1 ij.2, b := l.get w.b ij.1 ij.2
                         preds := l.t.ctx.preds, icarry := l.t.icarry, seed := l.t.ctx.srseed }
      let reads := fun (inQ : Bool) => ∃ o x k, (some o, x) ∈ [(w.d, m.1), (w.a, m.2.1), (w.b, m.2.2)] ∧ o.isQ = inQ
        ∧ k < o.len ∧ x.testBit k = true ∧ n = o.off l.t ij.1 ij.2 + k
      (n ∈ (w.step l ij).bad ↔ n ∈ l.bad ∨ (reads false ∧ n ∈ l.t.winPoison))
      ∧ (n ∈ (w.step l ij).badQ ↔ n ∈ l.badQ ∨ (reads true ∧ n ∈ l.q.poison))

/-- A thread that takes a cause with a handler set enters trap context: its context, with the crew's copy and step, is kept, the trap
registers are set, and the handler begins at (VEC, 0) with predicates, slots and flags clear, LINK END and a generator of its own;
window, views and frame stay, and nothing of other threads but where they are filed (R299, R300, R303). With DBG set a BREAK
halts the thread at its return point instead, with a record of ACTION 6 and vector 0 raised where a record is free (R299, R311). -/
def Obligations.TakingATrap : Prop :=
  ∀ (s : State) (x : Raised) (fw ret : Nat × Nat) (t : Thread) (m : Team),
    s.thread? x.tid = some t → s.team? t.team = some m → t.trap = none → t.status ≠ .halted →
    let vec := fld m.regs.tvec.toNat 0 56
    let after := s.takeTrap x fw ret
    let copy := match s.crewOf x.tid with | some c => (c.q, c.step) | none => (t.q, t.step)
    vec ≠ 0 → (¬(x.cause = 5 ∧ m.regs.tctl.getLsbD 0 = true) →
    (∃ status, after.thread? x.tid = some { t with
        trap := some { saved := t.ctx, fault := x.fault, entered := s.localTime m.place.die, q := copy.1, step := copy.2
                       crew := (s.crewOf x.tid).map (·.id), mark := s.ctl.nextId
                       cause := BitVec.ofNat 64 (x.late.toNat * 2 ^ 11 + x.pipe % 8 * 2 ^ 8 + x.cause % 256)
                       val := BitVec.ofNat 64 (if 0x29 ≤ x.cause ∧ x.cause ≤ 0x2B then 0 else x.val)
                       tret := BitVec.ofNat 64 (ret.1 % 2 ^ 56 * 2 ^ 8 + ret.2 * 2 ^ 6) }
        ctx := { pkt := vec, word := 0, preds := 0, slots := List.replicate 8 0, fflags := 0, link := BitVec.allOnes 64
                 srseed := t.ctx.srseed ^^^ 0x2545F491 }
        q := {}, step := copy.2, wt := none, status })
    ∧ (∀ u v, u ≠ x.tid → s.thread? u = some v → ∃ status, after.thread? u = some { v with status })
    ∧ after.teams = s.teams ∧ after.grids = s.grids ∧ after.mem = s.mem ∧ after.flights = s.flights)
    ∧ (x.cause = 5 → m.regs.tctl.getLsbD 0 = true →
      let die := m.place.die
      let halted := fun (r : Option Nat) (bits : Nat) => after.thread? x.tid = some { t with
        q := copy.1, step := copy.2, ctx := { t.ctx with pkt := ret.1, word := ret.2 }, status := .haltedDbg r bits }
      (∃ bits, halted (s.freeRecord die) bits ∧ fld bits 304 8 = 6 ∧ fld bits 312 8 = 5)
      ∧ (∀ u, u ≠ x.tid → after.thread? u = s.thread? u)
      ∧ (∀ k, s.freeRecord die = some k → after.host.msix = 0 :: s.host.msix
          ∧ ∃ r ∈ after.records, r.die = die ∧ r.index = k ∧ fld r.bits 304 8 = 6 ∧ fld r.bits 312 8 = 5)
      ∧ (s.freeRecord die = none → after.records = s.records ∧ after.host = s.host))

/-- Without a handler, or in trap context, a cause is a team fault: a record with ACTION 1 is written where one is free, no thread of
the team issues again, and unless the grid's policy is 1 the grid ends with an error, all its teams halted (R302, R311, R428). -/
def Obligations.TeamFaults : Prop :=
  ∀ (s : State) (x : Raised) (fw ret : Nat × Nat) (t : Thread) (m : Team) (g : Grid),
    s.thread? x.tid = some t → s.team? t.team = some m → s.grid? m.grid = some g → t.status ≠ .halted →
    m.status ≠ .halted → m.status ≠ .retired → (fld m.regs.tvec.toNat 0 56 = 0 ∨ t.trap.isSome = true) →
    let after := s.takeTrap x fw ret
    (∀ u ∈ after.threads, u.team = m.id → u.status = .halted)
    ∧ (∀ c ∈ after.crews, c.team ≠ m.id) ∧ (∀ b ∈ after.bins, b.team ≠ m.id)
    ∧ (∀ k, s.freeRecord m.place.die = some k →
        ∃ r ∈ after.records, r.die = m.place.die ∧ r.index = k ∧ fld r.bits 304 8 = 1 ∧ fld r.bits 312 8 = x.cause % 256)
    ∧ (fld g.record 318 2 ≠ 1 → g.status ≠ .complete →
        (∃ h, after.grid? g.event = some h ∧ h.error = some (g.error.getD x.cause))
        ∧ ∀ k ∈ s.teams, k.grid = g.event → s.team? k.id = some k → k.status ≠ .halted → k.status ≠ .retired →
            ∀ u ∈ after.threads, u.team = k.id → u.status = .halted)

/-- `trap` raises SOFT and `brk` BREAK with their code, the next tied group as return point (R305, R303). `rtt` waits for the words issued
in trap context, does with a late fault as MODE says, and files the thread at its return point with the context, copy and step kept at
entry (R304); tied with other words (R41) it leaves the crew and returns once they have completed too. That `trap` and `brk` leave the other
members in their crew is the model's reading (log 28). -/
def Obligations.TrapWords : Prop :=
  (∀ code : BitVec 14,
    let take := fun (cause : Nat) (s : State) (i : IssueCtx) => s.each i.parts (fun s t =>
      s.takeTrap { tid := t.id, cause, val := code.toNat, word := i.word, pipe := Pipe.ctl.code } (i.pkt, i.word)
        (if i.last = 2 then (i.pkt + 1, 0) else (i.pkt, i.last + 1)))
    Completes (.trap code) (fun _ i => i.last ≤ 2) (take 4) ∧ Completes (.brk code) (fun _ i => i.last ≤ 2) (take 5))
  ∧ (let settled := fun (s : State) (i : IssueCtx) => Each i (fun t => t.trap.isSome = true ∧ NoneOutstanding s t.id (fun f => f.trapCtx))
     Completes .rtt (fun s i => i.words.length ≤ 1 ∧ settled s i) (fun s i => s.each i.parts (fun s t => s.returnTrap t.id))
     ∧ Completes .rtt (fun s i => 1 < i.words.length ∧ settled s i)
         (fun s i => s.each i.parts (fun s t => (s.leaveCrew t.id).modThread t.id (fun t => { t with status := .returning }))))
  ∧ (∀ (s : State) (tid : Nat) (t : Thread) (x : TrapCtx), s.thread? tid = some t → t.trap = some x →
      let mode := fld x.tret.toNat 0 2
      let back := fun (s : State) => (s.leaveCrew tid).modThread tid Thread.leaveTrap
      (x.fault = none → s.returnTrap tid = (back s).file tid)
      ∧ ∀ f, x.fault = some f →
          let settled := s.settleFault tid f mode (returnPoint x.tret.toNat)
          s.returnTrap tid = (if mode = 1 then (back settled).settleChunk tid f true else back settled).file tid)
  ∧ (∀ (t : Thread) (x : TrapCtx), t.trap = some x →
      t.leaveTrap = { t with
        trap := none, q := x.q, step := x.step
        ctx := { x.saved with pkt := (if fld x.tret.toNat 6 2 = 3 then fld x.tret.toNat 8 56 + 1 else fld x.tret.toNat 8 56)
                              word := (if fld x.tret.toNat 6 2 = 3 then 0 else fld x.tret.toNat 6 2) } })
  ∧ ∀ (s : State) (tid : Nat) (f : Flight) (ret : Nat × Nat) (t : Thread),
      s.settleFault tid f 0 ret = s.modThread tid (fun t => { t with faults := f :: t.faults })
      ∧ (∃ g ∈ (s.settleFault tid f 1 ret).flights, g.id = f.id ∧ (∀ a, f.kind = .mem a → g.kind = f.kind ∧ g.stage = .start))
      ∧ (s.thread? tid = some t → t.trap.isSome = true → f.tids = [tid] → f.trapCtx = false → (∀ k dst, f.kind ≠ .coll k dst) → ∀ sb, f.sb = some sb →
          ∃ x u, t.trap = some x ∧ (s.settleFault tid f 2 ret).thread? tid = some u
            ∧ u = { t with trap := some { x with saved := { x.saved with slots := x.saved.slots.modify sb (· - 1) } } })

/-! ### Control and status registers (R306) -/

/-- `csr.r` writes the register's value as it was before the group, to each participant or, under UD, once to the crew's copy, from the
first active member; and what the registers of a thread hold (R306, R40, R108). -/
def Obligations.RegisterReads : Prop :=
  (∀ (d : BitVec 6) (num : BitVec 14),
    let o := fun (i : IssueCtx) => Operand.vv d i.pfx.ud
    let reader := fun (i : IssueCtx) => (i.active.filterMap i.src).head?
    let ok := fun (i : IssueCtx) (t : Thread) =>
      OperandsFree t i.beforeQ [] [o i] [(0, 0)] ∧ (0x41 ≤ num.toNat → num.toNat ≤ 0x45 → t.trap.isSome = true)
    Completes (.csrR d num) (fun _ i => if i.pfx.ud then ∀ t, reader i = some t → ok i t else Each i (ok i))
      (fun s i =>
        let v := fun (t : Thread) => BitVec.ofNat 64 (s.csrRead i t num.toNat)
        if i.pfx.ud then match reader i with
          | some t => s.modCrew i.crew (fun c => { c with q := c.q.set d.toNat (v t) })
          | none => s
        else s.modThreads i.parts (fun t live => live.write ((o i).off t 0 0) (natToBytes 8 (v t).toNat))))
  ∧ ∀ (s : State) (i : IssueCtx) (t : Thread),
      s.csrRead i t 0x10 = t.ctx.fflags.toNat ∧ s.csrRead i t 0x11 = t.ctx.srseed.toNat ∧ s.csrRead i t 0x12 = t.ctx.link.toNat
      ∧ s.csrRead i t 0x13 = t.icarry.toNat ∧ s.csrRead i t 0x24 = t.tm ∧ s.csrRead i t 0x50 = i.beforeStep
      ∧ s.csrRead i t 0x02 = s.time.khz.getD (s.placeOf t).die 0 ∧ s.csrRead i t 0x03 = s.localTime (s.placeOf t).die
      ∧ s.csrRead i t 0x21 = i.beforeRegs.binctl.toNat ∧ s.csrRead i t 0x40 = i.beforeRegs.tvec.toNat
      ∧ s.csrRead i t 0x46 = i.beforeRegs.tctl.toNat ∧ s.csrRead i t 0xC1 = i.beforeRegs.sched.toNat
      ∧ (∀ v < 4, s.csrRead i t (0x18 + v) = (t.views.getD v ⟨0, 0⟩).stride % 2 ^ 12 * 2 ^ 16 + (t.views.getD v ⟨0, 0⟩).base % 2 ^ 12)
      ∧ ∀ x, t.trap = some x → s.csrRead i t 0x41 = x.cause.toNat ∧ s.csrRead i t 0x42 = x.tret.toNat ∧ s.csrRead i t 0x43 = x.val.toNat
          ∧ s.csrRead i t 0x44 = x.saved.fflags.toNat ∧ s.csrRead i t 0x45 = x.saved.preds.toNat

/-- `csr.w` writes the thread's or the team's register in every participant, reading the bytes that hold the register's fields (R306); which
bytes those are is the model's reading (log 31). Commands of `cr.wtcmd` begin first, at the first issue, with the crew parked until they end
(the model's form of the wait that R396 asks for, log 26); once every command has ended without a fault, or where a value holds none, the word
completes and the register holds no command (R396). What each register holds after a write of v: fields of the value, bits that fall where v
has 1, least values, reserved bits 0 (R89, R119, R165, R188, R303, R347, R441 and each register's chapter). -/
def Obligations.RegisterWrites : Prop :=
  (∀ (a : BitVec 6) (num : BitVec 14),
    let o := fun (i : IssueCtx) => Operand.vv a i.pfx.ud
    let v := fun (i : IssueCtx) (t : Thread) => ((o i).val t i.beforeQ).toNat
    let n := num.toNat
    let command := fun (i : IssueCtx) (t : Thread) => fld (v i t) 62 2
    let begins := fun (i : IssueCtx) (t : Thread) => t.wt.isNone && (command i t == 1 || command i t == 2)
    let ok := fun (i : IssueCtx) (t : Thread) =>
      FieldsFree t i.beforeQ [o i] ((csrBytes n (v i t)).map (fun k => (o i, k, 1))) ∧ (0x41 ≤ n → n ≤ 0x45 → t.trap.isSome = true)
      ∧ (0x18 ≤ n → n ≤ 0x1B → viewOk (n - 0x18) t.winSize (fld (v i t) 0 12) (fld (v i t) 16 12) = true)
    (n ≠ 0x102 → Completes (.csrW a num) (fun _ i => Each i (ok i)) (fun s i => s.each i.parts (fun s t =>
      if isTeamReg n then s.modTeam t.team (fun m => { m with regs := m.regs.write n (v i t) })
      else s.modThread t.id (·.csrWrite n (v i t)))))
    ∧ (n = 0x102 → Completes (.csrW a num)
        (fun _ i => i.checked = false ∧ (∃ t ∈ i.parts, begins i t = true)
          ∧ Each i (fun t => ok i t ∧ command i t ≠ 3 ∧ ∀ w, t.wt = some w → w.fault = none))
        (fun s i => (s.modThreads (i.parts.filter (begins i)) (fun t live => { live with
          wt := some { load := command i t == 1, table := fld i.beforeRegs.wtbase.toNat 11 41 * 2048 + 2048 * fld (v i t) 0 24 } })).modIssue
            (fun i => { i with status := .parked })))
    ∧ (n = 0x102 → Completes (.csrW a num)
        (fun _ i => Each i (fun t => ok i t ∧ command i t ≠ 3 ∧ (command i t = 0 ∨ t.wt ≠ none)
          ∧ ∀ w, t.wt = some w → w.ended = true ∧ w.fault = none))
        (fun s i => s.modThreads i.parts (fun _ live => { live with wt := none }))))
  ∧ (∀ (t : Thread) (v : W64),
      t.csrWrite 0x10 v.toNat = { t with ctx := { t.ctx with fflags := t.ctx.fflags &&& ~~~(v.setWidth 5) } }
      ∧ t.csrWrite 0x11 v.toNat = { t with ctx := { t.ctx with srseed := v.setWidth 32 } }
      ∧ t.csrWrite 0x12 v.toNat = { t with ctx := { t.ctx with link := v } }
      ∧ t.csrWrite 0x13 v.toNat = { t with icarry := v.setWidth 8 }
      ∧ (∀ k < 4, t.csrWrite (0x18 + k) v.toNat = { t with views := t.views.set k ⟨(v.extractLsb' 0 12).toNat, (v.extractLsb' 16 12).toNat⟩ })
      ∧ (∀ x, t.trap = some x → t.csrWrite 0x42 v.toNat = { t with trap := some { x with tret := v &&& 0xFFFFFFFFFFFFFFC3 } }
        ∧ t.csrWrite 0x44 v.toNat = { t with trap := some { x with saved := { x.saved with fflags := v.setWidth 5 } } }
        ∧ t.csrWrite 0x45 v.toNat = { t with trap := some { x with saved := { x.saved with preds := v.setWidth 8 } } })
      ∧ t.csrWrite 0x8B v.toNat = { t with mstat := (v &&& 0xFF00) ||| (t.mstat &&& ~~~v &&& 0x1F) }
      ∧ t.csrWrite 0x145 v.toNat = { t with lksel := (v &&& 0x3FE0) ||| (if 7 < (v &&& 0xF) then 7 else v &&& 0xF) })
  ∧ ∀ (r : TeamRegs) (v : W64),
      r.write 0x21 v.toNat = { r with binctl := BitVec.ofNat 64 (max 64 (v.toNat / 2 ^ 16 % 2 ^ 16) * 2 ^ 16 + max 16 (v.toNat % 2 ^ 12)) }
      ∧ r.write 0x25 v.toNat = { r with frmctl := (v &&& 0xFFFF) ||| (r.frmctl &&& ~~~v &&& 0x80000000) }
      ∧ r.write 0x32 v.toNat = { r with spcnt := v } ∧ r.write 0x40 v.toNat = { r with tvec := v &&& 0xFFFFFFFFFFFFFF }
      ∧ r.write 0x46 v.toNat = { r with tctl := v &&& 3 }
      ∧ (∀ k < 8, r.write (0x80 + k) v.toNat = { r with mepi := r.mepi.set k (v &&& 0xFFFFFFFFFFFFFE07) })
      ∧ r.write 0x88 v.toNat = { r with mroute := v &&& 0xFFCFFFFFFFFFFFFF } ∧ r.write 0x89 v.toNat = { r with mrcnt := v &&& 0x8000000000000FFF }
      ∧ r.write 0x8A v.toNat = { r with mgrp := v &&& 0xFFFFFFFFFFFFFF } ∧ r.write 0x100 v.toNat = { r with wtbase := v &&& 0xFFFFFFFFFF800 }
      ∧ r.write 0x101 v.toNat = { r with wtctl := v &&& 1 } ∧ r.write 0x103 v.toNat = { r with rgtime := v &&& 0xFFFFFFFF000000FF }
      ∧ r.write 0x143 v.toNat = { r with cwto := v &&& 0xFFFFFFFF }

/-! ### Threads and frames (R148-R155) -/

/-- `spawn` makes a child at its entry and sets its predicate, or, where no record or place is free, calls the entry inline with the
argument in v0 where the view placed it before the group (R149, R40); `spawnn` makes as many as fit, of up to d[15:0] and 1,024, and says how
many (R150); neither waits for a record or a place (R149, R155). Sources are read before any write of the group (R40). `await` and `awaitp` leave the crew for the next packet and
wait until at most 0, or a[15:0], children are left; a thread with no more than that is released at once, with its mark to reconcile and
its predicate set (R152, R153). -/
def Obligations.SpawnAndAwaitWords : Prop :=
  (∀ (d a b : BitVec 6),
     let oa := fun (i : IssueCtx) => Operand.vv a i.pfx.ua
     let ob := fun (i : IssueCtx) => Operand.vv b i.pfx.ub
     let od := Operand.vv d false
     let entry := fun (i : IssueCtx) (t : Thread) => ((oa i).val t i.beforeQ).toNat
     let count := fun (i : IssueCtx) (t : Thread) => min ((od.val t i.beforeQ).toNat % 2 ^ 16) 1024
     Completes (.spawn d a b)
       (fun s i => Each i (fun t => NoneOutstanding s t.id Flight.isAccess ∧ Untouched ((t.view 0).base, 8) (t.pending.map (·.1))
         ∧ OperandsFree t i.beforeQ [oa i, ob i] [] [(0, 0)]))
       (fun s i => s.each i.parts (fun s t =>
         match s.spawnChild { seed := t.ctx.srseed, q := i.beforeQ, step := i.beforeStep } t.id (entry i t) ((ob i).val t i.beforeQ) with
         | some s => s.modThread t.id (·.setPred d.toNat true)
         | none => (s.modThread t.id (fun x =>
             let x := (x.write (t.view 0).base (natToBytes 8 ((ob i).val t i.beforeQ).toNat)).setPred d.toNat false
             { x with ctx := { x.ctx with link := BitVec.ofNat 64 (i.pkt + 1) } })).jump t.id (entry i t) 0))
     ∧ Completes (.spawnn d a b)
       (fun s i => Each i (fun t => NoneOutstanding s t.id Flight.isAccess
         ∧ FieldsFree t i.beforeQ [od, oa i, ob i] [(od, 0, 2), (oa i, 0, 8), (ob i, 0, 8)]))
       (fun s i => s.each i.parts (fun s t =>
         let r := s.spawnMany { seed := t.ctx.srseed, q := i.beforeQ, step := i.beforeStep } t.id (entry i t) ((ob i).val t i.beforeQ) 0 (count i t)
         r.2.land64 t.id (.win (od.off t 0 0)) (BitVec.ofNat 64 r.1))))
  ∧ (Completes .await (fun _ _ => True) (fun s i => s.each i.parts (fun s t => s.beginAwait i t.id 0 none))
     ∧ (∀ d a : BitVec 6,
         let o := fun (i : IssueCtx) => Operand.vv a i.pfx.ua
         Completes (.awaitp d a) (fun _ i => Each i (fun t => FieldsFree t i.beforeQ [o i] [(o i, 0, 2)]))
           (fun s i => s.each i.parts (fun s t => s.beginAwait i t.id (((o i).val t i.beforeQ).toNat % 2 ^ 16) (some d.toNat))))
     ∧ ∀ (s : State) (i : IssueCtx) (t : Thread) (c : Crew) (n p : Nat),
         s.thread? t.id = some t → s.crewOf t.id = some c →
         let waiting := fun (state : Nat) => { t with
           q := c.q, step := c.step, status := .awaiting n (some p) (s.localTime (s.placeOf t).die)
           ctx := { t.ctx with pkt := i.pkt + 1, word := 0 }, frame := { t.frame with state := state } }
         (s.beginAwait i t.id n (some p)).thread? t.id = some (
           if n < t.frame.children then waiting 2
           else { (waiting 1).setPred p (decide (t.frame.children = 0)) with edge := some (max t.frame.mark (t.edge.getD 0)) }))

/-- A spawned thread: the lowest free index of its team, its entry, its argument in v0 with no other byte set, a generator derived from
its parent's as it was before the group, its parent's TM as the mark it waits for; the parent has one more child (R149, R141, R147, R83, R40).
Children of one `spawnn` have successive arguments and generators (R150, R83); with no record free there is none (R149). -/
def Obligations.SpawnedThreads : Prop :=
  (∀ (s after : State) (x : SpawnFrom) (parent entry : Nat) (arg : W64) (t : Thread),
    s.thread? parent = some t → s.spawnChild x parent entry arg = some after →
    (∃ p, after.thread? parent = some p ∧ p.frame.children = t.frame.children + 1 ∧ p.ctx.srseed = srStep x.seed)
    ∧ ∃ c ∈ after.threads,
      s.ctl.nextId ≤ c.id ∧ c.team = t.team ∧ c.spawned = true ∧ c.ctx.pkt = entry ∧ c.ctx.word = 0 ∧ c.ctx.preds = 0
      ∧ c.ctx.fflags = 0 ∧ c.ctx.link = BitVec.allOnes 64 ∧ c.ctx.srseed = srStep x.seed ^^^ 0x5BD1E995
      ∧ (∀ n, c.win.readN (c.view 0).base 8 = natToBytes 8 arg.toNat ∧ (¬((c.view 0).base ≤ n ∧ n < (c.view 0).base + 8) → c.win.read n = 0))
      ∧ c.winSize = t.winSize ∧ c.edge = some t.tm ∧ c.frame.parent = some parent ∧ c.frame.arg = arg ∧ c.frame.children = 0
      ∧ c.index < 1024 ∧ (∀ u ∈ s.threads, u.team = t.team → u.resident = true → u.index ≠ c.index)
      ∧ ∀ k < c.index, ∃ u ∈ s.threads, u.team = t.team ∧ u.resident = true ∧ u.index = k)
  ∧ (∀ (s : State) (x : SpawnFrom) (tid entry k n : Nat) (arg : W64),
      s.spawnMany x tid entry arg k 0 = (k, s)
      ∧ (s.spawnChild x tid entry (arg + BitVec.ofNat 64 k) = none → s.spawnMany x tid entry arg k (n + 1) = (k, s))
      ∧ ∀ after, s.spawnChild x tid entry (arg + BitVec.ofNat 64 k) = some after →
          s.spawnMany x tid entry arg k (n + 1) = after.spawnMany { x with seed := srStep x.seed } tid entry arg (k + 1) n)
  ∧ ∀ (s : State) (x : SpawnFrom) (parent entry : Nat) (arg : W64) (t : Thread) (g : Grid),
      s.thread? parent = some t → s.gridOf t = some g → g.freeFrames = [] ∨ t.frame.children = 65535 → s.spawnChild x parent entry arg = none

/-! ### Barriers, convergence registers, signing (R156-R159) -/

/-- `bar`, `cbar` and `dbar` arrive at the barrier of the team, of the grid's teams on the cluster, of the grid, where `dbar` leaves its
arrival on its die (R156); `cvdecl` declares
a convergence register (R158); `sign` signs for its member with the MXU word tied to it (R159). An arrival of `bar` or
`cbar` below the count stays; the one that reaches it releases all and leaves the barrier empty for its next generation, and each released thread waits for the largest TM among
them. That `cbar` counts the grid's teams of one hardware cluster is the model's reading (log 20). -/
def Obligations.GroupWords : Prop :=
  (∀ (d a : BitVec 6) (n : BitVec 14) (base : BitVec 8),
     let count := fun (i : IssueCtx) => (i.beforeQ.get d.toNat).toNat % 2 ^ 32
     let ok := fun (limit : Nat) (s : State) (i : IssueCtx) =>
       1 ≤ count i ∧ count i ≤ limit ∧ Untouched (8 * d.toNat, 4) i.beforeQ.poison ∧ Each i (fun t => NoneOutstanding s t.id Flight.isAccess)
     let arrival := fun (s : State) (i : IssueCtx) (t : Thread) =>
       ({ tid := t.id, count := count i, tm := let live := (s.thread? t.id).getD t; max live.tm live.joined } : Arrival)
     Completes (.bar d n) (ok 1024) (fun s i => s.each i.parts (fun s t => match s.team? t.team with
       | none => s
       | some m =>
         let r := (m.bars.getD n.toNat {}).arrive (arrival s i t)
         ((s.modTeam m.id (fun m => { m with bars := modAt (fun _ => r.1) n.toNat m.bars })).setBcmis t r.2.2).releaseAll r.2.1))
     ∧ Completes (.cbar d n) (ok 8192) (fun s i => s.each i.parts (fun s t => match s.gridOf t with
       | none => s
       | some g =>
         let r := (g.clusterBarrier (s.placeOf t) n.toNat).arrive (arrival s i t)
         ((s.modGrid g.event (fun g => g.setClusterBarrier (s.placeOf t) n.toNat r.1)).setBcmis t r.2.2).releaseAll r.2.1))
     ∧ Completes (.dbar d n) (ok 524288) (fun s i => s.each i.parts (fun s t => match s.gridOf t with
       | none => s
       | some g =>
         let x := arrival s i t
         let b := g.bars.getD n.toNat {}
         let b := { b with count := if b.count = 0 then x.count else b.count, dies := b.dies ++ [((s.placeOf t).die, x)] }
         s.modGrid g.event (fun g => { g with bars := modAt (fun _ => b) n.toNat g.bars })))
     ∧ Completes (.cvdecl d a base)
       (fun s i => Untouched (8 * a.toNat, 4) i.beforeQ.poison ∧ Each i (fun t =>
         (s.cv t d.toNat).signed = 0 ∨ (s.cv t d.toNat).repeats ((i.beforeQ.get a.toNat).setWidth 32) base.toNat = true))
       (fun s i =>
         let mask := (i.beforeQ.get a.toNat).setWidth 32
         s.each i.parts (fun s t => s.modCv t.team d.toNat (fun c =>
           if c.signed ≠ 0 then c else if mask = 0 then {} else { mask, base := base.toNat, decl := true })))
     ∧ Completes (.sign d)
       (fun s i => Each i (fun t => ∃ k, (s.cv t d.toNat).memberOf t = some k ∧ (s.cv t d.toNat).signed.getLsbD k = false
         ∧ ((s.cv t d.toNat).signed = 0 ∨ (s.cv t d.toNat).word = i.signedWord)))
       (fun s i => s.each i.parts (fun s t => s.modCv t.team d.toNat (fun c => match c.memberOf t with
         | none => c
         | some k => { c with word := if c.signed = 0 then i.signedWord else c.word, signed := c.signed ||| BitVec.ofNat 32 (2 ^ k) }))))
  ∧ (∀ (b : Barrier) (x : Arrival) (s : State),
       let count := (b.arrived.head?.getD x).count
       (b.arrived.length + 1 < count → b.arrive x = ({ arrived := b.arrived ++ [x] }, [], decide (x.count ≠ count)))
       ∧ (count ≤ b.arrived.length + 1 → b.arrive x = ({}, b.arrived ++ [x], decide (x.count ≠ count)))
       ∧ ∀ (l : List Arrival) (u : Nat) (t : Thread), (l.map (·.tid)).Nodup → s.thread? u = some t →
           ∃ mark, (∀ y ∈ l, y.tm ≤ mark) ∧ (l ≠ [] → ∃ y ∈ l, y.tm = mark)
             ∧ (s.releaseAll l).thread? u = some (if u ∈ l.map (·.tid) then { t with edge := some (max mark (t.edge.getD 0)) } else t))

/-! ### Virtual memory (R245, R268-R275, R337, R359, R411, R412) -/

/-- Loads, stores, atomics, reductions, prefetches, moment words, fragments and the words of homes: each participant's access, or under a
`q` destination one for the crew, enters flight with its address, size, type, version and data as its registers stand; each needs its
address in range and aligned, and room in its slot (R245, R268-R274, R337, R359, R411, R412, R54). -/
def Obligations.MemoryWords : Prop :=
  ∀ (d a : BitVec 6) (la : BitVec 4) (sb : BitVec 3) (m : BitVec 1),
    let n := fun (i : IssueCtx) => accBytes i.pfx.dfmt
    let moved := fun (i : IssueCtx) => if m = 1 then 16 else n i
    let two := if m = 1 then 2 else 1
    let one := Operand.vv d false
    let fragment : Operand := { view := m.toNat + 1, reg := d.toNat, count := 4 }
    let into := fun (i : IssueCtx) => Operand.run d two i.pfx.ud
    let single := fun (i : IssueCtx) => Operand.vv d i.pfx.ud
    let sat := fun (i : IssueCtx) => i.pfx.sat
    let nowhere := fun (_ : IssueCtx) (_ : Thread) => Dst.none
    let old := fun (i : IssueCtx) (t : Thread) => if m = 1 then Dst.none else one.dst i t
    AccessCompletes a { op := .load, d := [into], sources := fun _ => [], size := moved, vol := sat, dst := fun i t => (into i).dst i t, la, sb }
      (.ld d a la sb m)
    ∧ AccessCompletes a { op := .store, d := [fun _ => .run d two], sources := fun i => [(.run d two, moved i)], size := moved, vol := sat
                          dst := nowhere, la, sb } (.st d a la sb m)
    ∧ AccessCompletes a { op := .pf (m == 1), d := [], sources := fun _ => [], size := fun _ => 1, typed := false, dst := nowhere, sb := none }
        (.pf a m)
    ∧ (∀ x ∈ [(AtomOp.add, Instr.atomAdd d a la sb m), (.min, .atomMin d a la sb m), (.max, .atomMax d a la sb m), (.and, .atomAnd d a la sb m),
        (.or, .atomOr d a la sb m), (.xor, .atomXor d a la sb m), (.xchg, .atomXchg d a la sb m)],
        AccessCompletes a { op := .atom x.1, d := [fun _ => one], sources := fun i => [(one, n i)], size := n, dst := old, noReturn := m == 1, la, sb }
          x.2)
    ∧ AccessCompletes a { op := .atom .cas, d := [fun _ => .run d 2], sources := fun i => [(one, n i), ({ one with reg := d.toNat + 1 }, n i)]
                          size := n, dst := old, noReturn := m == 1, la, sb } (.atomCas d a la sb m)
    ∧ AccessCompletes a { op := .red (if m = 1 then .max else .add), d := [fun _ => one], sources := fun i => [(one, n i)], size := n
                          dst := nowhere, noReturn := true, la, sb } (.red d a la sb m)
    ∧ AccessCompletes a { op := .hrel, d := [single], sources := fun _ => [], size := fun _ => 8, typed := false
                          dst := fun i t => (single i).dst i t, la, sb } (.hrel d a la sb)
    ∧ AccessCompletes a { op := .ldv, d := [single], sources := fun _ => [], size := fun _ => 8, span := fun _ => 1, align := fun _ => 1
                          typed := false, dst := fun i t => (single i).dst i t, la, sb } (.ldv d a la sb)
    ∧ AccessCompletes a { op := .momAcc, d := [fun _ => one], sources := fun _ => [(one, 8)], size := fun _ => 20, span := fun _ => 32
                          align := fun _ => 32, typed := false, dst := nowhere, noReturn := true, pipe := .gfx, la, sb } (.momAcc d a la sb)
    ∧ AccessCompletes a { op := .load, d := [fun _ => fragment], sources := fun _ => [], size := fun _ => 128, typed := false
                          dst := fun i t => fragment.dst i t, pipe := .mxu, la, sb } (.mld d a la sb m)
    ∧ AccessCompletes a { op := .store, d := [fun _ => fragment], sources := fun _ => [(fragment, 128)], size := fun _ => 128, typed := false
                          dst := nowhere, pipe := .mxu, la, sb } (.mst d a la sb m)
    ∧ Completes (.momRes d a la sb m)
        (fun s i => Each i (fun t => SlotFree s t.id sb.toNat 1 ∧ FieldsFree t i.beforeQ [.vv a false, one] [(.vv a false, 0, 8), (one, 0, 4)]
          ∧ (i.pfx.verMode = 1 → Untouched (8 * i.pfx.verSel, 3) i.beforeQ.poison)
          ∧ inRange ((Operand.vv a false).val t i.beforeQ).toNat 32 = true ∧ ((Operand.vv a false).val t i.beforeQ).toNat % 32 = 0))
        (fun s i => s.launchEach i i.parts own la.toNat (some sb.toNat) .gfx (fun t => .mem
          { op := .momRes ((one.val t i.beforeQ).setWidth 32), place := s.placeOf t, asid := s.asidOf t
            va := ((Operand.vv a false).val t i.beforeQ).toNat, size := 20, dfmt := 0, vol := false, ver := verOf i, dst := one.dst i t
            data := [], noReturn := false }))

/-- An address out of range raises ADDR_RANGE, one that is not aligned to the datum MISALIGNED, each with the address as its value, in a
store as in a load; nothing enters flight (R245, R268, R303). -/
def Obligations.AddressFaults : Prop :=
  ∀ (d a : BitVec 6) (la : BitVec 4) (sb : BitVec 3) (m : BitVec 1) (s : State) (i : IssueCtx) (t : Thread),
    s.ctl.issue = some i → i.checked = false → i.parts = [t] → i.pfx.ud = false → i.pfx.verMode = 0 → SlotFree s t.id sb.toNat 1 →
    let n := if m = 1 then 16 else accBytes i.pfx.dfmt
    let o := Operand.run d (if m = 1 then 2 else 1)
    FieldsFree t i.beforeQ [.vv a i.pfx.ua, o] [(.vv a i.pfx.ua, 0, 8), (o, 0, n)] →
    let traps := fun (cause : Nat) =>
      let x : Raised := { tid := t.id, cause, val := addressIn a i t, word := i.word, pipe := Pipe.lsu.code }
      ∀ w ∈ [Instr.ld d a la sb m, .st d a la sb m],
        exec w s = .next ((s.takeTraps [x] i.active i.pkt i.entry).modIssue (fun i => { i with status := .raised [x] }))
    (inRange (addressIn a i t) n = false → traps 0x11) ∧ (inRange (addressIn a i t) n = true → addressIn a i t % n ≠ 0 → traps 0x10)

/-- What an atomic stores in place of a value (R242, R272): sums wrap at the type's width, extremes compare as the type says, the bitwise
words, exchange, and the conditional exchange. -/
def Obligations.AtomicResults : Prop :=
  ∀ (k : Nat) (old x y : Nat),
    let w := fmtBits (orDefault k 15)
    let u := BitVec.ofNat w old
    let v := BitVec.ofNat w x
    old < 2 ^ w → x < 2 ^ w →
    (isFloatFmt (orDefault k 15) = false →
      atomResult .add k old x y = (u + v).toNat
      ∧ atomResult .min k old x y = (if isSignedFmt (orDefault k 15) then (if v.slt u then v else u) else (if v.ult u then v else u)).toNat
      ∧ atomResult .max k old x y = (if isSignedFmt (orDefault k 15) then (if u.slt v then v else u) else (if u.ult v then v else u)).toNat)
    ∧ atomResult .and k old x y = (u &&& v).toNat ∧ atomResult .or k old x y = (u ||| v).toNat ∧ atomResult .xor k old x y = (u ^^^ v).toNat
    ∧ atomResult .xchg k old x y = x ∧ atomResult .cas k old x y = if old = x then y else old

/-- Byte memory: what is written reads back, other bytes stay, writes keep the canonical form, and canonical memories that read alike are
equal; device memory of R247, windows of R161 and scratchpads of R222 are all of this type. -/
def Obligations.BytesWrittenReadBack : Prop :=
  ∀ (m : Mem) (a : Nat) (bs : List Byte), m.wf = true →
    (m.writeN a bs).wf = true ∧ (m.writeN a bs).readN a bs.length = bs
    ∧ (∀ x, ¬(a ≤ x ∧ x < a + bs.length) → (m.writeN a bs).read x = m.read x)
    ∧ ∀ k : Mem, k.wf = true → (∀ x, k.read x = m.read x) → k = m

/-- The cache operations act on the lines of [a, a + len) of the thread's address space: `cinval.l1` drops a core's L1 copies,
`cinval.l2` a die's L2 copies as well, writing dirty ones back, `cwb` writes a die's dirty copies back and keeps them, `hflush` and `hinval`
send every die's copies home (R275). `spres` sets or clears the presence of its lines, `set` after the thread's scratchpad writes (R243,
R233); `swf` waits for them and begins a new generation of the team's operand cache (R244, R355). Setting presence frees the crews parked
on the lines (R234). -/
def Obligations.CacheAndPresenceWords : Prop :=
  (∀ (a b : BitVec 6),
     let oa := fun (i : IssueCtx) => Operand.vv a i.pfx.ua
     let ob := fun (i : IssueCtx) => Operand.vv b i.pfx.ub
     let len := fun (i : IssueCtx) (t : Thread) => ((ob i).val t i.beforeQ).toNat % 2 ^ 48
     let ok := fun (wait : Bool) (s : State) (i : IssueCtx) => Each i (fun t =>
       (wait = true → NoneOutstanding s t.id Flight.isWrite) ∧ FieldsFree t i.beforeQ [oa i, ob i] [(oa i, 0, 8), (ob i, 0, 6)]
       ∧ addressIn a i t < 2 ^ 52 ∧ inRange (addressIn a i t) (len i t) = true)
     let on := fun (f : State → Place → LineRange → State) (s : State) (i : IssueCtx) =>
       s.each i.parts (fun s t => f s (s.placeOf t) (lineRange (s.asidOf t) (addressIn a i t) (len i t)))
     Completes (.cinval a b 0) (ok false) (on State.dropL1)
     ∧ Completes (.cinval a b 1) (ok false) (on State.dropL2)
     ∧ Completes (.cwb a b) (ok true) (on State.cleanL2)
     ∧ Completes (.hflush a b) (ok true) (on (fun s _ r => s.dropAll r))
     ∧ Completes (.hinval a b) (ok true) (on (fun s _ r => s.dropAll r))
     ∧ ∀ (s : State) (p : Place) (r : LineRange),
         (∀ l, l ∈ (s.dropL1 p r).mem.l1 ↔ l ∈ s.mem.l1 ∧ ¬(l.place = p ∧ r.has l.asid l.line = true))
         ∧ (∀ l, l ∈ (s.dropL2 p r).mem.l2 ↔ l ∈ s.mem.l2 ∧ ¬(l.die = p.die ∧ r.has l.asid l.line = true))
         ∧ (∀ l ∈ (s.cleanL2 p r).mem.l2, l.die = p.die → r.has l.asid l.line = true → l.dirty = false)
         ∧ (∀ l, l ∈ (s.dropAll r).mem.l2 ↔ l ∈ s.mem.l2 ∧ r.has l.asid l.line = false))
  ∧ (∀ (set : BitVec 1) (a : BitVec 6) (count : BitVec 8),
       let o := fun (i : IssueCtx) => Operand.vv a i.pfx.ua
       let off := fun (i : IssueCtx) (t : Thread) => ((o i).val t i.beforeQ).toNat % 2 ^ 32
       let level := fun (i : IssueCtx) (t : Thread) => ((o i).val t i.beforeQ).toNat / 2 ^ 32 % 4
       let lines := fun (i : IssueCtx) (t : Thread) => (List.range (count.toNat + 1)).map (fun k => k + off i t / 128)
       Completes (.spres set a count)
         (fun s i => Each i (fun t => (set = 1 → NoneOutstanding s t.id Flight.isScrWrite) ∧ FieldsFree t i.beforeQ [o i] [(o i, 0, 5)]
           ∧ off i t % 128 = 0 ∧ level i t ≠ 3 ∧ off i t + 128 * (count.toNat + 1) ≤ (s.scr (level i t) (s.scrOwner t (level i t))).size))
         (fun s i => s.each i.parts (fun s t => s.setPresence (level i t) (s.scrOwner t (level i t)) (lines i t) (set == 1)))
       ∧ Completes .swf (fun s i => Each i (fun t => NoneOutstanding s t.id Flight.isScrWrite))
         (fun s i => match i.parts with
           | t :: _ => s.modTeam t.team (fun m => { m with opgen := m.opgen + 1 })
           | [] => s)
       ∧ (∀ (x : Scratch) (ls : List Nat) (l : Nat),
           (l ∈ (x.present ls true).absent ↔ l ∈ x.absent ∧ l ∉ ls) ∧ (l ∈ (x.present ls false).absent ↔ l ∈ x.absent ∨ l ∈ ls))
       ∧ ∀ (s : State) (c : Crew), c ∈ s.unpark.crews → c.parked ≠ [] → ∃ l ∈ c.parked, l.line ∈ (s.scr l.level l.owner).absent)

/-! ### Scratchpads (R222-R244) -/

/-- Loads and stores of the four levels and the atomics: with room in the slot, operands free, the access aligned, inside its allotment,
its lines present and, for what reads, no poisoned byte, each participant's access enters flight (R225, R226, R234, R240-R242), with
the passes that the word takes in the core scratchpad (R230), counted when its last is served (R231). -/
def Obligations.ScratchWords : Prop :=
  ∀ (d a : BitVec 6) (la : BitVec 4) (sb : BitVec 3) (m : BitVec 1),
    let two := if m = 1 then 2 else 1
    let completes := fun (form : Pfx → ScrWord) (w : Instr) =>
      Completes w
        (fun s i =>
          let f := form i.pfx
          Each i (fun t => SlotFree s t.id sb.toNat 1)
          ∧ ∀ t ∈ f.accessors i.parts,
              let x := f.target i t
              let pad := s.scr x.level (s.scrOwner t x.level)
              FieldsFree t i.beforeQ [f.d, f.a] (f.reads.map (fun r => (r.1, 0, r.2)))
              ∧ x.off % f.size = 0 ∧ x.off + f.size ≤ pad.size ∧ (f.level = none → x.level ≠ 3)
              ∧ (x.level ≠ 3 → ∀ k ∈ linesOf x.off f.size, k ∉ pad.absent) ∧ (f.op ≠ .store → pad.bad x.off f.size = false))
        (fun s i =>
          let f := form i.pfx
          s.launchEach i (f.accessors i.parts) (if f.d.isQ then fun _ => i.parts.map (·.id) else own) la.toNat
            (some sb.toNat) .lsu (fun t => .scr (f.access i (f.passes s i i.parts) t)))
    let move := fun (op : MemOp) (level : Nat) => completes (fun x =>
      { op, level := some level, d := .run d two x.ud, a := .vv a x.ua, size := if m = 1 then 16 else accBytes x.dfmt, dfmt := x.dfmt
        la := la.toNat, sb := sb.toNat })
    let atom := fun (op : AtomOp) (n : Nat) => completes (fun x =>
      { op := .atom op, level := none, d := .run d n, a := .vv a x.ua, size := accBytes x.dfmt, dfmt := x.dfmt, noReturn := m == 1
        la := la.toNat, sb := sb.toNat })
    move .load 3 (.ldl d a la sb m) ∧ move .store 3 (.stl d a la sb m) ∧ move .load 0 (.lds d a la sb m) ∧ move .store 0 (.sts d a la sb m)
    ∧ move .load 1 (.ldc d a la sb m) ∧ move .store 1 (.stc d a la sb m) ∧ move .load 2 (.ldk d a la sb m) ∧ move .store 2 (.stk d a la sb m)
    ∧ atom .add 1 (.atomsAdd d a la sb m) ∧ atom .min 1 (.atomsMin d a la sb m) ∧ atom .max 1 (.atomsMax d a la sb m)
    ∧ atom .and 1 (.atomsAnd d a la sb m) ∧ atom .or 1 (.atomsOr d a la sb m) ∧ atom .xor 1 (.atomsXor d a la sb m)
    ∧ atom .xchg 1 (.atomsXchg d a la sb m) ∧ atom .cas 2 (.atomsCas d a la sb m)

/-! ### The matrix unit (R341-R365) -/

/-- The set-level words: each member captures the slices that the word names in its window, its results pending, and the set's generation
is issued, at once or with the last member that signs (R343-R346, R348, R357, R358, R362-R365); of a product in the register form each
member captures its slices of A, B and C. `mres`, `mrel` and `mobl` reserve, release and fill ranges of the operand buffer (R351, R352,
R354). When a generation issues is the model's reading (log 16). -/
def Obligations.MatrixWords : Prop :=
  (∀ (c a b la : BitVec 4) (sb : BitVec 3) (m : BitVec 1),
    let word := fun (op : SetOp) (f : Nat) => ({ op, efmt := f, c := c.toNat, a := a.toNat, b := b.toNat, m := m.toNat } : SetWord)
    let slot := some sb.toNat
    (∀ x ∈ [(1, Instr.mmaD c a b la sb m), (2, .mmaS c a b la sb m), (4, .mmaBf c a b la sb m), (3, .mmaH c a b la sb m),
        (5, .mmaE4 c a b la sb m), (6, .mmaE5 c a b la sb m), (7, .mmaF4 c a b la sb m)],
      CaptureCompletes (fun _ => word .mma x.1) la.toNat slot x.2)
    ∧ CaptureCompletes (fun x => word .mmg (if x.sfmt = 0 then 4 else x.sfmt)) la.toNat slot (.mmg c a b la sb m)
    ∧ CaptureCompletes (fun _ => { op := .mzero, c := c.toNat, m := m.toNat }) la.toNat slot (.mzero c la sb m)
    ∧ CaptureCompletes (fun _ => { op := .chol, c := c.toNat }) la.toNat slot (.mcholD c la sb)
    ∧ CaptureCompletes (fun _ => { op := .lu, c := c.toNat, a := a.toNat }) la.toNat slot (.mluD c a la sb)
    ∧ CaptureCompletes (fun _ => word .trsm 1) la.toNat slot (.mtrsmD c a b la sb m)
    ∧ ∀ (f : Nat) (g : Team) (t : Thread), m = 0 →
        (word .mma f).plan g t =
          { reads := [(0, (t.view 1).base + 128 * a.toNat, sliceAB f), (1, (t.view 1).base + 128 * b.toNat, sliceAB f),
              (9, (t.view 2).base + 128 * c.toNat, sliceC f)]
            writes := [((t.view 2).base + 128 * c.toNat, sliceC f)] })
  ∧ (∀ (d a b : BitVec 6) (m : BitVec 2),
    CaptureCompletes (fun _ => { op := .mepi, efmt := (match m.toNat with | 0 => 1 | 1 => 2 | _ => 4), c := d.toNat, a := a.toNat / 4
                                 b := b.toNat, m := m.toNat }) 0 none (.mepi d a b m))
  ∧ (∀ (d a b : BitVec 6),
    Completes (.mres d a b) (fun _ i => Free i [.run a 2] [.vv d false])
      (fun s i => s.each i.parts (fun s t =>
        let r := fun k => BitVec.ofNat 64 (bytesToNat ((((Operand.run a 2).bytes t i.beforeQ).drop (8 * k)).take 8))
        let x := s.reserve t.team b.toNat (r 0) (r 1)
        x.2.land64 t.id ((Operand.vv d false).dst i t)
          (BitVec.ofNat 64 ((if x.1 = 0 ∨ x.1 = 4 then recTiles (r 0) (r 1) else 0) * 2 ^ 32 + x.1)))))
  ∧ (∀ (d : BitVec 6) (handle : BitVec 8),
    Completes (.mrel d handle)
      (fun s i => Free i [] [.vv d false] ∧ Each i (fun t => ∀ m, s.team? t.team = some m → s.handleBusy m handle.toNat = false))
      (fun s i => s.each i.parts (fun s t =>
        let held := match s.team? t.team with | some m => (m.handle handle.toNat).isSome | none => false
        ((s.modTeam t.team (fun m => { m with handles := modAt (fun _ => none) handle.toNat m.handles })).dropReuse t.team handle.toNat).land64 t.id
          ((Operand.vv d false).dst i t) (if held then 0 else 1))))
  ∧ (∀ (d a : BitVec 6) (la : BitVec 4) (sb : BitVec 3) (m : BitVec 1),
    let od := Operand.vv d false
    let oa := fun (i : IssueCtx) => Operand.vv a i.pfx.ua
    let job := fun (i : IssueCtx) (t : Thread) => moblJob i od (oa i) (m == 1) t
    Completes (.mobl d a la sb m)
      (fun s i => Each i (fun t => SlotFree s t.id sb.toNat 1
        ∧ FieldsFree t i.beforeQ [od, oa i] [(oa i, 0, if m = 1 then 5 else 8), (od, 0, 6)]
        ∧ s.moblVerdict t (job i t) (m == 1) = .pass ∧ (m = 1 → ∀ l ∈ s.moblLines t (job i t), s.lineAbsent l = false)))
      (fun s i => s.launchEach i i.parts own la.toNat (some sb.toNat) .mxu (fun t =>
        .mobl (job i t).handle (job i t).off (job i t).lines (job i t).src (m == 1))))
  ∧ ∀ (s : State) (team h : Nat) (r0 r1 : W64) (m : Team), s.team? team = some m → h < m.handles.length →
      (recValid r0 r1 = false → s.reserve team h r0 r1 = (3, s))
      ∧ (∀ x, recValid r0 r1 = true → m.handle h = some x → (x.rec0 = r0 ∧ x.rec1 = r1 ↔ (s.reserve team h r0 r1).1 = 4)
          ∧ (¬(x.rec0 = r0 ∧ x.rec1 = r1) → s.reserve team h r0 r1 = (1, s)))
      ∧ (recValid r0 r1 = true → m.handle h = none →
          (s.bufferRoom m.place (128 * recSize r0) = false → s.reserve team h r0 r1 = (2, s))
          ∧ (s.bufferRoom m.place (128 * recSize r0) = true → (s.reserve team h r0 r1).1 = 0
            ∧ ∃ k, (s.reserve team h r0 r1).2.team? team = some k ∧ k.handle h = some { rec0 := r0, rec1 := r1 }))

/-- A product of tiles: each element of C takes, group by group in ascending depth, the exact sum of the group's products of its row of A
and column of B, rounded once to the accumulator's format to nearest even (R96-R98, R101, R341, R348). -/
def Obligations.MatrixProducts : Prop :=
  ∀ (f i j : Nat) (a b c : List Byte),
    let dim := if f ≤ 2 then 16 else 32
    let depth := match f with | 1 => 4 | 2 => 16 | 3 => 8 | 4 => 8 | 5 => 16 | 6 => 16 | _ => 32
    let group := if f ≤ 2 then 4 else if depth = 8 then 8 else 16
    let acc := if f = 1 then 1 else 2
    let at_ := fun (k : Nat) (image : List Byte) (n : Nat) => fpDecode k (bytesToNat image / 2 ^ (fmtBits k * n) % 2 ^ fmtBits k)
    1 ≤ f → f ≤ 7 → i < dim → j < dim → 8 * a.length = dim * depth * fmtBits f → 8 * b.length = dim * depth * fmtBits f →
    8 * c.length = dim * dim * fmtBits acc →
    ((product f .one 0 dim a b c).getD i []).getD j 0
      = (List.range (depth / group)).foldl (fun r g =>
          (roundTo acc 0 false 0 (exactSum false ((fpDecode acc r).exact :: (List.range group).map (fun k =>
            fpMul (at_ f a (depth * i + group * g + k)) (at_ f b (depth * j + group * g + k)))))).bits)
        (bytesToNat c / 2 ^ (fmtBits acc * (dim * i + j)) % 2 ^ fmtBits acc)

/-! ### Engines and launching (R151, R217, R218, R374-R386) -/

/-- `pdef` reads a record into its team's slot (R217); `pace` (R218), `cpy`, `cpyq` and `gat` (R374, R381, R386) put a job into the
scheduler with what they read at issue, a `cpyq` that adds to a counter setting NRP (R146, R388); `stage` raises the team's scheduled stage (R385); `launch` reads a record and queues a child
grid, or says why not (R151); what it read, later loads of the thread do not see older (R284). -/
def Obligations.EngineWords : Prop :=
  ∀ (d a : BitVec 6) (la : BitVec 4) (sb : BitVec 3) (k : BitVec 14),
    let od := Operand.vv d false
    let oa := fun (i : IssueCtx) => Operand.vv a i.pfx.ua
    let gridOf := fun (s : State) (t : Thread) => (s.gridOf t).elim 0 (·.event)
    let head := fun (i : IssueCtx) (t : Thread) => ((Operand.vv a false).val t i.beforeQ).toNat
    let stream := fun (s : State) (i : IssueCtx) (t : Thread) => s.paceSlot t (head i t / 2 ^ 40 % 8)
    let copy := fun (n : Nat) (w : Instr) => Completes w
      (fun s i => Each i (fun t => SlotFree s t.id sb.toNat 1 ∧ FieldsFree t i.beforeQ [od, oa i] [(oa i, 0, 8)]
        ∧ (i.pfx.verMode = 1 → Untouched (8 * i.pfx.verSel, 3) i.beforeQ.poison)
        ∧ ∃ c r s', s.prepJob i t n (addressIn a i t) = .ready c r s' ∧ s.jobRoom t n c i.parts.length = .pass))
      (fun s i => s.each i.parts (fun s t => match s.prepJob i t n (addressIn a i t) with
        | .ready c r s =>
          let u := { s with ctl := { s.ctl with nextId := s.ctl.nextId + 1 } }
          let u := u.launchFlight i [t.id] la.toNat (some sb.toNat) .eng (.job s.ctl.nextId)
          (if n = 1 ∧ bit (⟨c⟩ : Card).tail 2 = true then u.setNrp t.id else u).acceptJob
            { id := s.ctl.nextId, grid := gridOf u t, team := t.team, die := (s.placeOf t).die, word := n
              flight := some (s.ctl.nextId + 1), dst := od.dst i t, card := c, record := r, step := i.beforeStep
              ver := i.pfx.ver.map (fun _ => verOf i), foot := s.footprint t.team ⟨c⟩ ⟨r⟩ }
        | _ => s))
    Completes (.pdef d a)
      (fun s i => Each i (fun t => OperandsFree t i.beforeQ [oa i] [] [(0, 0)] ∧ ∃ bs s', s.pdefRead i t (addressIn a i t) = .record bs s'))
      (fun s i => s.each i.parts (fun s t => match s.pdefRead i t (addressIn a i t) with
        | .record bs s => s.modTeam t.team (fun m => { m with pace := modAt (fun _ => some bs) d.toNat m.pace })
        | _ => s))
    ∧ Completes (.pace d a la sb)
      (fun s i => Each i (fun t => SlotFree s t.id sb.toNat 1 ∧ ∃ bs, stream s i t = some bs
        ∧ FieldsFree t i.beforeQ [od, .run a 5] ((.run a 5, 0, 6) :: (.run a 5, 32, 8)
            :: (List.range (⟨bytesToNat bs⟩ : PaceRec).nsrc).map (fun n => (.run a 5, 8 + 8 * n, 8)))
        ∧ (paceJob i a t bs (od.dst i t)).verdict = .pass ∧ s.paceRoom t i.parts.length = .pass))
      (fun s i => s.each i.parts (fun s t => match stream s i t with
        | none => s
        | some bs =>
          let p := paceJob i a t bs (od.dst i t)
          let u := { s with ctl := { s.ctl with nextId := s.ctl.nextId + 1 } }
          (u.launchFlight i [t.id] la.toNat (some sb.toNat) .eng (.pace p)).acceptJob
            { id := s.ctl.nextId, grid := gridOf u t, team := t.team, die := (s.placeOf t).die, word := 3, flight := some (s.ctl.nextId + 1)
              dst := p.dst, step := i.beforeStep
              foot := p.ranges.map (fun x => { level := 4, owner := s.asidOf t, base := x.1, len := x.2.1, write := x.2.2 }) }))
    ∧ copy 0 (.cpy d a la sb) ∧ copy 1 (.cpyq d a la sb) ∧ copy 2 (.gat d a la sb)
    ∧ Completes (.stage d k)
      (fun s i => (d.toNat ≠ 63 → Untouched (8 * d.toNat, 2) i.beforeQ.poison)
        ∧ Each i (fun t => NoneOutstanding s t.id (fun f => f.isAccess || f.isJob)))
      (fun s i => match i.parts with
        | [] => s
        | t :: _ =>
          let n := k.toNat + (if d.toNat = 63 then 0 else (i.beforeQ.get d.toNat).toNat % 2 ^ 16)
          (s.modTeam t.team (fun m => { m with regs := { m.regs with
            sched := BitVec.ofNat 64 (setFld m.regs.sched.toNat 0 16 (max (m.regs.sched.toNat % 2 ^ 16) (min n 65535))) } })).releaseSchedule t.team)
    ∧ Completes (.launch d a)
      (fun s i => Each i (fun t => NoneOutstanding s t.id Flight.isAccess ∧ OperandsFree t i.beforeQ [oa i] [od] [(0, 0)]
        ∧ (∃ bs, s.launchRecord i t (addressIn a i t) = .bytes bs) ∧ s.launchWait i t (addressIn a i t) = none))
      (fun s i => s.each i.parts (fun s t => match s.launchRecord i t (addressIn a i t) with
        | .bytes bs =>
          let r := s.launchStatus i t bs
          let s := (s.freshenRange (s.placeOf t).die (s.asidOf t) 0 (addressIn a i t) 256).land64 t.id (od.dst i t) (BitVec.ofNat 64 r.1)
          if r.1 = 0 then s.acceptChild t (bytesToNat bs) r.2 else s
        | _ => s))

/-! ### Versions (R319, R329-R338) -/

/-- `vstep` sets or raises the crew's step once (R319); `vpub` enters flight after the thread's writes (R329); `vbind` and `vrel` bind and
release a view slot and say how many readers it has (R332); `vq` asks about versions and the pool (R338). -/
def Obligations.VersionWords : Prop :=
  ∀ (d a b : BitVec 6) (la : BitVec 4) (sb : BitVec 3) (m : BitVec 2),
    let od := Operand.vv d false
    let oa := fun (i : IssueCtx) => Operand.vv a i.pfx.ua
    let ob := fun (i : IssueCtx) => Operand.vv b i.pfx.ub
    let va := fun (i : IssueCtx) (t : Thread) => ((oa i).val t i.beforeQ).toNat
    (m.toNat ≤ 1 → Completes (.vstep a m)
      (fun _ i => if m = 0 then ∀ t, i.parts.head? = some t → FieldsFree t i.beforeQ [oa i] [(oa i, 0, 3)] else i.beforeStep ≠ 0xFFFFFF)
      (fun s i => match i.parts with
        | t :: _ => s.modCrew i.crew (fun c => { c with step := if m = 0 then va i t % 2 ^ 24 else i.beforeStep + 1 })
        | [] => s))
    ∧ Completes (.vpub d a la sb)
      (fun s i => Each i (fun t => SlotFree s t.id sb.toNat 1 ∧ NoneOutstanding s t.id Flight.isWrite
        ∧ FieldsFree t i.beforeQ [od, oa i] [(oa i, 0, 3), (oa i, 4, 1)]))
      (fun s i => s.launchEach i i.parts own la.toNat (some sb.toNat) .eng (fun t => .vpub (va i t % 2 ^ 24) (va i t / 2 ^ 32 % 8) (od.dst i t)))
    ∧ Completes (.vbind d a b) (fun _ i => Each i (fun t => FieldsFree t i.beforeQ [od, oa i, ob i] [(oa i, 0, 8), (ob i, 0, 3)]))
      (fun s i => s.each i.parts (fun s t =>
        let r := s.bindSlot (s.asidOf t) (va i t) (((ob i).val t i.beforeQ).toNat % 2 ^ 24)
        r.2.2.land64 t.id (od.dst i t) (BitVec.ofNat 64 (r.2.1 * 2 ^ 16 + r.1))))
    ∧ Completes (.vrel d a) (fun _ i => Each i (fun t => FieldsFree t i.beforeQ [od, oa i] [(oa i, 0, 8)]))
      (fun s i => s.each i.parts (fun s t =>
        let r := s.releaseSlot (s.asidOf t) (va i t)
        r.2.2.land64 t.id (od.dst i t) (BitVec.ofNat 64 (r.2.1 * 2 ^ 16 + r.1))))
    ∧ (m.toNat ≤ 2 →
      let into := fun (i : IssueCtx) => Operand.vv d i.pfx.ud
      let free := fun (i : IssueCtx) (t : Thread) =>
        FieldsFree t i.beforeQ (if m = 1 then [into i] else [into i, oa i]) (if m = 0 then [(oa i, 0, 3)] else if m = 1 then [] else [(oa i, 0, 1)])
      let one := fun (i : IssueCtx) (s : State) (t : Thread) =>
        s.land64 t.id ((into i).dst i t) (BitVec.ofNat 64 (s.poolQuery (s.asidOf t) m.toNat (va i t)))
      Completes (.vq d a m) (fun _ i => if i.pfx.ud then ∀ t, (i.active.filterMap i.src).head? = some t → free i t else Each i (free i))
        (fun s i => if i.pfx.ud then match (i.active.filterMap i.src).head? with | some t => one i s t | none => s else s.each i.parts (one i)))
    ∧ ∀ (s : State) (asid n v : Nat) (x : ViewSlot), 1 ≤ n → n ≤ 15 → (s.asidBlock asid).vslots[n]? = some x →
        let a := s.asidBlock asid
        let set := fun (y : ViewSlot) (s' : State) => (s'.asidBlock asid).vslots = a.vslots.modify n (fun _ => y)
        (a.published v = false → s.bindSlot asid n v = (2, x.readers, s))
        ∧ (a.published v = true → x.bound = true → x.version ≠ v → s.bindSlot asid n v = (1, x.readers, s))
        ∧ (a.published v = true → x.bound = true → x.version = v → x.readers < 65535 →
            ∃ s', s.bindSlot asid n v = (0, x.readers + 1, s') ∧ set { x with readers := x.readers + 1 } s')
        ∧ (a.published v = true → x.bound = false → a.held v = true →
            ∃ s', s.bindSlot asid n v = (0, 1, s') ∧ set { bound := true, readers := 1, version := v } s')
        ∧ (x.bound = false → s.releaseSlot asid n = (1, x.readers, s))
        ∧ (x.bound = true → 1 < x.readers → ∃ s', s.releaseSlot asid n = (0, x.readers - 1, s') ∧ set { x with readers := x.readers - 1 } s')
        ∧ (x.bound = true → x.readers = 1 →
            ∃ s', s.releaseSlot asid n = (0, 0, s') ∧ set { x with bound := false, readers := 0 } s' ∧ ∀ l ∈ s'.mem.l2, l.asid = asid → l.slot ≠ n)

/-! ### Sampling, rays, fields (R398, R402-R410) -/

/-- `tex`, `texl`, `texg`, `fmarch`, `rt` and `rnext` enter flight with their operands as they stand at issue (R398, R405, R410), `rt` with
the ray it starts in its area (R402); `rgen` and `rhit` write at once (R406, R408). While an `rt` or `rnext` is outstanding each byte that `rhit` reads of the area is
old or new (R406): that the model gives the area as the events so far have left it is its choice (log 26). -/
def Obligations.GraphicsWords : Prop :=
  ∀ (d a b : BitVec 6) (la : BitVec 4) (sb : BitVec 3) (m : BitVec 1) (m2 : BitVec 2),
    let od := Operand.vv d false
    let oa := Operand.vv a false
    let ob := Operand.vv b false
    let reg := fun (n : Nat) (i : IssueCtx) (t : Thread) (k : Nat) =>
      BitVec.ofNat 64 (bytesToNat ((((Operand.run a n).bytes t i.beforeQ).drop (8 * k)).take 8))
    let result := Operand.run d (if m = 1 then 2 else 1)
    let sample := fun (op n : Nat) (more : List (Operand × Nat × Nat)) (w : Instr) => Completes w
      (fun s i => Each i (fun t => SlotFree s t.id sb.toNat 1
        ∧ FieldsFree t i.beforeQ [result, .run a n] ([(.run a n, 0, 8), (.run a n, 8, 7)] ++ more)
        ∧ (reg n i t 1).toNat % 2 ^ 52 % 64 = 0))
      (fun s i => s.launchEach i i.parts own la.toNat (some sb.toNat) .gfx (fun t =>
        .tex op (m == 1) (reg n i t 0) ((reg n i t 1).toNat % 2 ^ 52) (if op = 0 then 0 else reg n i t 2)
          (i.beforeRegs.wtbase.toNat / 2 ^ 11 % 2 ^ 41 * 2048) (result.dst i t) none))
    let ray := fun (i : IssueCtx) (t : Thread) => rayOf ((List.range 6).map (reg 6 i t))
    sample 0 2 [] (.tex d a la sb m) ∧ sample 1 3 [(.run a 3, 16, 4)] (.texl d a la sb m) ∧ sample 2 3 [(.run a 3, 16, 2)] (.texg d a la sb m)
    ∧ Completes (.fmarch d a la sb)
      (fun s i => Each i (fun t => SlotFree s t.id sb.toNat 1 ∧ OperandsFree t i.beforeQ [.run a 5] [.run d 2] [(0, 0)]
        ∧ (reg 5 i t 4).toNat / 2 ^ 52 % 16 = 0 ∧ (reg 5 i t 4).toNat / 2 ^ 60 = 0))
      (fun s i => s.launchEach i i.parts own la.toNat (some sb.toNat) .gfx (fun t =>
        .fmarch ((List.range 5).map (reg 5 i t)) ((Operand.run d 2).dst i t)))
    ∧ Completes (.rt d a la sb)
      (fun s i => Each i (fun t =>
        let r := ray i t
        SlotFree s t.id sb.toNat 1 ∧ NoneOutstanding s t.id Flight.isRay ∧ s.rayFree t.id = true
        ∧ FieldsFree t i.beforeQ [od, .run a 6] [(.run a 6, 0, 40), (.run a 6, 40, 4)]
        ∧ r.flags / 2 ^ 62 % 4 = 0 ∧ r.area % 128 = 0 ∧ r.root % 128 = 0 ∧ r.area + 512 ≤ t.priv.size))
      (fun s i => s.each i.parts (fun s t =>
        (s.startRay t.id (ray i t)).launchFlight i [t.id] la.toNat (some sb.toNat) .gfx (.ray none (od.dst i t))))
    ∧ Completes (.rnext d a la sb)
      (fun s i => Each i (fun t => SlotFree s t.id sb.toNat 1 ∧ NoneOutstanding s t.id Flight.isRay ∧ s.rayFree t.id = true
        ∧ FieldsFree t i.beforeQ [od, oa] [(oa, 0, 1)] ∧ ∃ r, t.ray = some r ∧ (r.event ≠ 0 ∨ r.live = true)))
      (fun s i => s.launchEach i i.parts own la.toNat (some sb.toNat) .gfx (fun t =>
        let k := (oa.val t i.beforeQ).toNat % 4
        .ray (some (if t.rayEvent = 0 ∧ k ≠ 3 then 0 else k)) (od.dst i t)))
    ∧ (m2 ≠ 3 → Completes (.rgen d a b m2) (fun _ i => Free i [oa, ob] [od])
      (fun s i => s.each i.parts (fun s t => s.land64 t.id (od.dst i t)
        (BitVec.ofNat 64 (rgenValue m2.toNat (oa.val t i.beforeQ) (ob.val t i.beforeQ) i.beforeRegs.rgtime.toNat)))))
    ∧ (m2.toNat ≤ 1 → Completes (.rhit d a b m2)
      (fun _ i => Each i (fun t => FieldsFree t i.beforeQ [od] [] ∧ ∃ r, t.ray = some r))
      (fun s i => s.each i.parts (fun s t => match t.ray with
        | none => s
        | some r => s.land64 t.id (od.dst i t)
            (BitVec.ofNat 64 (hitField (s.hit? t.id r (if m2 = 0 then 64 else 96)) b.toNat)))))
    ∧ Completes (.rhit d a b 2)
      (fun s i => Each i (fun t => FieldsFree t i.beforeQ [oa, ob] [(oa, 0, 4), (ob, 0, 8)] ∧ s.rayFree t.id = true
        ∧ ∃ r, t.ray = some r ∧ r.event = 2))
      (fun s i => s.each i.parts (fun s t => match t.ray with
        | none => s
        | some _ => s.reportHit t.id ((oa.val t i.beforeQ).toNat % 2 ^ 32) (ob.val t i.beforeQ).toNat))

/-! ### Other packages (R443-R455) -/

/-- `rld`, `rst` and `ratom` enter flight to the peer by the route of the thread's die, failed where its port is DOWN (R443, R470),
a `ratom` that is sent setting NRP (R146); `cnt.add`
posts an add (R447); `cwait` waits for a counter (R448); `coll` fires a chunk or finds it fired (R455). -/
def Obligations.LinkWords : Prop :=
  ∀ (d a b : BitVec 6) (la : BitVec 4) (sb : BitVec 3) (m : BitVec 1) (m2 : BitVec 2),
    let od := Operand.vv d false
    let oa := fun (i : IssueCtx) => Operand.vv a i.pfx.ua
    let va := fun (i : IssueCtx) (t : Thread) => ((oa i).val t i.beforeQ).toNat
    let pair := fun (i : IssueCtx) => Operand.run a 2 i.pfx.ua
    let addr := fun (i : IssueCtx) (t : Thread) => ((pair i).val t i.beforeQ).toNat
    let peer := fun (i : IssueCtx) (t : Thread) => bytesToNat (((pair i).bytes t i.beforeQ).drop 8) % 2 ^ 10
    let die := fun (s : State) (t : Thread) => (s.placeOf t).die
    let remote := fun (op : Pfx → MemOp) (o : Pfx → Operand) (sources : Pfx → List Operand) (read size dfmt : Pfx → Nat) (silent marks : Bool)
        (w : Instr) => Completes w
      (fun s i => Each i (fun t => SlotFree s t.id sb.toNat 1
        ∧ FieldsFree t i.beforeQ [o i.pfx, pair i] ((pair i, 0, 10) :: (sources i.pfx).map (fun x => (x, 0, read i.pfx)))
        ∧ inRange (addr i t) (size i.pfx) = true ∧ addr i t % size i.pfx = 0 ∧ (s.portTo? (peer i t) (die s t)).isSome = true
        ∧ (op i.pfx = .load → s.movedLoads t.id (peer i t) (die s t) = false)))
      (fun s0 i => s0.each i.parts (fun s t => match s.via? (peer i t) (die s0 t) with
        | none => s
        | some (via, down) =>
          (if marks && !down then s.setNrp t.id else s).launchFlight i [t.id] la.toNat (some sb.toNat) .lsu (.remote
            { op := op i.pfx, peer := peer i t, va := addr i t, size := size i.pfx, dfmt := dfmt i.pfx
              dst := if op i.pfx = .store ∨ silent = true then .none else (o i.pfx).dst i t
              data := (sources i.pfx).flatMap (fun x => (x.bytes t i.beforeQ).take (read i.pfx)), noReturn := silent, via })
            (if down then .faulted 0x60 (addr i t) else .start)))
    let fragment : Operand := { view := m.toNat + 1, reg := d.toNat, count := 4 }
    remote (fun _ => .load) (fun _ => fragment) (fun _ => []) (fun _ => 0) (fun _ => 128) (fun _ => 0) false false (.rld d a la sb m)
    ∧ remote (fun _ => .store) (fun _ => fragment) (fun _ => [fragment]) (fun _ => 128) (fun _ => 128) (fun _ => 0) false false (.rst d a la sb m)
    ∧ remote (fun x => .atom (atomOpOf x.sfmt)) (fun x => .run d (if 7 ≤ x.sfmt then 2 else 1))
        (fun x => if 7 ≤ x.sfmt then [.vv d false, { reg := d.toNat + 1 }] else [.vv d false]) (fun x => accBytes x.dfmt) (fun x => accBytes x.dfmt)
        (fun x => x.dfmt) (m == 1) true (.ratom d a la sb m)
    ∧ (m2 ≠ 3 →
      let ob := fun (i : IssueCtx) => Operand.vv b i.pfx.ub
      Completes (.cntAdd a b m2)
        (fun s i => Each i (fun t => NoneOutstanding s t.id (fun f => f.isWrite || f.isJob)
          ∧ FieldsFree t i.beforeQ [oa i, ob i] [(oa i, 0, if m2 = 1 then 4 else 2), (ob i, 0, 4)]
          ∧ if m2 = 1 then (s.portTo? (va i t / 2 ^ 16 % 2 ^ 10) (die s t)).isSome = true else va i t % 2 ^ 12 < (s.cntWindow (s.asidOf t)).2))
        (fun s0 i => s0.each i.parts (fun s t =>
          let there := va i t / 2 ^ 16 % 2 ^ 10
          let add := fun (s : State) (mark : Int) (via : Via) (stage : FlightStage) =>
            s.launchFlight i [t.id] 0 none .lsu
              (.cntAdd m2.toNat (va i t % 2 ^ 12) (((ob i).val t i.beforeQ).setWidth 32) there mark (BitVec.ofNat 64 (va i t)) via) stage
          let s := s.setNrp t.id
          if m2 = 1 then match s.via? there (die s0 t) with
            | none => s
            | some (via, down) => add (s.modThread t.id (fun x => { x with high := x.high.filter (fun y => y.1 != there) }))
                ((t.high.find? (fun x => x.1 == there)).elim 0 (·.2)) via (if down then .faulted 0x60 (va i t) else .start)
          else add s t.tm ⟨die s0 t, 0, s.localTime (die s0 t)⟩ .start)))
    ∧ Completes (.cwait d a la sb)
      (fun s i => Each i (fun t => SlotFree s t.id sb.toNat 1 ∧ (∀ f ∈ t.faults, t.faultHere f = true → f.posted = false)
        ∧ FieldsFree t i.beforeQ [od, oa i] [(oa i, 0, 2), (oa i, 4, 4)] ∧ va i t % 2 ^ 12 < (s.cntWindow (s.asidOf t)).2))
      (fun s i => (s.launchEach i i.parts own la.toNat (some sb.toNat) .ctl (fun t =>
        .cwait ((s.cntWindow (s.asidOf t)).1 + va i t % 2 ^ 12) (va i t / 2 ^ 32) (s.localTime (die s t)) none (od.dst i t))).reachCwaits)
    ∧ Completes (.coll d a la sb)
      (fun s i => Each i (fun t => SlotFree s t.id sb.toNat 1 ∧ NoneOutstanding s t.id Flight.isAccess
        ∧ FieldsFree t i.beforeQ [od, oa i] [(oa i, 0, 2)]
        ∧ ∃ g b, s.gridOf t = some g ∧ g.peloton = some b ∧ va i t % 2 ^ 16 < b.nchunks))
      (fun s i => s.each i.parts (fun s t =>
        let grid := (s.gridOf t).elim 0 (·.event)
        let u := s.launchFlight i [t.id] la.toNat (some sb.toNat) .eng (.coll (va i t % 2 ^ 16) (od.dst i t))
        if (u.chunk? grid (va i t % 2 ^ 16)).any (·.fired) then
          match u.flight? s.ctl.nextId with
          | some f => (u.land64 t.id (od.dst i t) 1).completeFlight f
          | none => u
        else u.fireChunk grid (va i t % 2 ^ 16) (u.placeOf t).die (some s.ctl.nextId)))

/-! ### Events (spec/95). Each happens wherever its condition holds, with the effect its rule gives. -/

/-- Package time (R17-R19, R21-R23, R25, R26, R315, R430-R432): TIME_TOKEN_SEND, TIME_TOKEN_ARRIVAL, TIME_ECHO, ECHO_SILENCE_TIMEOUT,
DIE_FENCE_TIMEOUT, GUARD_WRITE, GUARD_EFFECTIVE, GUARD_TRANSITION_END, LEASE_EXPIRY, CADENCE_WRITE and CADENCE_TICK happen wherever
their conditions hold. That package time waits for overdue messages and silent receivers is the model's
reading (log 2); so is that a write to CADENCE in the instant of a step waits for it (log 29). A fenced quadrant's leases are given up (R293), and a
die may give up a lease early (R259). -/
def Obligations.TimeEvents : Prop :=
  ∀ (s : State) (r : Nat) (x : Receiver), s.time.receivers[r]? = some x →
    let now := s.time.hub
    let next := now / 4 * 4 + 4
    let becomes := fun (y : Receiver) => { s with time := { s.time with receivers := s.time.receivers.set r y } }
    let fenced := fun (s' : State) => (∃ y, s'.time.receivers[r]? = some y ∧ y.fenced = true ∧ y.fencedAt = now)
      ∧ (r < 4 → (∀ l ∈ s'.mem.l1, l.place.die ≠ r) ∧ ∀ l ∈ s'.mem.l2, l.die ≠ r)
      ∧ (4 ≤ r → ∀ l ∈ s'.mem.l2, l.state = .s → l.expiry ≠ 0 → quadOfLine l.pa ≠ r - 4)
    let begun := fun (t : TimeState) (old g : Nat) (held : Option Nat) => { t with
      guard := g, change := some { at_ := now + 1000, old, new := g, held }
      receivers := t.receivers.map (fun x => { x with changes := x.changes ++ [(now + 1000, g)] }) }
    (3 ≤ s.host.stage → next ≤ s.energy.lastTick + 1000 → (∀ c, s.time.change = some c → now < c.at_ + 256) →
      (∀ k, k < s.time.receivers.length → (s.receiver k).onTime next = true ∧ s.silent k = false) →
      ∃ s', exec .timeTokenSend s = .next s' ∧ s'.time.hub = next
        ∧ s'.time.receivers = s.time.receivers.map (fun x => { x with tokens := x.tokens ++ [next] })
        ∧ s' = { s with time := { s.time with hub := next, receivers := s'.time.receivers, dclk := s'.time.dclk } }
        ∧ ∀ d, s.time.dclk.getD d 0 ≤ s'.time.dclk.getD d 0 ∧ s'.time.dclk.getD d 0 ≤ s.time.dclk.getD d 0 + (next - now) * s.time.khz.getD d 0)
    ∧ (∀ v rest, x.tokens = v :: rest → exec (.timeTokenArrival r) s
        = .next (becomes { x.take v with tokens := rest, echoes := x.echoes ++ [(v, now)] }) ∧ (x.take v).copy = v)
    ∧ (∀ v left rest, x.echoes = (v, left) :: rest → ∃ s', exec (.timeEcho r) s = .next s'
        ∧ (x.fenced = false → (now - v ≤ s.time.hubBand → s' = becomes { x with echoes := rest, echoAt := now }) ∧ (s.time.hubBand < now - v → fenced s'))
        ∧ (x.fenced = true → (s.time.hubBand ≤ 2 * (now - v) ∨ x.lowEchoes < 15 → s' = becomes { x with
              echoes := rest, echoAt := now, lowEchoes := if 2 * (now - v) < s.time.hubBand then x.lowEchoes + 1 else 0 })
          ∧ (2 * (now - v) < s.time.hubBand → 15 ≤ x.lowEchoes → r < 4 →
              ∃ y, s'.time.receivers[r]? = some y ∧ y = { x with echoes := rest, echoAt := now, fenced := false, lowEchoes := 0 })))
    ∧ (x.fenced = false → 4 ≤ s.host.stage → x.echoAt + s.time.hubBand < now → ∃ s', exec (.echoSilenceTimeout r) s = .next s' ∧ fenced s')
    ∧ (r < 4 → x.fenced = true → x.fencedAt + 10000000 ≤ now → ∀ cores, cores = allCores.filter (fun p => p.die == r && !s.host.lostCores.contains p) →
        cores ≠ [] → exec (.dieFenceTimeout r) s = .next ((cores.foldl State.failCore s).modReceiver r (fun x => { x with fencedAt := now })))
    ∧ (∀ v : BitVec 64, 6 ≤ s.host.stage →
        let g := v.toNat % 64
        let t := { s.time with gberr := s.time.gberr && !v.getLsbD 7 }
        (g < 1 ∨ 32 < g → exec (.guardWrite v) s = .next { s with time := { s.time with gberr := true } })
        ∧ (1 ≤ g → g ≤ 32 → s.time.change = none → exec (.guardWrite v) s = .next { s with time := begun t t.guard g none })
        ∧ ∀ c, 1 ≤ g → g ≤ 32 → s.time.change = some c → now < c.at_ + 256 →
            exec (.guardWrite v) s = .next { s with time := { t with change := some { c with held := some g } } })
    ∧ (∀ c rest, x.changes = c :: rest → c.1 ≤ x.copy → ∃ y, exec (.guardEffective r) s = .next (becomes y) ∧ y.guard = c.2 ∧ y.changes = rest
        ∧ y = { x with guard := c.2, changes := rest, horizon := y.horizon })
    ∧ (∀ c, s.time.change = some c → c.at_ + 256 ≤ now → exec .guardTransitionEnd s = .next { s with time := match c.held with
        | none => { s.time with change := none }
        | some g => begun s.time s.time.guard g none })
    ∧ (∀ asid slot line l, l ∈ s.mem.l2 → l.isAt r asid slot line = true → l.state = .s → l.expiry ≠ 0 →
        ∃ s', exec (.leaseExpiry r asid slot line) s = .next s' ∧ s'.l2? r asid slot line = none ∧ ∀ k ∈ s'.mem.l2, k.isAt r asid slot line = false)
    ∧ (∀ v : BitVec 64, 6 ≤ s.host.stage → now < s.energy.lastTick + 1000 →
        let limit := v.toNat % 2 ^ 13
        let capus := v.toNat / 2 ^ 32 % 2 ^ 16
        exec (.cadenceWrite v) s = .next { s with energy :=
          if limit < 1 ∨ 4800 < limit ∨ capus = 0 then { s.energy with limerr := true }
          else { s.energy with limit, capus, limerr := s.energy.limerr && !v.getLsbD 31 } })
    ∧ (∀ rest measured, 3 ≤ s.host.stage → s.energy.lastTick + 1000 ≤ now → ∃ s', exec (.cadenceTick rest measured) s = .next s'
        ∧ (let cap : Int := s.energy.capus * s.energy.limit
           let settled := ∀ m ∈ s.teams, m.settling = false
           s'.energy.lastTick = s.energy.lastTick + 1000 ∧ s'.energy.capusNow = s.energy.capus ∧ s'.energy.limitNow = s.energy.limit
           ∧ -cap ≤ s'.energy.account ∧ s'.energy.account ≤ cap
           ∧ (measured = [] → settled → s'.energy.account = max (-cap) (min cap (s.energy.account + s.energy.limit - rest)))
           ∧ (settled → s'.time.khz = s.time.khz.map (fun k =>
               if s'.energy.account < 0 then max 600000 (k - 100000) else if cap ≤ 2 * s'.energy.account then min 2400000 (k + 100000) else k)))
        ∧ ∀ m ∈ s'.teams, m.beats = 0)

/-- Crews, bins and lanes (R109-R120, R301): the winner of a decision issues next and every other ready crew's LOSS rises to at most 3,
once the crews that are not ready have been passed over; the head of the crew queue enters a lane with a free place; a crew that is not
ready or stays too long goes to the tail; a slice's threads of an aged bin, or of the oldest bin of an idle slice, become a crew; a member
off-path too long sends all to the bins at its crew's next decision point, but not from a parked crew (R120, R234). Which of two ready crews
wins is R111's order; of two with LOSS 3 step 3 decides, the model's choice (log 31). -/
def Obligations.SchedulingEvents : Prop :=
  (∀ (s : State) (c : Crew) (m : Team), s.crew? c.id = some c → s.team? c.team = some m → s.dieFenced m.place.die = false →
    let now := s.dclk m.place.die
    let waiting := s.crewQueue m.place c.slice
    let tail := fun (s' : State) => s'.crew? c.id = some { c with lane := none, ticket := s.ctl.nextId, queuedAt := now, notReadySince := none }
      ∧ ∀ d, d ≠ c.id → s'.crew? d = s.crew? d
    (∀ lane, m.status = .resident → c ∈ waiting → (∀ d ∈ waiting, queueBefore d c = false) → s.laneFree m.place c.slice lane = true →
      ∃ s', exec (.crewActivate c.id lane) s = .next s' ∧ s'.crew? c.id = some { c with lane := some lane, entered := now, notReadySince := none }
        ∧ ∀ d, d ≠ c.id → s'.crew? d = s.crew? d)
    ∧ (∀ since, c.notReadySince = some since → c.lane ≠ none → (s.crewMay c = false ∨ c.stalled = true) → since + 512 ≤ now → waiting ≠ [] →
      ∃ s', exec (.crewNotReadyTimeout c.id) s = .next s' ∧ tail s')
    ∧ (c.lane ≠ none → c.entered + 2048 ≤ now → (∃ d ∈ waiting, d.queuedAt + 2048 ≤ now) →
      (∀ d ∈ s.crewsAt m.place c.slice, d.lane ≠ none → c.entered ≤ d.entered) → ∃ s', exec (.crewResidencyTimeout c.id) s = .next s' ∧ tail s')
    ∧ (∀ (lane : Nat) (ready : List Crew), ready = (s.activeSet m.place c.slice lane).filter s.crewMay → c ∈ ready →
      let passed := ((s.activeSet m.place c.slice lane).filter (fun d => !s.crewMay d)).foldl State.passOver s
      (ready.map (·.id)).Nodup → (∀ d ∈ ready, passed.crew? d.id = some d) → (∀ d ∈ ready, d.id ≠ c.id → crewWins d c = false ∧ crewWins c d = true) →
      s.ctl.focus = none → (s.laneAt m.place c.slice lane).failed = false → (s.laneAt m.place c.slice lane).busyUntil ≤ now →
      ∃ s' e, exec (.schedulerDecision m.place c.slice lane) s = .next s' ∧ s'.ctl.focus = some c.id ∧ s'.crew? c.id = some e ∧ e.loss = 0
        ∧ (∀ d ∈ ready, d.id ≠ c.id → ∃ e, s'.crew? d.id = some e ∧ e.loss = min 3 (d.loss + 1))
        ∧ ∀ k, k ∉ ready.map (·.id) → s'.crew? k = passed.crew? k)
    ∧ (∀ (x : Member) (since : Nat), s.crewOf x.tid = some c → c.members.find? (fun y => y.tid == x.tid) = some x → x.offSince = some since →
      (s.activeOf c).contains x.tid = false → c.parked = [] →
      (∃ lane, c.lane = some lane ∧ (s.laneAt m.place c.slice lane).busyUntil ≤ now) → since + m.regs.binctl.toNat / 65536 % 65536 ≤ now →
      exec (.strayTimeout x.tid) s = .next ((c.members.map (·.tid)).foldl State.fileFromCrew s))
    ∧ (∀ b : Bin, s.bin? b.id = some b → s.dieFenced b.place.die = false →
      (b.oldest + s.binAge b ≤ s.dclk b.place.die → exec (.binAgeDraw b.id) s = .next ((s.binSlices b).foldl (fun s k => s.drawSlice b.id k) s))
      ∧ ∀ (slice lane oldest : Nat), s.binOldest b slice = some oldest → s.laneFree b.place slice lane = true → s.crewQueue b.place slice = [] →
        (∀ d ∈ s.bins, d.place = b.place → ∀ k, s.binOldest d slice = some k → oldest ≤ k) →
        exec (.binIdleDraw b.id slice lane) s = .next (s.drawSlice b.id slice)))
  ∧ ∀ a b : Crew,
      let wins := crewWins a b = true ∧ crewWins b a = false
      let further := match a.lastIssue, b.lastIssue with
        | none, some _ => True
        | some x, some y => x < y
        | _, none => False
      (a.loss = 3 → b.loss ≠ 3 → wins)
      ∧ (a.loss ≠ 3 → b.loss ≠ 3 → a.gaveWay = false → b.gaveWay = true → wins)
      ∧ ((a.loss = 3 ∧ b.loss = 3) ∨ (a.loss ≠ 3 ∧ b.loss ≠ 3 ∧ a.gaveWay = b.gaveWay) →
          (further → wins) ∧ (a.lastIssue = b.lastIssue → a.entered < b.entered → wins))

/-- Threads, scrubbing and grids. EDGE_RECONCILE: an edge ends where the die's copy has reached its mark, the core's older L1 lines go, and
a thread released from its await is filed (R147). HANDLER_TIMEOUT: 100 µs in a handler are a team fault of the thread that got there first
(R302, R311). REGISTER_SCRUB, SCRATCH_SCRUB, CACHE_SCRUB: a granule found bad is poisoned, in a clean line dropped (R180, R182, R240,
R263); which counters a pass raises is the model's choice (log 13), and that an error acts in the unit that holds it, and what it does to
dirty and clean lines, the hub and a stack, its reading (log 19). DBAR_DIE_MESSAGE: a die's arrivals are counted, and the last releases them with an edge from the latest of their writes (R156).
QUEUE_DESCRIPTOR_WRITE (R415). RING_RECORD_READ: the next record is copied, HEAD moves on, the record is checked (R417, R418).
GRID_COMPLETE (R427). TEAM_ADMIT: the grid first in rank starts, team by team where
the others of its unit must wait (R424, R433). TEAM_SWAP saves a team, TEAM_RESUME and STOLEN_CONTINUATION place
a saved one on a core (R154, R310). That a completed grid leaves the state, and that a placement waits where an
eviction it needs must wait, are the model's readings (log 29). -/
def Obligations.ThreadAndGridEvents : Prop :=
  (∀ (s : State) (t : Thread) (m : Team), s.thread? t.id = some t → s.team? t.team = some m → s.dieFenced m.place.die = false →
    let p := m.place
    (∀ mark, m.status = .resident → t.edge = some mark → mark ≤ s.localTime p.die →
      let kept := { s with mem := { s.mem with l1 := s.mem.l1.filter (fun l => !(l.place == p && decide (l.ft < mark))) } }
      let done := kept.modThread t.id (fun t => { t with edge := none, joined := max t.joined mark })
      exec (.edgeReconcile t.id) s = .next (match t.status with
        | .awaiting _ _ _ => if t.frame.state = 1 then done.file t.id else done
        | _ => done))
    ∧ (∀ x, t.trap = some x → t.status ≠ .halted → x.entered + 100000 ≤ s.localTime p.die → s.trappedFirst t x.entered = false →
      exec (.handlerTimeout t.id) s = .next (s.teamFault t 0x70 0 t.ctx.pkt t.ctx.word 0 false)))
  ∧ (∀ (s : State) (t : Thread) (corrected : Nat) (granule q : Option Nat), s.thread? t.id = some t →
    (∀ g, granule = some g → 8 * g < t.winSize) → (∀ k, q = some k → k < 32) →
    ∃ s' u, exec (.registerScrub t.id ⟨corrected, granule, q⟩) s = .next s' ∧ s'.thread? t.id = some u
      ∧ (∀ b, b ∈ u.winPoison ↔ b ∈ t.winPoison ∨ granule = some (b / 8))
      ∧ (s.crewOf t.id = none → ∀ b, b ∈ u.q.poison ↔ b ∈ t.q.poison ∨ q = some (b / 8))
      ∧ ∀ c, s.crewOf t.id = some c → s.crew? c.id = some c → ∃ d, s'.crew? c.id = some d ∧ ∀ b, b ∈ d.q.poison ↔ b ∈ c.q.poison ∨ q = some (b / 8))
  ∧ (∀ (s : State) (corrected : Nat), exec (.scratchScrub ⟨corrected, none⟩) s = .next (s.scrubbed 0 2 corrected)
    ∧ (∀ x : ScratchGranule, x.level < 4 → 8 * x.granule < (s.scr x.level x.owner).size → ∃ s', exec (.scratchScrub ⟨corrected, some x⟩) s = .next s'
      ∧ ∀ k, k ∈ (s'.scr x.level x.owner).poison ↔ k = x.granule ∨ k ∈ (s.scr x.level x.owner).poison)
    ∧ ∀ (x : ScratchGranule) (m : Team) (h : Handle), 4 ≤ x.level → s.team? x.owner = some m → m.handle (x.level - 4) = some h →
        8 * x.granule < 128 * recSize h.rec0 → ∃ s' k, exec (.scratchScrub ⟨corrected, some x⟩) s = .next s' ∧ s'.team? x.owner = some k
          ∧ k.handle (x.level - 4) = some { h with poison := insertNat x.granule h.poison })
  ∧ (∀ (s : State) (unit : CacheUnit) (corrected pa : Nat), ∃ s', exec (.cacheScrub ⟨unit, corrected, some pa⟩) s = .next s'
    ∧ match unit with
      | .l1 p => s'.mem.l2 = s.mem.l2 ∧ ∀ x, x ∈ s'.mem.l1 ↔ x ∈ s.mem.l1 ∧ ¬(x.place = p ∧
          ∃ l ∈ s.mem.l2, l.pa = pa / 128 ∧ l.isAt p.die x.asid x.slot x.line = true)
      | .l2 die => (∀ l, l.die ≠ die ∨ l.pa ≠ pa / 128 → (l ∈ s'.mem.l2 ↔ l ∈ s.mem.l2))
          ∧ ∀ l ∈ s'.mem.l2, l.die = die → l.pa = pa / 128 → l.dirty = true ∧ pa % 128 / 8 ∈ l.poison
      | _ => pa / 8 ∈ s'.mem.poison ∧ s'.mem.l2 = s.mem.l2 ∧ s'.mem.l1 = s.mem.l1)
  ∧ (∀ (s : State) (unit : CacheUnit) (corrected : Nat), exec (.cacheScrub ⟨unit, corrected, none⟩) s
      = .next (s.scrubbed (match unit with | .l1 p => p.die | .l2 die => die | .hub => 0 | .stack k => k / 3) (match unit with | .stack _ => 3 | _ => 1) corrected))
  ∧ (∀ (s : State) (g : Grid) (n die : Nat), s.grid? g.event = some g → (∃ x ∈ (g.bars.getD n {}).dies, x.1 = die) → s.dieFenced die = false →
    let b := g.bars.getD n {}
    let all := b.reported ++ (b.dies.filter (fun x => x.1 == die)).map (·.2)
    ∃ s' h, exec (.dbarDieMessage g.event n die) s = .next s' ∧ s'.grid? g.event = some h
      ∧ (h.bars.getD n {}).dies = b.dies.filter (fun x => x.1 != die)
      ∧ (b.count = 0 ∨ all.length < b.count → (h.bars.getD n {}).reported = all ∧ (h.bars.getD n {}).count = b.count ∧ s'.threads = s.threads)
      ∧ (all.length = b.count → (h.bars.getD n {}).reported = [] ∧ ∀ a ∈ all, ∀ t, s.thread? a.tid = some t →
          ∃ u mark, s'.thread? a.tid = some u ∧ u.edge = some mark ∧ ∀ y ∈ all, y.tm ≤ mark))
  ∧ (∀ (s : State) (q : Nat) (v : BitVec 128), q ≤ 255 → 6 ≤ s.host.stage → s.queues.length = 256 →
    ∃ s', exec (.queueDescriptorWrite q v) s = .next s' ∧ (∀ k, k ≠ q → s'.queue k = s.queue k)
      ∧ (s'.queue q).desc = (descWrite (s.queue q) v.toNat).desc
      ∧ ((s.queue q).enabled = true → ∀ b, b ≠ 0 → b ≠ 31 → (s'.queue q).desc.getLsbD b = (s.queue q).desc.getLsbD b)
      ∧ ((s.queue q).enabled = false → (s'.queue q).enabled = true → (s'.queue q).head = 0 ∧ (s'.queue q).childCount = 0))
  ∧ (∀ (s : State) (q : Nat), q ≤ 255 → 6 ≤ s.host.stage → s.queues.length = 256 →
    let d := s.queue q
    let open_ := s.grids.filter (fun g => g.queue == q && !bit g.event 47 && g.status != .complete)
    let record := bytesToNat (s.mailboxLoad (d.base + 256 + 256 * (d.head % 2 ^ d.slots)) 256)
    let event := s.eventKey (ringEvent q d.head)
    (∀ g ∈ s.grids, g.queue = q → g.unchecked = false) → d.enabled = true → d.stopped = false →
    d.head < bytesToNat (s.mailboxLoad d.base 8) → open_.length < 4096 →
    (∀ off ∈ [d.base, d.base + 256 + 256 * (d.head % 2 ^ d.slots), d.base + 128], s.mailboxFenced off = false) →
    ∀ s1, s.mailboxSnoop (d.base + 128) = (none, s1) →
    let read := ((s1.mailboxStore (d.base + 128) (natToBytes 8 (d.head + 1))).modQueue q (fun x => { x with head := d.head + 1 })).useFresh.newId
    let copied := read.2.addGrid { event, queue := q, asid := d.asid, record, unchecked := true, engine := read.1 }
    (∃ s', exec (.ringRecordRead q) s = .next s')
    ∧ (∀ g, copied.grid? event = some g → g.record = record → g.asid = d.asid →
      let checked := fun (f : Grid → Grid) => exec (.ringRecordRead q) s
        = .next ((copied.modMem (fun m => { m with refused := m.refused.filter (fun x => x.1 != g.engine) })).modGrid event (fun g => f { g with unchecked := false }))
      (∀ n, copied.checkRecord (.engine g.engine) d.asid ⟨record⟩ = .refused n →
        checked (fun g => { g with refused := n, schedHeader := 0, sched := [], peloton := none, ranks := [] }))
      ∧ ∀ h l b, copied.checkRecord (.engine g.engine) d.asid ⟨record⟩ = .accepted h l b →
          checked (fun g => { g with refused := 0, schedHeader := h, sched := l, peloton := b.map (·.1), ranks := (b.map (·.2)).getD [] })))
  ∧ (∀ (s : State) (g : Grid), s.grid? g.event = some g → g.status = .queued → g.unchecked = false →
    (∀ m ∈ s.teams, m.grid = g.event → m.settling = false) → (g.refused ≠ 0 ∨ g.depFailed = true ∨ s.gridDone g = true) →
    (fld g.record 832 64 = 0 → exec (.gridComplete g.event) s = .next (s.finishGrid g s.time.hub))
    ∧ (∀ vt s1, fld g.record 832 64 ≠ 0 → s.storeCompletion g s.time.hub = (.ok vt, s1) →
        exec (.gridComplete g.event) s = .next (s1.finishGrid g s.time.hub))
    ∧ (s.removeGrid g).grid? g.event = none ∧ ∀ m ∈ (s.removeGrid g).teams, m.grid ≠ g.event)
  ∧ (∀ (s s' : State) (g : Grid) (rest : List Grid) (ps : List Place), s.ranked = g :: rest → s.preempted? g.event = none → s.mayStart g = true →
    (∀ m, s.held? g.event = some m → exec (.teamAdmit [m.place]) s = .next (s.beginTeam m.id))
    ∧ (s.held? g.event = none → s.fitsUnit g ps = true → s.startUnit g ps = some s' → exec (.teamAdmit ps) s = .next s'))
  ∧ (∀ (s : State) (m : Team) (g : Grid) (p : Place), s.team? m.id = some m → s.grid? m.grid = some g → s.contribution m = 0 → s.fitsAgain m p = true →
    (s.restoreTeam m.id p).allPlaced p = true →
    (m.status = .preempted → s.outranked m = false → exec (.teamResume m.id [p]) s = .next (s.restoreTeam m.id p))
    ∧ (m.status = .swapped → (∃ t ∈ s.threads, t.team = m.id ∧ t.resident = true ∧ t.frame.state = 1) →
      exec (.stolenContinuation m.id p) s = .next (s.restoreTeam m.id p)))
  ∧ (∀ (s s' : State) (m : Team) (g : Grid) (ps : List Place), s.team? m.id = some m → s.grid? m.grid = some g → m.status = .preempted →
    s.outranked m = false → s.resumesOn m ps = true → s.resumeOn m ps = some s' → exec (.teamResume m.id ps) s = .next s')
  ∧ (∀ (s : State) (m : Team), s.team? m.id = some m → m.status = .resident → s.dieFenced m.place.die = false →
    s.maySwap m = true → s.waitsForRoom m.place = true → exec (.teamSwap m.id) s = .next (s.saveTeam m.id .swapped)
      ∧ (∃ n, (s.saveTeam m.id .swapped).team? m.id = some n ∧ n.status = .swapped)
      ∧ ((s.threads.map (·.id)).Nodup → ∀ t ∈ (s.saveTeam m.id .swapped).threads, t.team = m.id → t.status ≠ .crewed))

/-- Accesses on their way. MEMORY_LOAD_LAND: bytes at hand, from the home, a cache or a scratchpad, land, and the word completes (R237,
R269); of a 16-byte access the halves may be made apart (R283), and the second to come brings both. HOME_READ_REQUEST and
HOME_OWNERSHIP_REQUEST: an access that does not translate faults, a read is made, a store's line is granted and sent (R258). HOME_WRITE_ARRIVAL: a write to a versioned page faults under R321 or begins a copy (R322). FILL_ARRIVAL serves its load, or gives a store its line (R259).
MEMORY_WRITE_PERFORMED: a store is performed in a line the die owns (R260), or in a scratchpad (R237). LATE_FAULT: a fault found late
becomes pending (R296). SNAPSHOT_COPY_COMPLETE ends a copy (R322); BACK_INVALIDATE_ANSWER lets the writes of its line go on (R266);
VPUB_JOB_RUN publishes or says why not (R329); VERSION_RECLAIM frees an entry (R333). A line request serves every participant of a word
that touches the line (R268); the statement spells out the word whose line no other participant touches, and the access that is made
whole. Points read from several rules together: log 19; which accesses are made in halves: log 7. -/
def Obligations.MemoryEvents : Prop :=
  (∀ (s : State) (f : Flight) (a : MemAcc), s.flight? f.id = some f → f.kind = .mem a →
    (∀ bs pred, f.stage = .data bs pred → exec (.memoryLoadLand f.id) s = .next ((s.landLoad f a.dst
      (match a.half with
        | some h => if h.k = 0 then h.bytes ++ bs else bs ++ h.bytes
        | none => loadResult a.op a.size a.dfmt bs) a.ver pred).completeFlight f)))
  ∧ (∀ (s : State) (f : Flight) (a : MemAcc), s.flight? f.id = some f → f.kind = .mem a → a.half = none →
    let land := fun (s : State) (bs : List Byte) (pred : Option Bool) =>
      (s.landLoad f a.dst (loadResult a.op a.size a.dfmt bs) a.ver pred).completeFlight f
    let alone := s.lineMates f a = []
    let faulted := fun (c : Nat) => s.modFlight f.id (fun x => { x with stage := .faulted c a.va, kind := .mem a })
    (∀ l p, f.stage = .start → a.op = .load → a.size ≠ 16 → a.vol = false → a.ver.byVersion = false → s.readWaits f a = false →
        s.page? a.asid a.va = some p → p.canRead = true → s.l1? a.place a.asid (s.slotOf a) (a.va / 128) = some l →
        lowestMarked l.poison (a.va % 128) a.size = none →
        ∃ s', exec (.memoryLoadLand f.id) s = .next s'
          ∧ (alone → s' = land s (l.data.readN (a.va % 128) a.size) (if a.ver.old then some false else none)))
    ∧ (∀ g, f.stage = .fill g → a.op = .load → s.fillWaits a g = false → ∃ s', exec (.fillArrival f.id) s = .next s'
        ∧ ((∀ x ∈ s.flights, x.id ≠ f.id → x.group ≠ f.group) → a.size ≠ 16 → lowestMarked g.poison (a.va % 128) a.size = none →
            s' = (s.arrive a g).stage f.id (.data (g.data.readN (a.va % 128) a.size) g.pred)))
    ∧ (∀ g, f.stage = .fill g → a.op = .store → s.fillWaits a g = false → ∃ s', exec (.fillArrival f.id) s = .next s'
        ∧ ((∀ x ∈ s.flights, x.id ≠ f.id → x.group ≠ f.group) →
            (∀ l, (s.arrive a g).l2? g.die a.asid 0 g.line = some l → l.state ≠ .s → s' = (s.arrive a g).stage f.id .granted)
            ∧ ((s.arrive a g).l2? g.die a.asid 0 g.line = none → s' = (s.arrive a g).stage f.id .start)))
    ∧ (s.readRequestReady f = true → a.op = .load → ∃ s', exec (.homeReadRequest f.id) s = .next s'
        ∧ (∀ c, alone → s.translate a.asid a.va .read = .fault c → s' = faulted c)
        ∧ (∀ p, alone → s.translate a.asid a.va .read = .ok p → s' = (s.touchPage p false).readAtHome f a p))
    ∧ (s.ownershipReady f = true → a.op = .store → a.vol = false → ∃ s', exec (.homeOwnershipRequest f.id) s = .next s'
        ∧ (∀ c, alone → s.translate a.asid a.va .write = .fault c → s' = faulted c)
        ∧ (∀ p, alone → s.translate a.asid a.va .write = .ok p → p.mt = 0 →
            let r := (s.touchPage p true).grantOwn a p
            s' = r.2.stage f.id (.fill r.1)))
    ∧ (∀ p, s.arrivalReady f = true → a.op = .store → s.translate a.asid a.va .write = .ok p →
        ∃ s', exec (.homeWriteArrival f.id) s = .next s'
          ∧ (f.step < p.version → s' = faulted 0x29)
          ∧ (∀ r, p.version ≤ f.step → (s.asidBlock a.asid).regionOf p.base = some r → f.step ≤ r.pub → s' = faulted 0x2A)
          ∧ ((∀ r, (s.asidBlock a.asid).regionOf p.base = some r → r.pub < f.step) → p.version < f.step → s' = s.beginCopy f a p))
    ∧ (∀ l, (f.stage = .start ∨ f.stage = .granted) → a.op = .store → s.turnWaits f = false → s.ownedLine f a = some l →
        ∃ s', exec (.memoryWritePerformed f.id) s = .next s'
          ∧ (a.size ≠ 16 → s.grantMates f a = [] →
              let r := (s.touchWrite a).performLocal a l a.data
              s' = r.2.finishWrite f a r.1)))
  ∧ (∀ (s : State) (f : Flight) (a : ScrAcc) (t : Thread) (rest : List Nat), s.flight? f.id = some f → f.kind = .scr a → f.stage = .start →
    f.tids = t.id :: rest → s.thread? t.id = some t →
    let owner := s.scrOwner t a.level
    (a.op = .load → ∃ s', exec (.memoryLoadLand f.id) s = .next s' ∧ (a.half = none → a.size ≠ 16 → s' = ((s.land t.id a.dst
      (loadResult .load a.size a.dfmt ((s.scr a.level owner).bytes.readN a.off a.size))).servePasses f a t).completeFlight f))
    ∧ (a.op = .store → s.turnWaits f = false → ∃ s', exec (.memoryWritePerformed f.id) s = .next s'
        ∧ (a.size ≠ 16 → s' = ((s.modScr a.level owner (·.store a.off a.data)).servePasses f a t).completeFlight f)))
  ∧ (∀ (s : State) (f : Flight) (t : Thread) (c v : Nat) (rest : List Nat), s.flight? f.id = some f → f.stage = .faulted c v →
    f.tids = t.id :: rest → s.thread? t.id = some t → f.again = none → t.status ≠ .exiting → t.status ≠ .returning →
    exec (.lateFault f.id) s = .next ((s.dropFlight f.id).modThread t.id (fun t => { t with faults := t.faults ++ [f] })))
  ∧ (∀ (s : State) (asid page : Nat) (c : CopyOnWrite) (p : Page), s.mem.cows.find? (fun c => c.asid == asid && c.page == page) = some c →
    s.page? asid page = some p → s.homeFenced page = false → exec (.snapshotCopyComplete asid page) s = .next (s.finishCow c p)
      ∧ ∀ x ∈ (s.finishCow c p).mem.cows, ¬(x.asid = asid ∧ x.page = page))
  ∧ (∀ (s : State) (line : Nat), line ∈ s.mem.backInval → ∃ s', exec (.backInvalidateAnswer line) s = .next s' ∧ (s.links.waiting = [] →
    line ∉ s'.mem.backInval ∧ line ∈ s'.mem.snooped
    ∧ ∀ f a p, f ∈ s.flights → f.kind = .mem a → f.stage = .waiting → s.page? a.asid a.va = some p → p.phys a.va / 128 = line →
        ({ f with stage := .granted } : Flight) ∈ s'.flights))
  ∧ (∀ (s : State) (f : Flight) (t : Thread) (v i : Nat) (dst : Dst) (rest : List Nat), s.flight? f.id = some f → f.kind = .vpub v i dst →
    f.tids = t.id :: rest → s.thread? t.id = some t → (∀ g ∈ s.flights, g.id < f.id → t.id ∈ g.tids → g.isAccess = false) →
    s.faultedBefore f Flight.isAccess = false →
    let asid := s.asidOf t
    let r := (s.asidBlock asid).region i
    let ends := fun (s : State) (pub code : Nat) => Host.Outcome.next ((s.land64 t.id dst (BitVec.ofNat 64 (pub * 2 ^ 32 + code))).completeFlight f)
    r.busy = false → exec (.vpubJobRun f.id) s =
      if r.valid = false then ends s r.pub 2 else if v ≤ r.pub then ends s r.pub 1
      else ends ((s.recallRegion asid r).setPub asid i v) v 0)
  ∧ (∀ (s : State) (asid : Nat) (e : PoolEntry), (s.pool asid).find? (fun x => x.index == e.index) = some e → e.state = 2 →
    s.reachable asid e = false → (s.receiver (4 + e.stack / 3)).fenced = false → e.bad = false →
    ∃ v : Nat, exec (.versionReclaim asid e.index) s = .next (s.writePool asid e.index v)
      ∧ (⟨e.index, v⟩ : PoolEntry).state = 1 ∧ (⟨e.index, v⟩ : PoolEntry).version = 0 ∧ (⟨e.index, v⟩ : PoolEntry).page = 0
      ∧ (⟨e.index, v⟩ : PoolEntry).frame = e.frame ∧ (⟨e.index, v⟩ : PoolEntry).stack = e.stack)

/-- Events of engines, each with the conditions under which it acts. JOB_START: a job that no earlier job of its grid holds back starts
(R380). COPY_LINE_LANDING: a started job performs the units of one line, which becomes present (R233). JOB_COMPLETE: a started job performs
the units left and ends with its count of elements, or where one faults, with that unit and its cause (R376, R378). PACE_JOB_COMPLETE: a
stream job ends likewise (R220). MATRIX_GENERATION_COMPLETE: the images of an issued generation are written in every member's window, its
bytes are pending no longer, `cr.mstat` takes the status or MERR; with no tile on its way the generation ends (R346, R347).
ROUTED_TILE_COMPLETE: an acknowledged tile leaves, every member's TM rises by its stores and its add is posted, a refused one gives
`cr.rfault` (R361, R457, R458; log 22: a tile without a counter raises H of rank 0's thread). MOBL_COMPLETE: the bytes read land and the word
completes (R354). TEX_COMPLETE and FMARCH_COMPLETE: where their reads succeed the word has its result, which lands later (R398, R410); they
read in their turn among the thread's reads (R284, R399; log 26). RAY_EVENT: a ray told to end, or one
with no work left, ends with event 0; one that comes to an event lands its code (R405). WT_LOAD: a table that can be fetched becomes
resident. WT_DROP: a table leaves every core (R396). -/
def Obligations.EngineEvents : Prop :=
  (∀ (s : State) (j : Job), s.job? j.id = some j → j.word ≠ 3 →
    let c : Card := ⟨j.card⟩
    (j.started = false → s.jobHeld j = false → exec (.jobStart j.id) s = .next (s.modJob j.id (fun j => { j with started := true })))
    ∧ (∀ line, j.started = true → j.verOnScratch = false → c.toScratch = true → j.cleared.any (fun l => l.line == line) = true → line ∉ j.landed →
        let x := s.runUnits j (j.openUnits.filter (fun u => (c.unitLines ⟨j.record⟩ u).contains line))
        x.stop = none → exec (.copyLineLanding j.id line) s = .next
          ((x.s.useFresh.modJob j.id (fun j => { j with landed := j.landed ++ [line], vt := max j.vt x.vt, sub := j.sub || x.sub })).setLines
            (j.cleared.filter (fun l => l.line == line)) true))
    ∧ (j.started = true → (j.verOnScratch = false ∨ c.count = 0) →
        let x := s.runUnits j j.openUnits
        (x.stop = none → (j.word = 1 → bit c.tail 2 = true → s.addsBefore j = false) →
          exec (.jobComplete j.id) s = .next (x.s.useFresh.endJob j c.count (max j.vt x.vt) (j.sub || x.sub) none))
        ∧ ∀ u cause va, x.stop = some (u, .fault cause va) → (j.word = 1 → s.addsBefore j = false) → exec (.jobComplete j.id) s = .next
          ((x.s.useFresh.takeRefusal j.id (s.teamAsid j.team) va).endJob j u (max j.vt x.vt) (j.sub || x.sub) (some (cause, va)))))
  ∧ (∀ (s : State) (f : Flight) (j : Job) (p : PaceJob), s.flight? f.id = some f → s.jobs.find? (fun j => j.flight == some f.id) = some j →
    f.kind = .pace p → s.jobHeld j = false →
    let x := s.runPace p (s.teamAsid j.team) f.step
    (x.stop = none → exec (.paceJobComplete f.id) s = .next (x.s.useFresh.endPace f j x 0 p.count))
    ∧ ∀ k cause va, x.stop = some (k, .fault cause va) → cause ≠ 0x2D → exec (.paceJobComplete f.id) s = .next
        ((x.s.useFresh.takeRefusal j.id (s.teamAsid j.team) va).endPace f j x 1 k))
  ∧ (∀ (s : State) (g : Gen) (m : Team), s.gen? g.id = some g → s.team? g.team = some m → g.waiting = false → g.landed = false →
    (g.captures.map (·.tid)).Nodup → ∃ s', exec (.matrixGenerationComplete g.id) s = .next s'
      ∧ (∀ c ∈ g.captures, ∀ t, s.thread? c.tid = some t → ∃ u, s'.thread? c.tid = some u
        ∧ u.win = ((g.writes.filter (fun w => w.1 == c.tid)).foldl (fun (t : Thread) w => t.write w.2.1 w.2.2) t).win
        ∧ u.pending = t.pending.filter (fun p => p.2 != c.flight)
        ∧ u.mstat = BitVec.ofNat 64 (match g.merr with | none => t.mstat.toNat ||| g.status | some e => setFld t.mstat.toNat 8 8 e))
      ∧ (g.tiles = [] → (∀ f ∈ s.flights, ∀ members peer va bs count via, f.kind ≠ .tile g.id members peer va bs count via) → s'.gen? g.id = none))
  ∧ (∀ (s : State) (f : Flight) (gid peer va : Nat) (members : List Nat) (data : List Byte) (count : Option Nat) (via : Via),
    s.flight? f.id = some f → f.kind = .tile gid members peer va data count via → f.stage = .start →
    (∀ c, ∃ s', exec (.routedTileComplete f.id (.refused c)) s = .next s' ∧ ∀ u t, u ∈ f.tids → s.thread? u = some t →
      ∃ y, s'.thread? u = some y ∧ y.rfault = BitVec.ofNat 64 (peer * 2 ^ 32 + c % 256))
    ∧ ∀ bs vtp tp, ∃ s', exec (.routedTileComplete f.id (.done bs vtp tp)) s = .next s' ∧ s'.flight? f.id = none
      ∧ (∀ u ∈ members, ∀ t, s.thread? u = some t → ∃ y, s'.thread? u = some y ∧ s.localTime (s.placeOf t).die + 4 ≤ y.tm)
      ∧ (count = none → ∀ u ∈ f.tids, ∀ t, s.thread? u = some t → ∃ y, s'.thread? u = some y ∧ ∃ h, (peer, h) ∈ y.high ∧ (vtp : Int) - tp ≤ h)
      ∧ (∀ k, count = some k → f.id < s.ctl.nextId → (∀ g ∈ s.gens, ∀ c ∈ g.captures, c.flight < s.ctl.nextId) →
          ∃ x ∈ s'.flights, x.id = s.ctl.nextId ∧ x.tids = f.tids ∧ ∃ a way, x.kind = .cntAdd 1 k 1 peer ((vtp : Int) - tp) a way))
  ∧ (∀ (s : State) (f : Flight) (t : Thread) (bs : List Byte) (dst : Dst) (pred : Option Bool) (rest : List Nat), s.flight? f.id = some f →
    f.stage = .data bs pred → f.tids = t.id :: rest → s.thread? t.id = some t →
    (∀ op wide uv desc third base held, f.kind = .tex op wide uv desc third base dst held →
      exec (.texComplete f.id) s = .next ((s.land t.id dst bs).completeFlight f))
    ∧ (∀ regs, f.kind = .fmarch regs dst → exec (.fmarchComplete f.id) s = .next ((s.land t.id dst bs).completeFlight f)))
  ∧ (∀ (s : State) (f : Flight) (t : Thread) (rest : List Nat), s.flight? f.id = some f → f.stage = .start → f.tids = t.id :: rest →
    s.thread? t.id = some t →
    (∀ h off lines src, f.kind = .mobl h off lines src true → exec (.moblComplete f.id) s = .next
      ((s.moblScratch t h (src / 2 ^ 32 % 4) (src % 2 ^ 32) off lines).completeFlight f))
    ∧ (∀ h off lines src bs s1, f.kind = .mobl h off lines src false → s.engineRead (s.asidOf t) src (128 * lines) = (.ok bs, s1) →
      exec (.moblComplete f.id) s = .next ((s1.modHandle t.team h (fun x => x.land off bs [])).completeFlight f))
    ∧ (∀ op wide uv desc third base dst held bs s1, f.kind = .tex op wide uv desc third base dst held → s.unitWaits f = false →
      s.samplePerform f.id t op wide uv desc third.toNat base held = (.ok bs, s1) →
      exec (.texComplete f.id) s = .next (s1.stage f.id (.data bs none)))
    ∧ (∀ regs dst bs s1 x s2, f.kind = .fmarch regs dst → s.unitWaits f = false →
      let last := (regs.getD 4 0).toNat
      s.unitRead (s.readerOf t) (last % 2 ^ 52) 64 = (.ok bs, s1) → (⟨bytesToNat bs⟩ : FieldDesc).valid (last % 2 ^ 52) = true →
      s1.march (s.readerOf t) (last / 2 ^ 56 % 16) ⟨bytesToNat bs⟩ regs = (.ok x, s2) →
      exec (.fmarchComplete f.id) s = .next (s2.stage f.id (.data (natToBytes 16 (pack 32 [x.r, x.g, x.b, x.tr])) none)))
    ∧ (∀ r k dst, f.kind = .ray k dst → t.ray = some r → s.unitWaits f = false →
      ((k = some 3 ∨ (k = none ∧ r.current = none ∧ r.stack = [] ∧ s.areaOwn t.id r = r.image)) →
        ∃ s' u y, exec (.rayEvent f.id) s = .next s' ∧ s'.thread? t.id = some u ∧ u.ray = some y ∧ y.live = false ∧ y.event = 0)
      ∧ (∀ r' n s', k = none → r.live = false ∨ r.current ≠ some { kind := 0, addr := r.root, count := 1, inst := 0 } →
        s.areaOwn t.id r = r.image → State.rayRun t.id (s.readerOf t) 4096 r ((s.keepRay t.id r).modFlight f.id (fun f => { f with kind := .ray none dst })) = (.event r' n, s') →
        exec (.rayEvent f.id) s = .next (((s'.keepRay t.id r').land64 t.id dst (BitVec.ofNat 64 n)).completeFlight f))))
  ∧ (∀ (s : State) (t : Thread) (w : WtCmd), s.thread? t.id = some t → t.wt = some w → w.ended = false →
    let done := fun (s : State) => s.modThread t.id (fun t => { t with wt := some { w with ended := true } })
    (∀ bs s1, w.load = true → s.fetchTable (s.placeOf t) (s.asidOf t) w.table = (.ok bs, s1) → exec (.wtLoad t.id) s = .next (done s1))
    ∧ (w.load = false → ∃ s', exec (.wtDrop t.id) s = .next s' ∧ s' = { done s with tables := s'.tables }
        ∧ ∀ x, x ∈ s'.tables ↔ x ∈ s.tables ∧ ¬(x.asid = s.asidOf t ∧ x.va = w.table)))

/-- Events of links, peers and collectives, each with the conditions under which it acts. FLIT_SEND: a port that is not DOWN counts a flit
(R438, R441). BER_WINDOW_END and UNCORRECTABLE_CODEWORD: an active slot is withdrawn where its window's errors exceed THRESH, or at once
(R439). TRAINING_WINDOW_END: a withdrawn slot's first window hands it back at THRESH / 8 errors or fewer; RETRAIN_TIMEOUT: after 1 ms a free
spare trains in its place, without one, or where the spare has failed, the slot is FAILED (R440). REMOTE_ACK: a load's data lands, an
acknowledged store completes, a message of a collective has been acknowledged, a refusal is a late fault with `cr.rfault`; LINK_TIMEOUT: no answer within `cr.rto` is a late fault (R442,
R445, R458). REMOTE_REQUEST_ARRIVAL: a peer's request is taken; a load of a page that may be read is answered, a store that is performed is
answered with its VT (R442). COUNTER_ADD_ARRIVAL: an add of this package or of a peer changes COUNT and MARK; the answer to one sent ends it
(R446, R447). CWAIT_TIMEOUT: after `cr.cwto` the word ends with bit 63 set (R448). COLL_MESSAGE_ARRIVAL: an expected message is combined and
the chunk goes on, an early one is held, one for no grid or that does not fit is counted as dropped; COLL_WAIT_TIMEOUT: a wait ends after
TMO and adds nothing (R452, R453). CHUNK_COMPLETE: a landed chunk that misses no rank writes its result, raises its counter and ends once
all its messages have been acknowledged (R454). The model's readings, which R439-R441 and R453 do not state: EVFLIT is FLITS at the change of
state and CBE is set by training windows too (log 27), the counter of dropped messages has the index `collDropIndex` of its die (log 13), a
spare trains without a limit of its own, a peer is named nowhere in its add (log 22). -/
def Obligations.LinkEvents : Prop :=
  (∀ (s : State) (die port k errors : Nat), die < 4 → port < 128 → k < 8 →
    let p := s.port die port
    let x := p.slots.getD k {}
    let put := fun (y : LinkSlot) => { p with slots := p.slots.set k y }
    let withdrawn := fun (y : LinkSlot) =>
      { y with state := 1, wdraw := min 65535 (y.wdraw + 1), evflit := p.flits % 2 ^ 24, since := s.time.hub, windows := 0, spare := none }
    p.slots.length = 8 →
    (p.down = false → ∃ s', exec (.flitSend die port) s = .next s' ∧ s'.port die port = { p with flits := (p.flits + 1) % 2 ^ 48 })
    ∧ (x.state = 0 → ∃ s', exec (.berWindowEnd die port k errors) s = .next s' ∧ s'.port die port = put
        (if s.links.thresh < errors then withdrawn { x with cbe := min 65535 errors } else { x with cbe := min 65535 errors }))
    ∧ (x.state = 0 → ∃ s', exec (.uncorrectableCodeword die port k) s = .next s' ∧ s'.port die port = put (withdrawn x))
    ∧ (x.state = 1 → x.windows = 0 → x.since + 524288 ≤ s.time.hub → ∃ s', exec (.trainingWindowEnd die port k errors) s = .next s'
        ∧ s'.port die port = put (if errors ≤ s.links.thresh / 8
          then { x with cbe := min 65535 errors, windows := 1, state := 0, evflit := p.flits % 2 ^ 24, phys := x.spare.getD x.phys, spare := none }
          else { x with cbe := min 65535 errors, windows := 1 }))
    ∧ (x.state = 1 → x.windows ≠ 0 → x.spare = none → x.since + 1000000 ≤ s.time.hub → ∃ s', exec (.retrainTimeout die port k) s = .next s'
        ∧ s'.port die port = match s.freeSpares die port with
          | n :: _ => { put { x with spare := some n, since := s.time.hub, windows := 0 } with spares := p.spares ++ [n] }
          | [] => put { x with state := 2 })
    ∧ (∀ n, x.state = 1 → x.windows ≠ 0 → x.spare = some n → ∃ s', exec (.retrainTimeout die port k) s = .next s'
        ∧ s'.port die port = put { x with state := 2, spare := none }))
  ∧ (∀ (s : State) (f : Flight) (a : RemoteAcc) (t : Thread) (rest : List Nat), s.flight? f.id = some f → f.kind = .remote a → f.stage = .start →
    f.tids = t.id :: rest → s.thread? t.id = some t →
    (s.linkWaits f = false →
      (∀ data n k, a.op = .load → exec (.remoteAck f.id (.done data n k)) s = .next ((s.land t.id a.dst data).completeFlight f))
      ∧ (∀ data vtp tp, a.op = .store → ∃ s', exec (.remoteAck f.id (.done data vtp tp)) s = .next s' ∧ s'.flight? f.id = none
          ∧ ∃ u, s'.thread? t.id = some u ∧ s.localTime (s.placeOf t).die + 4 ≤ u.tm ∧ ∃ h, (a.peer, h) ∈ u.high ∧ (vtp : Int) - tp ≤ h)
      ∧ (∀ c, ∃ s', exec (.remoteAck f.id (.refused c)) s = .next s' ∧ s'.flight? f.id = some { f with stage := .faulted 0x62 a.va }
          ∧ ∃ u, s'.thread? t.id = some u ∧ u.rfault = BitVec.ofNat 64 (a.peer * 2 ^ 32 + c % 256)))
    ∧ (a.via.since + 1000 * s.links.rto ≤ s.localTime a.via.die → exec (.linkTimeout f.id) s = .next (s.stage f.id (.faulted 0x61 a.va))))
  ∧ (∀ (s : State) (f : Flight) (gid c rank peer : Nat) (x : CollMessage) (via : Option Via) (bs : List Byte) (vtp tp : Nat),
    s.flight? f.id = some f → f.kind = .send gid c rank peer x via → exec (.remoteAck f.id (.done bs vtp tp)) s = .next (s.dropFlight f.id))
  ∧ (∀ (s : State) (r : RemoteRequest), requestOk r = true → s.homeFenced r.addr.toNat = false →
    exec (.remoteRequestArrival r) s = .next (s.takeRequest r)
    ∧ (r.op = 0 → ∀ p, s.translate r.asid r.addr.toNat .read = .ok p →
        ∃ s' x, exec (.remoteRequestArrival r) s = .next s' ∧ s'.links.answers = (r.peer, x) :: s.links.answers)
    ∧ (r.op = 1 → ∀ vt s1, s.engineWriteLine r.asid r.step r.addr.toNat (r.data.take 128) = (.ok vt, s1) →
        exec (.remoteRequestArrival r) s = .next (s1.answer r.peer (.done [] vt (s1.homeTime r.addr.toNat)))))
  ∧ (∀ (s : State) (f : Flight) (mode index : Nat) (value : BitVec 32) (peer : Nat) (mark : Int) (a : W64) (via : Via) (t : Thread) (rest : List Nat),
    s.flight? f.id = some f → f.kind = .cntAdd mode index value peer mark a via → f.stage = .start → f.tids = t.id :: rest → s.thread? t.id = some t →
    s.addWaits f = false →
    (mode ≠ 1 → ∃ s', exec (.counterAddArrival (.posted f.id)) s = .next s' ∧ s'.flight? f.id = none
      ∧ (let k := (s.cntWindow (s.asidOf t)).1 + index
         s'.counter k = { index := k, count := if mode = 2 then value else (s.counter k).count + value, mark := max (s.counter k).mark mark.toNat }))
    ∧ (mode = 1 → s.linkWaits f = false → ∀ bs n h, exec (.counterAddArrival (.answered f.id (.done bs n h))) s = .next (s.dropFlight f.id)))
  ∧ (∀ (s : State) (asid index : Nat) (high : Int) (value : BitVec 32),
    let w := s.cntWindow asid
    let k := w.1 + index
    index < w.2 → ∃ s', exec (.counterAddArrival (.remote asid index value high)) s = .next s'
      ∧ s'.counter k = { index := k, count := (s.counter k).count + value, mark := max (s.counter k).mark (s.time.hub + high).toNat })
  ∧ (∀ (s : State) (f : Flight) (k target since : Nat) (dst : Dst) (t : Thread) (m : Team) (rest : List Nat), s.flight? f.id = some f →
    f.kind = .cwait k target since none dst → f.tids = t.id :: rest → s.thread? t.id = some t → s.team? t.team = some m →
    let us := m.regs.cwto.toNat % 2 ^ 32
    us ≠ 0 → since + 1000 * us ≤ s.localTime m.place.die →
    exec (.cwaitTimeout f.id) s = .next ((s.land64 t.id dst (BitVec.ofNat 64 (2 ^ 63 + (s.counter k).count.toNat))).completeFlight f))
  ∧ (∀ (s : State) (x : CollMessage),
    let tagged := fun (g : Grid) => g.status == .queued && (match g.peloton with | some b => b.tag == x.tag | none => false)
    (s.grids.find? tagged = none → exec (.collMessageArrival x) s = .next (s.bump (collDropIndex x.die)))
    ∧ ∀ g b, s.grids.find? tagged = some g → g.peloton = some b →
      let c := (s.chunk? g.event x.chunk).getD { index := x.chunk }
      let due := b.fits x = true ∧ c.done = false ∧ c.landing = false ∧ x.phase ∉ c.ended ∧ ∀ y ∈ c.held, y.phase ≠ x.phase
      (∀ rest, due → c.todo = x.phase :: rest → exec (.collMessageArrival x) s = .next
        (s.settle g.event (b.go s.time.hub rest (b.take c x.phase (some x)) [])))
      ∧ (due → (∀ rest, c.todo ≠ x.phase :: rest) → exec (.collMessageArrival x) s = .next
        (s.putChunk g.event { c with held := c.held ++ [x] }))
      ∧ (b.fits x = false → exec (.collMessageArrival x) s = .next
        ((s.modGrid g.event (fun g => { g with drop := g.drop + 1 })).bump (collDropIndex x.die))))
  ∧ (∀ (s : State) (g : Grid) (b : Binding) (c : Chunk) (ph : CollPhase) (rest : List CollPhase), s.grid? g.event = some g → g.peloton = some b →
    s.chunk? g.event c.index = some c →
    (c.todo = ph :: rest → b.tmo ≠ 0 → c.since + 1000 * b.tmo ≤ s.time.hub →
      exec (.collWaitTimeout g.event c.index) s = .next (s.settle g.event (b.go s.time.hub rest (b.take c ph none) [])))
    ∧ (∀ vt s1, c.landing = true → c.done = false → c.added = false → s.chunkHeld c = false → b.missing c = [] →
        s.engineWrite g.asid (fld g.record 288 24) (b.res + c.index * b.chunk) (c.pieces.flatMap (·.bytes)) = (.ok vt, s1) →
        let s2 := if b.cnten then s1.addCounter (fld (s1.asidBlock g.asid).cntwin.toNat 0 12 + b.cntb + c.index) 1 vt else s1
        exec (.chunkComplete g.event c.index) s = .next (if s2.sending g.event c.index = true
          then s2.putChunk g.event { c with added := true } else s2.endChunk g.event { c with added := true } false))
    ∧ (c.landing = true → c.done = false → c.added = true → s.chunkHeld c = false → s.sending g.event c.index = false →
        exec (.chunkComplete g.event c.index) s = .next (s.endChunk g.event c (!(b.missing c).isEmpty))))

/-- Failures (R311-R315): a core, a lane, a channel or a quadrant fails; the driver frees a fault record. The threads that a core's failure
loses are replayed in turn (R313): each from its frame as its record holds it (R314), at (ENTRY, 0) with its argument in v0, unless it has been
replayed twice or it, or something that descends from it, has NRP; what descends from it is cancelled. What the model chose where the rules
leave points open, the replay of a thread whose record's home is fenced and the edge that its writes give it among them: log 20. -/
def Obligations.FailureEvents : Prop :=
  (∀ (s : State) (p : Place), 6 ≤ s.host.stage → p.die < 4 → p.cluster < 16 → p.core < 8 → p ∉ s.host.lostCores →
    exec (.coreFail p) s = .next (s.failCore p))
  ∧ (∀ (s : State) (p : Place), (∀ m ∈ s.teams, m.place ≠ p) →
    let after := s.failCore p
    let spares := s.host.spareCores.getD p.die 0
    (spares = 0 → after.host.lostCores = p :: s.host.lostCores) ∧ (spares ≠ 0 → after.host.lostCores = s.host.lostCores ∧ after.host.spareCores.getD p.die 0 = spares - 1)
    ∧ (∀ l ∈ after.mem.l1, l.place ≠ p) ∧ (∀ t ∈ after.tables, t.place ≠ p) ∧ (∀ l ∈ after.lanes, l.place ≠ p) ∧ after.threads = s.threads)
  ∧ (∀ (s : State) (p : Place), (s.threads.map (·.id)).Nodup → (s.teams.map (·.id)).Nodup →
    ∃ (s0 : State) (lost : List Nat), s.failCore p = lost.foldl State.replayOrHold s0
      ∧ (∀ t ∈ s.threads, t.id ∈ lost ↔ ∃ m ∈ s.teams, m.id = t.team ∧ m.place = p ∧ m.status ≠ .retired ∧ m.status ≠ .halted ∧ t.resident = true
          ∧ (m.status = .resident ∨ t.slice ∈ m.parkedIn ∨ 16 ∈ m.parkedIn ∨ 17 ∈ m.parkedIn))
      ∧ (∀ m ∈ s.teams, m.place = p → m.status = .resident → ∃ n, s0.team? m.id = some n ∧ n.status = .preempted)
      ∧ (∀ t ∈ s.threads, t.id ∈ lost → ∃ u, s0.thread? t.id = some u ∧ t.tm ≤ u.tm ∧ u.frame = t.frame)
      ∧ ∀ f ∈ s0.flights, ∀ u ∈ f.tids, u ∉ lost)
  ∧ (∀ (s : State) (held t : Thread) (g : Grid), s.thread? held.id = some held → s.gridOf held = some g → held.status ≠ .halted →
    (s.frameFenced held = true → s.replayOrHold held.id = { s with mem := { s.mem with heldReplays := s.mem.heldReplays ++ [held.id] } })
    ∧ (s.frameFenced held = false → s.replayOrHold held.id = s.replay held.id)
    ∧ (s.lostFrame held = none → s.replay held.id = s.replayError held 0x73)
    ∧ (s.lostFrame held = some t → held.id ∉ s.descendants held.id →
        let below := s.descendants held.id
        let children := s.grids.filter (fun c => match c.parent with | some p => (held.id :: below).contains p | none => false)
        let acted := t.frame.nrp = true ∨ (∃ d ∈ below, ∃ x, s.thread? d = some x ∧ x.frame.nrp = true) ∨ ∃ c ∈ children, c.nrp = true
        (t.frame.replay ≥ 2 ∨ acted → s.replay held.id = s.replayError t 0x74)
        ∧ (t.frame.replay < 2 → ¬acted → ∃ u, (s.replay held.id).thread? held.id = some u
          ∧ u.status = .binned ∧ u.ctx.pkt = t.frame.entry ∧ u.ctx.word = 0 ∧ u.step = t.born ∧ u.team = t.team ∧ u.index = t.index
          ∧ u.views = (if t.spawned then s.viewsAt g.asid t.frame.entry g.record else recordViews g.record)
          ∧ u.win = Mem.writeN [] (u.views.getD 0 ⟨0, 0⟩).base (natToBytes 8 t.frame.arg.toNat)
          ∧ u.priv = { size := t.priv.size } ∧ u.frame = { t.frame with children := 0, state := 1, replay := t.frame.replay + 1 }
          ∧ (∃ e, u.edge = some e ∧ s.writtenBy (held.id :: below) ≤ e)
          ∧ (∀ d ∈ below, (s.replay held.id).thread? d = none) ∧ ∀ c ∈ children, (s.replay held.id).grid? c.event = none)))
  ∧ (∀ (s : State) (p : Place) (slice lane : Nat), slice < 16 → lane < 4 → (s.laneAt p slice lane).failed = false →
    ∃ s', exec (.laneFail p slice lane) s = .next s' ∧ (s'.laneAt p slice lane).failed = true
      ∧ ∀ c ∈ s.activeSet p slice lane, s.crew? c.id = some c → ∃ d, s'.crew? c.id = some d ∧ d.lane = none ∧ d.members = c.members)
  ∧ (∀ (s : State) (stack channel : Nat), stack ≤ 11 → channel ≤ 31 → (stack, channel) ∉ s.mem.failedChannels →
    exec (.hbmChannelFail stack channel) s = .next { s with mem := { s.mem with failedChannels := s.mem.failedChannels ++ [(stack, channel)] } })
  ∧ (∀ (s : State) (quad : Nat) (x : Receiver), quad < 4 → s.time.receivers[4 + quad]? = some x → x.fenced = true → x.fencedAt + 10000000 ≤ s.time.hub →
    s.waitingOnQuad quad ≠ [] → ∃ s', exec (.quadFail quad) s = .next s' ∧ quad ∈ s'.mem.failedQuads)
  ∧ (∀ (s : State) (die index : Nat), (∃ r ∈ s.records, r.die = die ∧ r.index = index) →
    (∀ t ∈ s.threads, ∀ b, t.status ≠ .haltedDbg none b) →
    ∃ s', exec (.faultRecordFree die index) s = .next s' ∧ ∀ r, r ∈ s'.records ↔ r ∈ s.records ∧ ¬(r.die = die ∧ r.index = index))

/-- The host and the service processor (R253, R254, R266, R311, R326, R468-R479): power-on and bring-up, up to the step that fails; before
STAGE 6 nothing but the identity block and the status word answers; commands begin, end and are lost; a page request is answered; the mailbox,
the aperture and the registers of the management window; attestation; Ethernet. The model's choices: PAGE_INVAL, POOL_SET, ROUTE, SPARE_CORE
and RELEASE act as the command begins, a frame sent whose FLAGS cannot be written yet is not sent again, an image is staged by the write of the
aperture that completes it (log 17); a granule of the mailbox map stands in bits [18:0] of its entry (log 19); a slot that does not train at
bring-up retrains (log 27); the numbering of the service counters and the places of the window's registers (logs 10 and 13). -/
def Obligations.HostEvents : Prop :=
  (∀ (s : State) (up : BringUp),
    let image := s.host.staged.getD s.host.firmware
    let ok := image.keyOk = true ∧ image.signatureOk = true ∧ image.versionOk = true
    let fresh := fun (stage fail : Nat) => { State.reset with
      mem := { State.reset.mem with host := s.mem.host }, ctl := { s.ctl with focus := none, issue := none }
      host := { State.reset.host with firmware := image, stage, fail } }
    (¬ok → exec (.powerOnReset up) s = .next (fresh 0 1))
    ∧ (ok → 2 ≤ up.failAt → up.failAt ≤ 5 → exec (.powerOnReset up) s = .next (fresh (up.failAt - 1) 1))
    ∧ (ok → up.failAt = 6 → up.untrained = [] → exec (.powerOnReset up) s = .next (fresh 5 1))
    ∧ (ok → up.failAt = 0 → (up.untrained = [] → exec (.powerOnReset up) s = .next (fresh 6 0))
      ∧ ∃ s', exec (.powerOnReset up) s = .next s' ∧ s'.host.stage = 6 ∧ s'.host.fail = 0
        ∧ ∀ x ∈ up.untrained, x.1 < 4 → x.2.1 < 128 → x.2.2 < 8 → ((s'.port x.1 x.2.1).slots.getD x.2.2 {}).state = 1))
  ∧ (∀ s : State, s.host.stage < 6 →
    (∀ (off : Nat) (bytes : List (BitVec 8)), off + bytes.length ≤ 2 ^ 21 → exec (.hostApertureAccess off bytes true) s = .next s
      ∧ exec (.hostApertureAccess off bytes false) s = .next { s with host := { s.host with lastRead := List.replicate bytes.length 0 } })
    ∧ (∀ (off : Nat) (v : BitVec 64), exec (.registerWrite off v) s = .next s)
    ∧ (∀ v, exec (.praAnswer v) s = .next s) ∧ (∀ (asid : Nat) (va : BitVec 64) (size : Nat), exec (.pageInval asid va size) s = .next s)
    ∧ (∀ nonce : List (BitVec 8), nonce.length = 32 → exec (.attestRequest nonce) s = .next s))
  ∧ ∀ s : State, 6 ≤ s.host.stage →
    (s.host.busy = none →
      let begins := fun (s : State) (code status : Nat) (args : List Nat) => { s with host := { s.host with busy := some (code, status), busyArgs := args } }
      (∀ (asid : Nat) (va : BitVec 64) (size : Nat), ∃ s', exec (.pageInval asid va size) s = .next s'
        ∧ (¬(asid ≤ 4095 ∧ size ≤ 3 ∧ va.toNat < 2 ^ 52) → s' = begins s 1 1 [])
        ∧ (asid ≤ 4095 → size ≤ 3 → va.toNat < 2 ^ 52 → s'.host.busy = some (1, 0) ∧
            let held := fun (line : Nat) => va.toNat / pageBytes size * pageBytes size ≤ 128 * line ∧ 128 * line < va.toNat / pageBytes size * pageBytes size + pageBytes size
            (∀ l ∈ s'.mem.l1, ¬(l.asid = asid ∧ held l.line)) ∧ ∀ l ∈ s'.mem.l2, ¬(l.asid = asid ∧ held l.line)))
      ∧ (∀ (asid free : Nat) (e : PoolEntry), (s.pool asid).find? (fun x => x.index == e.index) = some e → asid ≤ 4095 → free ≤ 1 →
          exec (.poolSet asid e.index free) s = .next
            (if e.state ≤ 1 ∧ (∀ c ∈ s.mem.cows, ¬(c.asid = asid ∧ c.entry = e.index)) then begins (s.writePool asid e.index (setFld e.bits 138 2 free)) 2 0 [] else begins s 2 2 []))
      ∧ (∀ peer die port : Nat, peer ≤ 1023 → die ≤ 3 → port ≤ 127 → ∃ s', exec (.route peer die port) s = .next s'
          ∧ (s'.links.routes.find? (fun r => r.1 == peer && r.2.1 == die)).map (·.2.2) = some port ∧ s'.host.busy = some (3, 0))
      ∧ (∀ die cluster core : Nat, die ≤ 3 → cluster ≤ 15 → core ≤ 7 →
          exec (.spareCore die cluster core) s = .next
            (if s.host.spareCores.getD die 0 = 0 then begins s 4 2 [] else begins (s.failCore ⟨die, cluster, core⟩) 4 0 []))
      ∧ (∀ stack channel : Nat, stack ≤ 11 → channel ≤ 31 →
          exec (.chanRemap stack channel) s = .next (if stack ∈ s.mem.spareChannels then begins s 5 2 [] else begins s 5 0 [stack, channel]))
      ∧ (∀ die index : Nat, die ≤ 3 → index ≤ 63 → exec (.release die index) s = .next
          (match s.haltedBy die index with | some t => begins (s.file t.id) 6 0 [] | none => begins s 6 2 [])))
    ∧ (∀ code status : Nat, s.host.busy = some (code, status) →
      exec .serviceCommandLost s = .next { s with host := { s.host with lost := true } }
      ∧ (code ≠ 3 → ∃ s', exec .serviceCommandComplete s = .next s' ∧ s'.host.busy = none ∧ s'.host.status = status
          ∧ (∀ stack channel : Nat, code = 5 → s.host.busyArgs = [stack, channel] → (stack, channel) ∉ s'.mem.failedChannels ∧ stack ∈ s'.mem.spareChannels)))
    ∧ (∀ v : BitVec 64, ∃ s', exec (.praAnswer v) s = .next s'
        ∧ ((∀ r ∈ s.mem.requests, ¬(r.valid = true ∧ r.index = v.toNat % 2 ^ 8 ∧ r.uses = v.toNat / 2 ^ 8 % 2 ^ 8)) → s' = s)
        ∧ (v.toNat / 2 ^ 16 % 4 ≠ 1 → v.toNat / 2 ^ 16 % 4 ≠ 2 → s' = s)
        ∧ ∀ r, s.mem.requests.find? (fun r => r.valid && r.index == v.toNat % 2 ^ 8 && r.uses == v.toNat / 2 ^ 8 % 2 ^ 8) = some r →
            v.toNat / 2 ^ 16 % 4 = 1 ∨ v.toNat / 2 ^ 16 % 4 = 2 → s' = s.takeAnswer r (v.toNat / 2 ^ 16 % 4 == 1))
    ∧ (∀ (off : Nat) (bytes : List (BitVec 8)), bytes ≠ [] → off + bytes.length ≤ 2 ^ 28 → off / 2 ^ 21 = (off + bytes.length - 1) / 2 ^ 21 → s.mailboxFenced off = false →
        exec (.hostMailboxWrite off bytes) s = .next
          (let page := (s.mem.mailbox.getD (off / 2 ^ 21) 0).toNat % 2 ^ 19
           if 12 * 2 ^ 15 ≤ page then s else s.homeStore (page * 2 ^ 21 + off % 2 ^ 21) bytes))
    ∧ (∀ (off : Nat) (bytes : List (BitVec 8)), off + bytes.length ≤ 2 ^ 21 →
        let page := s.host.aperture.toNat % 2 ^ 19
        let reads := fun (bs : List Byte) => Host.Outcome.next { s with host := { s.host with lastRead := bs } }
        exec (.hostApertureAccess off bytes true) s = .next (if 12 * 2 ^ 15 ≤ page then s else
          let w := s.physWrite (page * 2 ^ 21 + off) bytes
          match Config.stagedImage (page * 2 ^ 21 + off) bytes with
          | some x => { w with host := { w.host with staged := some x } }
          | none => w)
        ∧ exec (.hostApertureAccess off bytes false) s =
            reads (if 12 * 2 ^ 15 ≤ page then List.replicate bytes.length 0 else s.physRead (page * 2 ^ 21 + off) bytes.length))
    ∧ (∀ (entry : Nat) (v : BitVec 64), entry ≤ 127 → ∃ s', exec (.mailboxMapWrite entry v) s = .next s'
        ∧ ((∃ q ∈ s.queues, q.enabled = true) → s' = s)
        ∧ ((∀ q ∈ s.queues, q.enabled = false) → (s'.mem.mailbox.getD entry 0).toNat = v.toNat % 2 ^ 19
            ∧ ∀ k, k ≠ entry → k ≤ 127 → s'.mem.mailbox.getD k 0 = s.mem.mailbox.getD k 0))
    ∧ (∀ nonce : List (BitVec 8), nonce.length = 32 → exec (.attestRequest nonce) s = .next { s with host := { s.host with nonce, atst := 1 } })
    ∧ (s.host.atst = 1 → s.host.nonce.length = 32 →
        ∃ s', exec .attestReportDone s = .next s' ∧ s'.host.atst = 2 ∧ s'.host.report.take 32 = s.host.nonce)
    ∧ (∀ (port : Nat) (rx : Bool) (v : BitVec 64), port ≤ 3 →
        let base := if rx then 0x30 else 0x10
        exec (.ethTailWrite port rx v) s = .next
          (if 2 ^ (s.eth port (base + 8) % 16) < (v - BitVec.ofNat 64 (s.eth port (base + 0x18))).toNat then s else s.setEth port (base + 0x10) v.toNat))
    ∧ (∀ (port : Nat), port ≤ 3 → bit (s.eth port 0) 0 = true → s.eth port 0x28 < s.eth port 0x20 →
        let asid := fld (s.eth port 0) 48 16
        let desc := s.ethDesc port 0x10 (s.eth port 0x28)
        ((s.host.eth.getD port {}).sent = true → ∀ v s1, s.ethDone port 0x10 desc 1 = (.ok v, s1) → exec (.ethTxFrame port) s = .next s1)
        ∧ ∀ d s1 frame s2, (s.host.eth.getD port {}).sent = false →
          s.ethRead asid desc 16 = (.ok d, s1) → 64 ≤ fld (bytesToNat d) 64 16 → fld (bytesToNat d) 64 16 ≤ 9216 →
          s1.ethRead asid (fld (bytesToNat d) 0 52) (fld (bytesToNat d) 64 16) = (.ok frame, s2) →
          let s3 := s2.setEth port 0x50 (s2.eth port 0x50 + 1)
          let gone := { s3 with host := { s3.host with framesOut := (port, frame) :: s3.host.framesOut } }
          (∀ v s4, gone.ethDone port 0x10 desc 1 = (.ok v, s4) → exec (.ethTxFrame port) s = .next s4)
          ∧ ∀ e s4, gone.ethDone port 0x10 desc 1 = (.error e, s4) → exec (.ethTxFrame port) s = .next { gone with
              host := { gone.host with eth := modAt (fun p => { p with sent := true }) port gone.host.eth } })
    ∧ (∀ (port : Nat) (frame : List (BitVec 8)), port ≤ 3 → (s.host.eth.getD port {}).held = none →
        (bit (s.eth port 0) 0 = false → exec (.ethRxFrame port frame false) s = .next s)
        ∧ (bit (s.eth port 0) 0 = true → bit (s.eth port 0) 1 = true →
          exec (.ethRxFrame port frame true) s = .next (s.setEth port 0x60 (s.eth port 0x60 + 1))
          ∧ ∀ d s1 v1 s2 v2 s3 v3 s4, s.eth port 0x48 < s.eth port 0x40 →
            let asid := fld (s.eth port 0) 48 16
            let desc := s.ethDesc port 0x30 (s.eth port 0x48)
            s.ethRead asid desc 16 = (.ok d, s1) → frame.length ≤ fld (bytesToNat d) 64 16 →
            s1.ethStore asid (fld (bytesToNat d) 0 52) frame = (.ok v1, s2) →
            s2.ethStore asid (desc + 8) (natToBytes 2 frame.length) = (.ok v2, s3) → s3.ethDone port 0x30 desc 1 = (.ok v3, s4) →
            exec (.ethRxFrame port frame false) s = .next (s4.setEth port 0x58 (s4.eth port 0x58 + 1))))
    ∧ (∀ (index : Nat) (v : BitVec 64), ∃ s', exec (.serviceCounterWrite index v) s = .next s' ∧ (v ≠ 0 → s' = s)
        ∧ (v = 0 → s' = { s with host := { s.host with counters := s'.host.counters }, recordsLost := s'.recordsLost }
            ∧ (∀ c, c ∈ s'.host.counters ↔ c ∈ s.host.counters ∧ c.1 ≠ index)
            ∧ ∀ d, d < 4 → s'.recordsLost.getD d 0 = if index = lostIndex d then 0 else s.recordsLost.getD d 0))
    ∧ (∀ v : BitVec 64,
        exec (.registerWrite 0x10 v) s = .next { s with host := { s.host with aperture := BitVec.ofNat 64 (v.toNat % 2 ^ 19) } }
        ∧ (∀ k, k < 4 → exec (.registerWrite (0x10008 + 8 * k) v) s = .next { s with host := { s.host with margs := modAt (fun _ => v) k s.host.margs } })
        ∧ (∃ s', exec (.registerWrite 0x10000 v) s = .next s' ∧ (v.toNat % 2 ^ 8 = 0 → v.getLsbD 56 = true → s' = { s with host := { s.host with lost := false } }))
        ∧ (∃ s', exec (.registerWrite 0x1000 v) s = .next s' ∧ exec (.guardWrite v) s = .next s')
        ∧ (∃ s', exec (.registerWrite 0x2000 v) s = .next s' ∧ exec (.cadenceWrite v) s = .next s')
        ∧ (∃ s', exec (.registerWrite 0x11800 v) s = .next s' ∧ exec (.praAnswer v) s = .next s'))

/-! ### Steps -/

/-- A step takes the next event of the agenda; else it issues the group of the crew a decision has chosen, which is what the packet at the
crew's code address decodes to, each word running by `exec` in turn; else the part takes an event of itself (R36, R38-R41, R46). -/
def Obligations.StepRunsTheDecodedInstruction : Prop :=
  (∀ (s : State) (e : Instr) (rest : List Instr), s.ctl.agenda = e :: rest →
    step s = afterStep (exec e { s with ctl := { s.ctl with agenda := rest } }))
  ∧ (∀ (s : State), s.ctl.agenda = [] → s.ctl.focus = none → step s = afterStep (idleStep s))
  ∧ (∀ (s : State) (c : Crew) (pkt entry : Nat) (ws : List W32) (g : Group), s.ctl.agenda = [] → s.ctl.focus = some c.id → s.crew? c.id = some c →
    s.crewAddr c = some (pkt, entry) →
    let active := (s.activeOf c).filterMap s.thread?
    let asid := match active with | t :: _ => s.asidOf t | [] => 0
    let n := Group.count g
    s.crewReady c active = true → s.fetch asid pkt = .words ws → decodeGroup ws entry = .ok g →
    (∀ t ∈ active, s.holdVerdict n t = .pass) → (∀ t ∈ active, ∀ x ∈ t.ctx.marks, t.markDue n x = false) →
    step s = afterStep ((s.touchCode asid pkt).issueDecoded c active pkt entry g))
  ∧ (∀ (s s1 : State) (c : Crew) (active : List Thread) (pkt entry : Nat) (g : Group),
    let i := s.issueCtx c pkt entry g active
    let k := checkWords s s g.words i {}
    let s0 := s.modCtl (fun x => { x with issue := some { i with checked := true } })
    k.taken = none → k.stalled = false → k.raised = [] →
    runWords (effectOrder g.words) ((s0.markPath c.id).passHolds i.active) = .next s1 →
    let j := s1.ctl.issue.getD i
    s.issueDecoded c active pkt entry g = .next ((((((s1.countWindows j g).moveOn j).forgetRefusal c.id).afterIssue c g
      (groupBeats g active.length)).markPath c.id).endIssue)
    ∧ ∀ u t, s1.thread? u = some t → ∃ t', ((s1.countWindows j g).moveOn j).thread? u = some t'
        ∧ (∀ d, s1.crewOf u = some d → d.id = j.crew → u ∈ j.before.map (·.id) → u ∉ j.jumped → t'.ctx.pkt = j.next.1 ∧ t'.ctx.word = j.next.2)
        ∧ ((u ∉ j.before.map (·.id) ∨ u ∈ j.jumped) → t'.ctx.pkt = t.ctx.pkt ∧ t'.ctx.word = t.ctx.word))
  ∧ (∀ (g : GroupWord) (rest : List GroupWord) (s s' : State), exec g.instr (s.modIssue (·.at_ g)) = .next s' →
    runWords (g :: rest) s = runWords rest (s'.modIssue (·.after g.instr)))

/-- Every step leaves no grid waiting whose dependences are all met, and none one of whose dependences has failed (R423). -/
def Obligations.StepsKeepGridsFresh : Prop := ∀ s s' : State, Steps s s' → GridsFresh s'

/-- The machine after power-on, before bring-up: stage 0, package time 0 with a guard band of 32 ns, nothing running and nothing loaded,
queues and energy registers at their reset values, device memory canonical, no grid waiting (R25, R26, R415, R430, R472). That the
receivers' copies begin at 0 is the model's choice (log 2). -/
def Obligations.ResetState : Prop :=
  let s := State.reset
  s.host.stage = 0 ∧ s.time.hub = 0 ∧ s.time.guard = 4 ∧ s.time.gberr = false ∧ (∀ x ∈ s.time.receivers, x.copy = 0 ∧ x.guard = 4 ∧ x.fenced = false)
  ∧ s.threads = [] ∧ s.crews = [] ∧ s.bins = [] ∧ s.teams = [] ∧ s.grids = [] ∧ s.flights = [] ∧ s.jobs = []
  ∧ (∀ q, (s.queue q).enabled = false ∧ (s.queue q).stopped = false)
  ∧ (∀ a, (s.asidBlock a).vslots.getD 0 ⟨false, 0, 0⟩ = ⟨true, 0, 0xFFFFFF⟩ ∧ ∀ n, 1 ≤ n → n ≤ 15 → (s.asidBlock a).vslots.getD n ⟨true, 0, 0⟩ = ⟨false, 0, 0⟩)
  ∧ s.energy.capus = 1000 ∧ s.energy.limit = 4200 ∧ s.links.thresh = 4096 ∧ s.links.rto = 1000
  ∧ MemCanonical s ∧ GridsFresh s
end

