-- ==== Sys2Proof/Laws/State.lean ====
section
/-! SUPPORT. What each update of State leaves of each field: one lemma per field per update, so that no proof unfolds a record
update. -/
namespace Sys2Proof.Machine

@[simp] theorem State.modThread_time (s : State) (t : Nat) (f : Thread → Thread) : (s.modThread t f).time = s.time := rfl
@[simp] theorem State.modThread_threads (s : State) (t : Nat) (f : Thread → Thread) : (s.modThread t f).threads = modFirst (fun x => x.id == t) f s.threads := rfl
@[simp] theorem State.modThread_crews (s : State) (t : Nat) (f : Thread → Thread) : (s.modThread t f).crews = s.crews := rfl
@[simp] theorem State.modThread_bins (s : State) (t : Nat) (f : Thread → Thread) : (s.modThread t f).bins = s.bins := rfl
@[simp] theorem State.modThread_lanes (s : State) (t : Nat) (f : Thread → Thread) : (s.modThread t f).lanes = s.lanes := rfl
@[simp] theorem State.modThread_teams (s : State) (t : Nat) (f : Thread → Thread) : (s.modThread t f).teams = s.teams := rfl
@[simp] theorem State.modThread_clusters (s : State) (t : Nat) (f : Thread → Thread) : (s.modThread t f).clusters = s.clusters := rfl
@[simp] theorem State.modThread_grids (s : State) (t : Nat) (f : Thread → Thread) : (s.modThread t f).grids = s.grids := rfl
@[simp] theorem State.modThread_events (s : State) (t : Nat) (f : Thread → Thread) : (s.modThread t f).events = s.events := rfl
@[simp] theorem State.modThread_queues (s : State) (t : Nat) (f : Thread → Thread) : (s.modThread t f).queues = s.queues := rfl
@[simp] theorem State.modThread_asids (s : State) (t : Nat) (f : Thread → Thread) : (s.modThread t f).asids = s.asids := rfl
@[simp] theorem State.modThread_flights (s : State) (t : Nat) (f : Thread → Thread) : (s.modThread t f).flights = s.flights := rfl
@[simp] theorem State.modThread_gens (s : State) (t : Nat) (f : Thread → Thread) : (s.modThread t f).gens = s.gens := rfl
@[simp] theorem State.modThread_jobs (s : State) (t : Nat) (f : Thread → Thread) : (s.modThread t f).jobs = s.jobs := rfl
@[simp] theorem State.modThread_tables (s : State) (t : Nat) (f : Thread → Thread) : (s.modThread t f).tables = s.tables := rfl
@[simp] theorem State.modThread_mem (s : State) (t : Nat) (f : Thread → Thread) : (s.modThread t f).mem = s.mem := rfl
@[simp] theorem State.modThread_links (s : State) (t : Nat) (f : Thread → Thread) : (s.modThread t f).links = s.links := rfl
@[simp] theorem State.modThread_energy (s : State) (t : Nat) (f : Thread → Thread) : (s.modThread t f).energy = s.energy := rfl
@[simp] theorem State.modThread_host (s : State) (t : Nat) (f : Thread → Thread) : (s.modThread t f).host = s.host := rfl
@[simp] theorem State.modThread_records (s : State) (t : Nat) (f : Thread → Thread) : (s.modThread t f).records = s.records := rfl
@[simp] theorem State.modThread_recordsLost (s : State) (t : Nat) (f : Thread → Thread) : (s.modThread t f).recordsLost = s.recordsLost := rfl
@[simp] theorem State.modThread_ctl (s : State) (t : Nat) (f : Thread → Thread) : (s.modThread t f).ctl = s.ctl := rfl

@[simp] theorem State.modCrew_time (s : State) (c : Nat) (f : Crew → Crew) : (s.modCrew c f).time = s.time := rfl
@[simp] theorem State.modCrew_threads (s : State) (c : Nat) (f : Crew → Crew) : (s.modCrew c f).threads = s.threads := rfl
@[simp] theorem State.modCrew_crews (s : State) (c : Nat) (f : Crew → Crew) : (s.modCrew c f).crews = modFirst (fun x => x.id == c) f s.crews := rfl
@[simp] theorem State.modCrew_bins (s : State) (c : Nat) (f : Crew → Crew) : (s.modCrew c f).bins = s.bins := rfl
@[simp] theorem State.modCrew_lanes (s : State) (c : Nat) (f : Crew → Crew) : (s.modCrew c f).lanes = s.lanes := rfl
@[simp] theorem State.modCrew_teams (s : State) (c : Nat) (f : Crew → Crew) : (s.modCrew c f).teams = s.teams := rfl
@[simp] theorem State.modCrew_clusters (s : State) (c : Nat) (f : Crew → Crew) : (s.modCrew c f).clusters = s.clusters := rfl
@[simp] theorem State.modCrew_grids (s : State) (c : Nat) (f : Crew → Crew) : (s.modCrew c f).grids = s.grids := rfl
@[simp] theorem State.modCrew_events (s : State) (c : Nat) (f : Crew → Crew) : (s.modCrew c f).events = s.events := rfl
@[simp] theorem State.modCrew_queues (s : State) (c : Nat) (f : Crew → Crew) : (s.modCrew c f).queues = s.queues := rfl
@[simp] theorem State.modCrew_asids (s : State) (c : Nat) (f : Crew → Crew) : (s.modCrew c f).asids = s.asids := rfl
@[simp] theorem State.modCrew_flights (s : State) (c : Nat) (f : Crew → Crew) : (s.modCrew c f).flights = s.flights := rfl
@[simp] theorem State.modCrew_gens (s : State) (c : Nat) (f : Crew → Crew) : (s.modCrew c f).gens = s.gens := rfl
@[simp] theorem State.modCrew_jobs (s : State) (c : Nat) (f : Crew → Crew) : (s.modCrew c f).jobs = s.jobs := rfl
@[simp] theorem State.modCrew_tables (s : State) (c : Nat) (f : Crew → Crew) : (s.modCrew c f).tables = s.tables := rfl
@[simp] theorem State.modCrew_mem (s : State) (c : Nat) (f : Crew → Crew) : (s.modCrew c f).mem = s.mem := rfl
@[simp] theorem State.modCrew_links (s : State) (c : Nat) (f : Crew → Crew) : (s.modCrew c f).links = s.links := rfl
@[simp] theorem State.modCrew_energy (s : State) (c : Nat) (f : Crew → Crew) : (s.modCrew c f).energy = s.energy := rfl
@[simp] theorem State.modCrew_host (s : State) (c : Nat) (f : Crew → Crew) : (s.modCrew c f).host = s.host := rfl
@[simp] theorem State.modCrew_records (s : State) (c : Nat) (f : Crew → Crew) : (s.modCrew c f).records = s.records := rfl
@[simp] theorem State.modCrew_recordsLost (s : State) (c : Nat) (f : Crew → Crew) : (s.modCrew c f).recordsLost = s.recordsLost := rfl
@[simp] theorem State.modCrew_ctl (s : State) (c : Nat) (f : Crew → Crew) : (s.modCrew c f).ctl = s.ctl := rfl

@[simp] theorem State.modTeam_time (s : State) (t : Nat) (f : Team → Team) : (s.modTeam t f).time = s.time := rfl
@[simp] theorem State.modTeam_threads (s : State) (t : Nat) (f : Team → Team) : (s.modTeam t f).threads = s.threads := rfl
@[simp] theorem State.modTeam_crews (s : State) (t : Nat) (f : Team → Team) : (s.modTeam t f).crews = s.crews := rfl
@[simp] theorem State.modTeam_bins (s : State) (t : Nat) (f : Team → Team) : (s.modTeam t f).bins = s.bins := rfl
@[simp] theorem State.modTeam_lanes (s : State) (t : Nat) (f : Team → Team) : (s.modTeam t f).lanes = s.lanes := rfl
@[simp] theorem State.modTeam_teams (s : State) (t : Nat) (f : Team → Team) : (s.modTeam t f).teams = modFirst (fun x => x.id == t) f s.teams := rfl
@[simp] theorem State.modTeam_clusters (s : State) (t : Nat) (f : Team → Team) : (s.modTeam t f).clusters = s.clusters := rfl
@[simp] theorem State.modTeam_grids (s : State) (t : Nat) (f : Team → Team) : (s.modTeam t f).grids = s.grids := rfl
@[simp] theorem State.modTeam_events (s : State) (t : Nat) (f : Team → Team) : (s.modTeam t f).events = s.events := rfl
@[simp] theorem State.modTeam_queues (s : State) (t : Nat) (f : Team → Team) : (s.modTeam t f).queues = s.queues := rfl
@[simp] theorem State.modTeam_asids (s : State) (t : Nat) (f : Team → Team) : (s.modTeam t f).asids = s.asids := rfl
@[simp] theorem State.modTeam_flights (s : State) (t : Nat) (f : Team → Team) : (s.modTeam t f).flights = s.flights := rfl
@[simp] theorem State.modTeam_gens (s : State) (t : Nat) (f : Team → Team) : (s.modTeam t f).gens = s.gens := rfl
@[simp] theorem State.modTeam_jobs (s : State) (t : Nat) (f : Team → Team) : (s.modTeam t f).jobs = s.jobs := rfl
@[simp] theorem State.modTeam_tables (s : State) (t : Nat) (f : Team → Team) : (s.modTeam t f).tables = s.tables := rfl
@[simp] theorem State.modTeam_mem (s : State) (t : Nat) (f : Team → Team) : (s.modTeam t f).mem = s.mem := rfl
@[simp] theorem State.modTeam_links (s : State) (t : Nat) (f : Team → Team) : (s.modTeam t f).links = s.links := rfl
@[simp] theorem State.modTeam_energy (s : State) (t : Nat) (f : Team → Team) : (s.modTeam t f).energy = s.energy := rfl
@[simp] theorem State.modTeam_host (s : State) (t : Nat) (f : Team → Team) : (s.modTeam t f).host = s.host := rfl
@[simp] theorem State.modTeam_records (s : State) (t : Nat) (f : Team → Team) : (s.modTeam t f).records = s.records := rfl
@[simp] theorem State.modTeam_recordsLost (s : State) (t : Nat) (f : Team → Team) : (s.modTeam t f).recordsLost = s.recordsLost := rfl
@[simp] theorem State.modTeam_ctl (s : State) (t : Nat) (f : Team → Team) : (s.modTeam t f).ctl = s.ctl := rfl

@[simp] theorem State.modGrid_time (s : State) (e : Nat) (f : Grid → Grid) : (s.modGrid e f).time = s.time := rfl
@[simp] theorem State.modGrid_threads (s : State) (e : Nat) (f : Grid → Grid) : (s.modGrid e f).threads = s.threads := rfl
@[simp] theorem State.modGrid_crews (s : State) (e : Nat) (f : Grid → Grid) : (s.modGrid e f).crews = s.crews := rfl
@[simp] theorem State.modGrid_bins (s : State) (e : Nat) (f : Grid → Grid) : (s.modGrid e f).bins = s.bins := rfl
@[simp] theorem State.modGrid_lanes (s : State) (e : Nat) (f : Grid → Grid) : (s.modGrid e f).lanes = s.lanes := rfl
@[simp] theorem State.modGrid_teams (s : State) (e : Nat) (f : Grid → Grid) : (s.modGrid e f).teams = s.teams := rfl
@[simp] theorem State.modGrid_clusters (s : State) (e : Nat) (f : Grid → Grid) : (s.modGrid e f).clusters = s.clusters := rfl
@[simp] theorem State.modGrid_grids (s : State) (e : Nat) (f : Grid → Grid) : (s.modGrid e f).grids = modFirst (fun x => x.event == e) f s.grids := rfl
@[simp] theorem State.modGrid_events (s : State) (e : Nat) (f : Grid → Grid) : (s.modGrid e f).events = s.events := rfl
@[simp] theorem State.modGrid_queues (s : State) (e : Nat) (f : Grid → Grid) : (s.modGrid e f).queues = s.queues := rfl
@[simp] theorem State.modGrid_asids (s : State) (e : Nat) (f : Grid → Grid) : (s.modGrid e f).asids = s.asids := rfl
@[simp] theorem State.modGrid_flights (s : State) (e : Nat) (f : Grid → Grid) : (s.modGrid e f).flights = s.flights := rfl
@[simp] theorem State.modGrid_gens (s : State) (e : Nat) (f : Grid → Grid) : (s.modGrid e f).gens = s.gens := rfl
@[simp] theorem State.modGrid_jobs (s : State) (e : Nat) (f : Grid → Grid) : (s.modGrid e f).jobs = s.jobs := rfl
@[simp] theorem State.modGrid_tables (s : State) (e : Nat) (f : Grid → Grid) : (s.modGrid e f).tables = s.tables := rfl
@[simp] theorem State.modGrid_mem (s : State) (e : Nat) (f : Grid → Grid) : (s.modGrid e f).mem = s.mem := rfl
@[simp] theorem State.modGrid_links (s : State) (e : Nat) (f : Grid → Grid) : (s.modGrid e f).links = s.links := rfl
@[simp] theorem State.modGrid_energy (s : State) (e : Nat) (f : Grid → Grid) : (s.modGrid e f).energy = s.energy := rfl
@[simp] theorem State.modGrid_host (s : State) (e : Nat) (f : Grid → Grid) : (s.modGrid e f).host = s.host := rfl
@[simp] theorem State.modGrid_records (s : State) (e : Nat) (f : Grid → Grid) : (s.modGrid e f).records = s.records := rfl
@[simp] theorem State.modGrid_recordsLost (s : State) (e : Nat) (f : Grid → Grid) : (s.modGrid e f).recordsLost = s.recordsLost := rfl
@[simp] theorem State.modGrid_ctl (s : State) (e : Nat) (f : Grid → Grid) : (s.modGrid e f).ctl = s.ctl := rfl

@[simp] theorem State.modCluster_time (s : State) (c : Nat) (f : Cluster → Cluster) : (s.modCluster c f).time = s.time := rfl
@[simp] theorem State.modCluster_threads (s : State) (c : Nat) (f : Cluster → Cluster) : (s.modCluster c f).threads = s.threads := rfl
@[simp] theorem State.modCluster_crews (s : State) (c : Nat) (f : Cluster → Cluster) : (s.modCluster c f).crews = s.crews := rfl
@[simp] theorem State.modCluster_bins (s : State) (c : Nat) (f : Cluster → Cluster) : (s.modCluster c f).bins = s.bins := rfl
@[simp] theorem State.modCluster_lanes (s : State) (c : Nat) (f : Cluster → Cluster) : (s.modCluster c f).lanes = s.lanes := rfl
@[simp] theorem State.modCluster_teams (s : State) (c : Nat) (f : Cluster → Cluster) : (s.modCluster c f).teams = s.teams := rfl
@[simp] theorem State.modCluster_clusters (s : State) (c : Nat) (f : Cluster → Cluster) : (s.modCluster c f).clusters = modFirst (fun x => x.id == c) f s.clusters := rfl
@[simp] theorem State.modCluster_grids (s : State) (c : Nat) (f : Cluster → Cluster) : (s.modCluster c f).grids = s.grids := rfl
@[simp] theorem State.modCluster_events (s : State) (c : Nat) (f : Cluster → Cluster) : (s.modCluster c f).events = s.events := rfl
@[simp] theorem State.modCluster_queues (s : State) (c : Nat) (f : Cluster → Cluster) : (s.modCluster c f).queues = s.queues := rfl
@[simp] theorem State.modCluster_asids (s : State) (c : Nat) (f : Cluster → Cluster) : (s.modCluster c f).asids = s.asids := rfl
@[simp] theorem State.modCluster_flights (s : State) (c : Nat) (f : Cluster → Cluster) : (s.modCluster c f).flights = s.flights := rfl
@[simp] theorem State.modCluster_gens (s : State) (c : Nat) (f : Cluster → Cluster) : (s.modCluster c f).gens = s.gens := rfl
@[simp] theorem State.modCluster_jobs (s : State) (c : Nat) (f : Cluster → Cluster) : (s.modCluster c f).jobs = s.jobs := rfl
@[simp] theorem State.modCluster_tables (s : State) (c : Nat) (f : Cluster → Cluster) : (s.modCluster c f).tables = s.tables := rfl
@[simp] theorem State.modCluster_mem (s : State) (c : Nat) (f : Cluster → Cluster) : (s.modCluster c f).mem = s.mem := rfl
@[simp] theorem State.modCluster_links (s : State) (c : Nat) (f : Cluster → Cluster) : (s.modCluster c f).links = s.links := rfl
@[simp] theorem State.modCluster_energy (s : State) (c : Nat) (f : Cluster → Cluster) : (s.modCluster c f).energy = s.energy := rfl
@[simp] theorem State.modCluster_host (s : State) (c : Nat) (f : Cluster → Cluster) : (s.modCluster c f).host = s.host := rfl
@[simp] theorem State.modCluster_records (s : State) (c : Nat) (f : Cluster → Cluster) : (s.modCluster c f).records = s.records := rfl
@[simp] theorem State.modCluster_recordsLost (s : State) (c : Nat) (f : Cluster → Cluster) : (s.modCluster c f).recordsLost = s.recordsLost := rfl
@[simp] theorem State.modCluster_ctl (s : State) (c : Nat) (f : Cluster → Cluster) : (s.modCluster c f).ctl = s.ctl := rfl

@[simp] theorem State.modFlight_time (s : State) (k : Nat) (f : Flight → Flight) : (s.modFlight k f).time = s.time := rfl
@[simp] theorem State.modFlight_threads (s : State) (k : Nat) (f : Flight → Flight) : (s.modFlight k f).threads = s.threads := rfl
@[simp] theorem State.modFlight_crews (s : State) (k : Nat) (f : Flight → Flight) : (s.modFlight k f).crews = s.crews := rfl
@[simp] theorem State.modFlight_bins (s : State) (k : Nat) (f : Flight → Flight) : (s.modFlight k f).bins = s.bins := rfl
@[simp] theorem State.modFlight_lanes (s : State) (k : Nat) (f : Flight → Flight) : (s.modFlight k f).lanes = s.lanes := rfl
@[simp] theorem State.modFlight_teams (s : State) (k : Nat) (f : Flight → Flight) : (s.modFlight k f).teams = s.teams := rfl
@[simp] theorem State.modFlight_clusters (s : State) (k : Nat) (f : Flight → Flight) : (s.modFlight k f).clusters = s.clusters := rfl
@[simp] theorem State.modFlight_grids (s : State) (k : Nat) (f : Flight → Flight) : (s.modFlight k f).grids = s.grids := rfl
@[simp] theorem State.modFlight_events (s : State) (k : Nat) (f : Flight → Flight) : (s.modFlight k f).events = s.events := rfl
@[simp] theorem State.modFlight_queues (s : State) (k : Nat) (f : Flight → Flight) : (s.modFlight k f).queues = s.queues := rfl
@[simp] theorem State.modFlight_asids (s : State) (k : Nat) (f : Flight → Flight) : (s.modFlight k f).asids = s.asids := rfl
@[simp] theorem State.modFlight_flights (s : State) (k : Nat) (f : Flight → Flight) : (s.modFlight k f).flights = modFirst (fun x => x.id == k) f s.flights := rfl
@[simp] theorem State.modFlight_gens (s : State) (k : Nat) (f : Flight → Flight) : (s.modFlight k f).gens = s.gens := rfl
@[simp] theorem State.modFlight_jobs (s : State) (k : Nat) (f : Flight → Flight) : (s.modFlight k f).jobs = s.jobs := rfl
@[simp] theorem State.modFlight_tables (s : State) (k : Nat) (f : Flight → Flight) : (s.modFlight k f).tables = s.tables := rfl
@[simp] theorem State.modFlight_mem (s : State) (k : Nat) (f : Flight → Flight) : (s.modFlight k f).mem = s.mem := rfl
@[simp] theorem State.modFlight_links (s : State) (k : Nat) (f : Flight → Flight) : (s.modFlight k f).links = s.links := rfl
@[simp] theorem State.modFlight_energy (s : State) (k : Nat) (f : Flight → Flight) : (s.modFlight k f).energy = s.energy := rfl
@[simp] theorem State.modFlight_host (s : State) (k : Nat) (f : Flight → Flight) : (s.modFlight k f).host = s.host := rfl
@[simp] theorem State.modFlight_records (s : State) (k : Nat) (f : Flight → Flight) : (s.modFlight k f).records = s.records := rfl
@[simp] theorem State.modFlight_recordsLost (s : State) (k : Nat) (f : Flight → Flight) : (s.modFlight k f).recordsLost = s.recordsLost := rfl
@[simp] theorem State.modFlight_ctl (s : State) (k : Nat) (f : Flight → Flight) : (s.modFlight k f).ctl = s.ctl := rfl

@[simp] theorem State.dropFlight_time (s : State) (k : Nat) : (s.dropFlight k).time = s.time := rfl
@[simp] theorem State.dropFlight_threads (s : State) (k : Nat) : (s.dropFlight k).threads = s.threads := rfl
@[simp] theorem State.dropFlight_crews (s : State) (k : Nat) : (s.dropFlight k).crews = s.crews := rfl
@[simp] theorem State.dropFlight_bins (s : State) (k : Nat) : (s.dropFlight k).bins = s.bins := rfl
@[simp] theorem State.dropFlight_lanes (s : State) (k : Nat) : (s.dropFlight k).lanes = s.lanes := rfl
@[simp] theorem State.dropFlight_teams (s : State) (k : Nat) : (s.dropFlight k).teams = s.teams := rfl
@[simp] theorem State.dropFlight_clusters (s : State) (k : Nat) : (s.dropFlight k).clusters = s.clusters := rfl
@[simp] theorem State.dropFlight_grids (s : State) (k : Nat) : (s.dropFlight k).grids = s.grids := rfl
@[simp] theorem State.dropFlight_events (s : State) (k : Nat) : (s.dropFlight k).events = s.events := rfl
@[simp] theorem State.dropFlight_queues (s : State) (k : Nat) : (s.dropFlight k).queues = s.queues := rfl
@[simp] theorem State.dropFlight_asids (s : State) (k : Nat) : (s.dropFlight k).asids = s.asids := rfl
@[simp] theorem State.dropFlight_flights (s : State) (k : Nat) : (s.dropFlight k).flights = s.flights.filter (fun x => x.id != k) := rfl
@[simp] theorem State.dropFlight_gens (s : State) (k : Nat) : (s.dropFlight k).gens = s.gens := rfl
@[simp] theorem State.dropFlight_jobs (s : State) (k : Nat) : (s.dropFlight k).jobs = s.jobs := rfl
@[simp] theorem State.dropFlight_tables (s : State) (k : Nat) : (s.dropFlight k).tables = s.tables := rfl
@[simp] theorem State.dropFlight_mem (s : State) (k : Nat) : (s.dropFlight k).mem = s.mem := rfl
@[simp] theorem State.dropFlight_links (s : State) (k : Nat) : (s.dropFlight k).links = s.links := rfl
@[simp] theorem State.dropFlight_energy (s : State) (k : Nat) : (s.dropFlight k).energy = s.energy := rfl
@[simp] theorem State.dropFlight_host (s : State) (k : Nat) : (s.dropFlight k).host = s.host := rfl
@[simp] theorem State.dropFlight_records (s : State) (k : Nat) : (s.dropFlight k).records = s.records := rfl
@[simp] theorem State.dropFlight_recordsLost (s : State) (k : Nat) : (s.dropFlight k).recordsLost = s.recordsLost := rfl
@[simp] theorem State.dropFlight_ctl (s : State) (k : Nat) : (s.dropFlight k).ctl = s.ctl := rfl

@[simp] theorem State.modJob_time (s : State) (j : Nat) (f : Job → Job) : (s.modJob j f).time = s.time := rfl
@[simp] theorem State.modJob_threads (s : State) (j : Nat) (f : Job → Job) : (s.modJob j f).threads = s.threads := rfl
@[simp] theorem State.modJob_crews (s : State) (j : Nat) (f : Job → Job) : (s.modJob j f).crews = s.crews := rfl
@[simp] theorem State.modJob_bins (s : State) (j : Nat) (f : Job → Job) : (s.modJob j f).bins = s.bins := rfl
@[simp] theorem State.modJob_lanes (s : State) (j : Nat) (f : Job → Job) : (s.modJob j f).lanes = s.lanes := rfl
@[simp] theorem State.modJob_teams (s : State) (j : Nat) (f : Job → Job) : (s.modJob j f).teams = s.teams := rfl
@[simp] theorem State.modJob_clusters (s : State) (j : Nat) (f : Job → Job) : (s.modJob j f).clusters = s.clusters := rfl
@[simp] theorem State.modJob_grids (s : State) (j : Nat) (f : Job → Job) : (s.modJob j f).grids = s.grids := rfl
@[simp] theorem State.modJob_events (s : State) (j : Nat) (f : Job → Job) : (s.modJob j f).events = s.events := rfl
@[simp] theorem State.modJob_queues (s : State) (j : Nat) (f : Job → Job) : (s.modJob j f).queues = s.queues := rfl
@[simp] theorem State.modJob_asids (s : State) (j : Nat) (f : Job → Job) : (s.modJob j f).asids = s.asids := rfl
@[simp] theorem State.modJob_flights (s : State) (j : Nat) (f : Job → Job) : (s.modJob j f).flights = s.flights := rfl
@[simp] theorem State.modJob_gens (s : State) (j : Nat) (f : Job → Job) : (s.modJob j f).gens = s.gens := rfl
@[simp] theorem State.modJob_jobs (s : State) (j : Nat) (f : Job → Job) : (s.modJob j f).jobs = modFirst (fun x => x.id == j) f s.jobs := rfl
@[simp] theorem State.modJob_tables (s : State) (j : Nat) (f : Job → Job) : (s.modJob j f).tables = s.tables := rfl
@[simp] theorem State.modJob_mem (s : State) (j : Nat) (f : Job → Job) : (s.modJob j f).mem = s.mem := rfl
@[simp] theorem State.modJob_links (s : State) (j : Nat) (f : Job → Job) : (s.modJob j f).links = s.links := rfl
@[simp] theorem State.modJob_energy (s : State) (j : Nat) (f : Job → Job) : (s.modJob j f).energy = s.energy := rfl
@[simp] theorem State.modJob_host (s : State) (j : Nat) (f : Job → Job) : (s.modJob j f).host = s.host := rfl
@[simp] theorem State.modJob_records (s : State) (j : Nat) (f : Job → Job) : (s.modJob j f).records = s.records := rfl
@[simp] theorem State.modJob_recordsLost (s : State) (j : Nat) (f : Job → Job) : (s.modJob j f).recordsLost = s.recordsLost := rfl
@[simp] theorem State.modJob_ctl (s : State) (j : Nat) (f : Job → Job) : (s.modJob j f).ctl = s.ctl := rfl

@[simp] theorem State.modCtl_time (s : State) (f : Control → Control) : (s.modCtl f).time = s.time := rfl
@[simp] theorem State.modCtl_threads (s : State) (f : Control → Control) : (s.modCtl f).threads = s.threads := rfl
@[simp] theorem State.modCtl_crews (s : State) (f : Control → Control) : (s.modCtl f).crews = s.crews := rfl
@[simp] theorem State.modCtl_bins (s : State) (f : Control → Control) : (s.modCtl f).bins = s.bins := rfl
@[simp] theorem State.modCtl_lanes (s : State) (f : Control → Control) : (s.modCtl f).lanes = s.lanes := rfl
@[simp] theorem State.modCtl_teams (s : State) (f : Control → Control) : (s.modCtl f).teams = s.teams := rfl
@[simp] theorem State.modCtl_clusters (s : State) (f : Control → Control) : (s.modCtl f).clusters = s.clusters := rfl
@[simp] theorem State.modCtl_grids (s : State) (f : Control → Control) : (s.modCtl f).grids = s.grids := rfl
@[simp] theorem State.modCtl_events (s : State) (f : Control → Control) : (s.modCtl f).events = s.events := rfl
@[simp] theorem State.modCtl_queues (s : State) (f : Control → Control) : (s.modCtl f).queues = s.queues := rfl
@[simp] theorem State.modCtl_asids (s : State) (f : Control → Control) : (s.modCtl f).asids = s.asids := rfl
@[simp] theorem State.modCtl_flights (s : State) (f : Control → Control) : (s.modCtl f).flights = s.flights := rfl
@[simp] theorem State.modCtl_gens (s : State) (f : Control → Control) : (s.modCtl f).gens = s.gens := rfl
@[simp] theorem State.modCtl_jobs (s : State) (f : Control → Control) : (s.modCtl f).jobs = s.jobs := rfl
@[simp] theorem State.modCtl_tables (s : State) (f : Control → Control) : (s.modCtl f).tables = s.tables := rfl
@[simp] theorem State.modCtl_mem (s : State) (f : Control → Control) : (s.modCtl f).mem = s.mem := rfl
@[simp] theorem State.modCtl_links (s : State) (f : Control → Control) : (s.modCtl f).links = s.links := rfl
@[simp] theorem State.modCtl_energy (s : State) (f : Control → Control) : (s.modCtl f).energy = s.energy := rfl
@[simp] theorem State.modCtl_host (s : State) (f : Control → Control) : (s.modCtl f).host = s.host := rfl
@[simp] theorem State.modCtl_records (s : State) (f : Control → Control) : (s.modCtl f).records = s.records := rfl
@[simp] theorem State.modCtl_recordsLost (s : State) (f : Control → Control) : (s.modCtl f).recordsLost = s.recordsLost := rfl
@[simp] theorem State.modCtl_ctl (s : State) (f : Control → Control) : (s.modCtl f).ctl = f s.ctl := rfl

@[simp] theorem State.modHost_time (s : State) (f : HostState → HostState) : (s.modHost f).time = s.time := rfl
@[simp] theorem State.modHost_threads (s : State) (f : HostState → HostState) : (s.modHost f).threads = s.threads := rfl
@[simp] theorem State.modHost_crews (s : State) (f : HostState → HostState) : (s.modHost f).crews = s.crews := rfl
@[simp] theorem State.modHost_bins (s : State) (f : HostState → HostState) : (s.modHost f).bins = s.bins := rfl
@[simp] theorem State.modHost_lanes (s : State) (f : HostState → HostState) : (s.modHost f).lanes = s.lanes := rfl
@[simp] theorem State.modHost_teams (s : State) (f : HostState → HostState) : (s.modHost f).teams = s.teams := rfl
@[simp] theorem State.modHost_clusters (s : State) (f : HostState → HostState) : (s.modHost f).clusters = s.clusters := rfl
@[simp] theorem State.modHost_grids (s : State) (f : HostState → HostState) : (s.modHost f).grids = s.grids := rfl
@[simp] theorem State.modHost_events (s : State) (f : HostState → HostState) : (s.modHost f).events = s.events := rfl
@[simp] theorem State.modHost_queues (s : State) (f : HostState → HostState) : (s.modHost f).queues = s.queues := rfl
@[simp] theorem State.modHost_asids (s : State) (f : HostState → HostState) : (s.modHost f).asids = s.asids := rfl
@[simp] theorem State.modHost_flights (s : State) (f : HostState → HostState) : (s.modHost f).flights = s.flights := rfl
@[simp] theorem State.modHost_gens (s : State) (f : HostState → HostState) : (s.modHost f).gens = s.gens := rfl
@[simp] theorem State.modHost_jobs (s : State) (f : HostState → HostState) : (s.modHost f).jobs = s.jobs := rfl
@[simp] theorem State.modHost_tables (s : State) (f : HostState → HostState) : (s.modHost f).tables = s.tables := rfl
@[simp] theorem State.modHost_mem (s : State) (f : HostState → HostState) : (s.modHost f).mem = s.mem := rfl
@[simp] theorem State.modHost_links (s : State) (f : HostState → HostState) : (s.modHost f).links = s.links := rfl
@[simp] theorem State.modHost_energy (s : State) (f : HostState → HostState) : (s.modHost f).energy = s.energy := rfl
@[simp] theorem State.modHost_host (s : State) (f : HostState → HostState) : (s.modHost f).host = f s.host := rfl
@[simp] theorem State.modHost_records (s : State) (f : HostState → HostState) : (s.modHost f).records = s.records := rfl
@[simp] theorem State.modHost_recordsLost (s : State) (f : HostState → HostState) : (s.modHost f).recordsLost = s.recordsLost := rfl
@[simp] theorem State.modHost_ctl (s : State) (f : HostState → HostState) : (s.modHost f).ctl = s.ctl := rfl

@[simp] theorem State.modMem_time (s : State) (f : MemoryState → MemoryState) : (s.modMem f).time = s.time := rfl
@[simp] theorem State.modMem_threads (s : State) (f : MemoryState → MemoryState) : (s.modMem f).threads = s.threads := rfl
@[simp] theorem State.modMem_crews (s : State) (f : MemoryState → MemoryState) : (s.modMem f).crews = s.crews := rfl
@[simp] theorem State.modMem_bins (s : State) (f : MemoryState → MemoryState) : (s.modMem f).bins = s.bins := rfl
@[simp] theorem State.modMem_lanes (s : State) (f : MemoryState → MemoryState) : (s.modMem f).lanes = s.lanes := rfl
@[simp] theorem State.modMem_teams (s : State) (f : MemoryState → MemoryState) : (s.modMem f).teams = s.teams := rfl
@[simp] theorem State.modMem_clusters (s : State) (f : MemoryState → MemoryState) : (s.modMem f).clusters = s.clusters := rfl
@[simp] theorem State.modMem_grids (s : State) (f : MemoryState → MemoryState) : (s.modMem f).grids = s.grids := rfl
@[simp] theorem State.modMem_events (s : State) (f : MemoryState → MemoryState) : (s.modMem f).events = s.events := rfl
@[simp] theorem State.modMem_queues (s : State) (f : MemoryState → MemoryState) : (s.modMem f).queues = s.queues := rfl
@[simp] theorem State.modMem_asids (s : State) (f : MemoryState → MemoryState) : (s.modMem f).asids = s.asids := rfl
@[simp] theorem State.modMem_flights (s : State) (f : MemoryState → MemoryState) : (s.modMem f).flights = s.flights := rfl
@[simp] theorem State.modMem_gens (s : State) (f : MemoryState → MemoryState) : (s.modMem f).gens = s.gens := rfl
@[simp] theorem State.modMem_jobs (s : State) (f : MemoryState → MemoryState) : (s.modMem f).jobs = s.jobs := rfl
@[simp] theorem State.modMem_tables (s : State) (f : MemoryState → MemoryState) : (s.modMem f).tables = s.tables := rfl
@[simp] theorem State.modMem_mem (s : State) (f : MemoryState → MemoryState) : (s.modMem f).mem = f s.mem := rfl
@[simp] theorem State.modMem_links (s : State) (f : MemoryState → MemoryState) : (s.modMem f).links = s.links := rfl
@[simp] theorem State.modMem_energy (s : State) (f : MemoryState → MemoryState) : (s.modMem f).energy = s.energy := rfl
@[simp] theorem State.modMem_host (s : State) (f : MemoryState → MemoryState) : (s.modMem f).host = s.host := rfl
@[simp] theorem State.modMem_records (s : State) (f : MemoryState → MemoryState) : (s.modMem f).records = s.records := rfl
@[simp] theorem State.modMem_recordsLost (s : State) (f : MemoryState → MemoryState) : (s.modMem f).recordsLost = s.recordsLost := rfl
@[simp] theorem State.modMem_ctl (s : State) (f : MemoryState → MemoryState) : (s.modMem f).ctl = s.ctl := rfl

@[simp] theorem State.modLinks_time (s : State) (f : LinkState → LinkState) : (s.modLinks f).time = s.time := rfl
@[simp] theorem State.modLinks_threads (s : State) (f : LinkState → LinkState) : (s.modLinks f).threads = s.threads := rfl
@[simp] theorem State.modLinks_crews (s : State) (f : LinkState → LinkState) : (s.modLinks f).crews = s.crews := rfl
@[simp] theorem State.modLinks_bins (s : State) (f : LinkState → LinkState) : (s.modLinks f).bins = s.bins := rfl
@[simp] theorem State.modLinks_lanes (s : State) (f : LinkState → LinkState) : (s.modLinks f).lanes = s.lanes := rfl
@[simp] theorem State.modLinks_teams (s : State) (f : LinkState → LinkState) : (s.modLinks f).teams = s.teams := rfl
@[simp] theorem State.modLinks_clusters (s : State) (f : LinkState → LinkState) : (s.modLinks f).clusters = s.clusters := rfl
@[simp] theorem State.modLinks_grids (s : State) (f : LinkState → LinkState) : (s.modLinks f).grids = s.grids := rfl
@[simp] theorem State.modLinks_events (s : State) (f : LinkState → LinkState) : (s.modLinks f).events = s.events := rfl
@[simp] theorem State.modLinks_queues (s : State) (f : LinkState → LinkState) : (s.modLinks f).queues = s.queues := rfl
@[simp] theorem State.modLinks_asids (s : State) (f : LinkState → LinkState) : (s.modLinks f).asids = s.asids := rfl
@[simp] theorem State.modLinks_flights (s : State) (f : LinkState → LinkState) : (s.modLinks f).flights = s.flights := rfl
@[simp] theorem State.modLinks_gens (s : State) (f : LinkState → LinkState) : (s.modLinks f).gens = s.gens := rfl
@[simp] theorem State.modLinks_jobs (s : State) (f : LinkState → LinkState) : (s.modLinks f).jobs = s.jobs := rfl
@[simp] theorem State.modLinks_tables (s : State) (f : LinkState → LinkState) : (s.modLinks f).tables = s.tables := rfl
@[simp] theorem State.modLinks_mem (s : State) (f : LinkState → LinkState) : (s.modLinks f).mem = s.mem := rfl
@[simp] theorem State.modLinks_links (s : State) (f : LinkState → LinkState) : (s.modLinks f).links = f s.links := rfl
@[simp] theorem State.modLinks_energy (s : State) (f : LinkState → LinkState) : (s.modLinks f).energy = s.energy := rfl
@[simp] theorem State.modLinks_host (s : State) (f : LinkState → LinkState) : (s.modLinks f).host = s.host := rfl
@[simp] theorem State.modLinks_records (s : State) (f : LinkState → LinkState) : (s.modLinks f).records = s.records := rfl
@[simp] theorem State.modLinks_recordsLost (s : State) (f : LinkState → LinkState) : (s.modLinks f).recordsLost = s.recordsLost := rfl
@[simp] theorem State.modLinks_ctl (s : State) (f : LinkState → LinkState) : (s.modLinks f).ctl = s.ctl := rfl

@[simp] theorem State.modIssue_time (s : State) (f : IssueCtx → IssueCtx) : (s.modIssue f).time = s.time := rfl
@[simp] theorem State.modIssue_threads (s : State) (f : IssueCtx → IssueCtx) : (s.modIssue f).threads = s.threads := rfl
@[simp] theorem State.modIssue_crews (s : State) (f : IssueCtx → IssueCtx) : (s.modIssue f).crews = s.crews := rfl
@[simp] theorem State.modIssue_bins (s : State) (f : IssueCtx → IssueCtx) : (s.modIssue f).bins = s.bins := rfl
@[simp] theorem State.modIssue_lanes (s : State) (f : IssueCtx → IssueCtx) : (s.modIssue f).lanes = s.lanes := rfl
@[simp] theorem State.modIssue_teams (s : State) (f : IssueCtx → IssueCtx) : (s.modIssue f).teams = s.teams := rfl
@[simp] theorem State.modIssue_clusters (s : State) (f : IssueCtx → IssueCtx) : (s.modIssue f).clusters = s.clusters := rfl
@[simp] theorem State.modIssue_grids (s : State) (f : IssueCtx → IssueCtx) : (s.modIssue f).grids = s.grids := rfl
@[simp] theorem State.modIssue_events (s : State) (f : IssueCtx → IssueCtx) : (s.modIssue f).events = s.events := rfl
@[simp] theorem State.modIssue_queues (s : State) (f : IssueCtx → IssueCtx) : (s.modIssue f).queues = s.queues := rfl
@[simp] theorem State.modIssue_asids (s : State) (f : IssueCtx → IssueCtx) : (s.modIssue f).asids = s.asids := rfl
@[simp] theorem State.modIssue_flights (s : State) (f : IssueCtx → IssueCtx) : (s.modIssue f).flights = s.flights := rfl
@[simp] theorem State.modIssue_gens (s : State) (f : IssueCtx → IssueCtx) : (s.modIssue f).gens = s.gens := rfl
@[simp] theorem State.modIssue_jobs (s : State) (f : IssueCtx → IssueCtx) : (s.modIssue f).jobs = s.jobs := rfl
@[simp] theorem State.modIssue_tables (s : State) (f : IssueCtx → IssueCtx) : (s.modIssue f).tables = s.tables := rfl
@[simp] theorem State.modIssue_mem (s : State) (f : IssueCtx → IssueCtx) : (s.modIssue f).mem = s.mem := rfl
@[simp] theorem State.modIssue_links (s : State) (f : IssueCtx → IssueCtx) : (s.modIssue f).links = s.links := rfl
@[simp] theorem State.modIssue_energy (s : State) (f : IssueCtx → IssueCtx) : (s.modIssue f).energy = s.energy := rfl
@[simp] theorem State.modIssue_host (s : State) (f : IssueCtx → IssueCtx) : (s.modIssue f).host = s.host := rfl
@[simp] theorem State.modIssue_records (s : State) (f : IssueCtx → IssueCtx) : (s.modIssue f).records = s.records := rfl
@[simp] theorem State.modIssue_recordsLost (s : State) (f : IssueCtx → IssueCtx) : (s.modIssue f).recordsLost = s.recordsLost := rfl
@[simp] theorem State.modIssue_issue (s : State) (f : IssueCtx → IssueCtx) : (s.modIssue f).ctl.issue = s.ctl.issue.map f := rfl

@[simp] theorem State.modQueue_time (s : State) (q : Nat) (f : Queue → Queue) : (s.modQueue q f).time = s.time := rfl
@[simp] theorem State.modQueue_threads (s : State) (q : Nat) (f : Queue → Queue) : (s.modQueue q f).threads = s.threads := rfl
@[simp] theorem State.modQueue_crews (s : State) (q : Nat) (f : Queue → Queue) : (s.modQueue q f).crews = s.crews := rfl
@[simp] theorem State.modQueue_bins (s : State) (q : Nat) (f : Queue → Queue) : (s.modQueue q f).bins = s.bins := rfl
@[simp] theorem State.modQueue_lanes (s : State) (q : Nat) (f : Queue → Queue) : (s.modQueue q f).lanes = s.lanes := rfl
@[simp] theorem State.modQueue_teams (s : State) (q : Nat) (f : Queue → Queue) : (s.modQueue q f).teams = s.teams := rfl
@[simp] theorem State.modQueue_clusters (s : State) (q : Nat) (f : Queue → Queue) : (s.modQueue q f).clusters = s.clusters := rfl
@[simp] theorem State.modQueue_grids (s : State) (q : Nat) (f : Queue → Queue) : (s.modQueue q f).grids = s.grids := rfl
@[simp] theorem State.modQueue_events (s : State) (q : Nat) (f : Queue → Queue) : (s.modQueue q f).events = s.events := rfl
@[simp] theorem State.modQueue_queues (s : State) (q : Nat) (f : Queue → Queue) : (s.modQueue q f).queues = modAt f q s.queues := rfl
@[simp] theorem State.modQueue_asids (s : State) (q : Nat) (f : Queue → Queue) : (s.modQueue q f).asids = s.asids := rfl
@[simp] theorem State.modQueue_flights (s : State) (q : Nat) (f : Queue → Queue) : (s.modQueue q f).flights = s.flights := rfl
@[simp] theorem State.modQueue_gens (s : State) (q : Nat) (f : Queue → Queue) : (s.modQueue q f).gens = s.gens := rfl
@[simp] theorem State.modQueue_jobs (s : State) (q : Nat) (f : Queue → Queue) : (s.modQueue q f).jobs = s.jobs := rfl
@[simp] theorem State.modQueue_tables (s : State) (q : Nat) (f : Queue → Queue) : (s.modQueue q f).tables = s.tables := rfl
@[simp] theorem State.modQueue_mem (s : State) (q : Nat) (f : Queue → Queue) : (s.modQueue q f).mem = s.mem := rfl
@[simp] theorem State.modQueue_links (s : State) (q : Nat) (f : Queue → Queue) : (s.modQueue q f).links = s.links := rfl
@[simp] theorem State.modQueue_energy (s : State) (q : Nat) (f : Queue → Queue) : (s.modQueue q f).energy = s.energy := rfl
@[simp] theorem State.modQueue_host (s : State) (q : Nat) (f : Queue → Queue) : (s.modQueue q f).host = s.host := rfl
@[simp] theorem State.modQueue_records (s : State) (q : Nat) (f : Queue → Queue) : (s.modQueue q f).records = s.records := rfl
@[simp] theorem State.modQueue_recordsLost (s : State) (q : Nat) (f : Queue → Queue) : (s.modQueue q f).recordsLost = s.recordsLost := rfl
@[simp] theorem State.modQueue_ctl (s : State) (q : Nat) (f : Queue → Queue) : (s.modQueue q f).ctl = s.ctl := rfl

@[simp] theorem State.addBeats_threads (s : State) (die n : Nat) : (s.addBeats die n).threads = s.threads := rfl
@[simp] theorem State.addBeats_crews (s : State) (die n : Nat) : (s.addBeats die n).crews = s.crews := rfl
@[simp] theorem State.addBeats_bins (s : State) (die n : Nat) : (s.addBeats die n).bins = s.bins := rfl
@[simp] theorem State.addBeats_lanes (s : State) (die n : Nat) : (s.addBeats die n).lanes = s.lanes := rfl
@[simp] theorem State.addBeats_teams (s : State) (die n : Nat) : (s.addBeats die n).teams = s.teams := rfl
@[simp] theorem State.addBeats_clusters (s : State) (die n : Nat) : (s.addBeats die n).clusters = s.clusters := rfl
@[simp] theorem State.addBeats_grids (s : State) (die n : Nat) : (s.addBeats die n).grids = s.grids := rfl
@[simp] theorem State.addBeats_events (s : State) (die n : Nat) : (s.addBeats die n).events = s.events := rfl
@[simp] theorem State.addBeats_queues (s : State) (die n : Nat) : (s.addBeats die n).queues = s.queues := rfl
@[simp] theorem State.addBeats_asids (s : State) (die n : Nat) : (s.addBeats die n).asids = s.asids := rfl
@[simp] theorem State.addBeats_flights (s : State) (die n : Nat) : (s.addBeats die n).flights = s.flights := rfl
@[simp] theorem State.addBeats_gens (s : State) (die n : Nat) : (s.addBeats die n).gens = s.gens := rfl
@[simp] theorem State.addBeats_jobs (s : State) (die n : Nat) : (s.addBeats die n).jobs = s.jobs := rfl
@[simp] theorem State.addBeats_tables (s : State) (die n : Nat) : (s.addBeats die n).tables = s.tables := rfl
@[simp] theorem State.addBeats_mem (s : State) (die n : Nat) : (s.addBeats die n).mem = s.mem := rfl
@[simp] theorem State.addBeats_links (s : State) (die n : Nat) : (s.addBeats die n).links = s.links := rfl
@[simp] theorem State.addBeats_energy (s : State) (die n : Nat) : (s.addBeats die n).energy = s.energy := rfl
@[simp] theorem State.addBeats_host (s : State) (die n : Nat) : (s.addBeats die n).host = s.host := rfl
@[simp] theorem State.addBeats_records (s : State) (die n : Nat) : (s.addBeats die n).records = s.records := rfl
@[simp] theorem State.addBeats_recordsLost (s : State) (die n : Nat) : (s.addBeats die n).recordsLost = s.recordsLost := rfl
@[simp] theorem State.addBeats_ctl (s : State) (die n : Nat) : (s.addBeats die n).ctl = s.ctl := rfl

@[simp] theorem State.addGrid_time (s : State) (g : Grid) : (s.addGrid g).time = s.time := rfl
@[simp] theorem State.addGrid_threads (s : State) (g : Grid) : (s.addGrid g).threads = s.threads := rfl
@[simp] theorem State.addGrid_crews (s : State) (g : Grid) : (s.addGrid g).crews = s.crews := rfl
@[simp] theorem State.addGrid_bins (s : State) (g : Grid) : (s.addGrid g).bins = s.bins := rfl
@[simp] theorem State.addGrid_lanes (s : State) (g : Grid) : (s.addGrid g).lanes = s.lanes := rfl
@[simp] theorem State.addGrid_teams (s : State) (g : Grid) : (s.addGrid g).teams = s.teams := rfl
@[simp] theorem State.addGrid_clusters (s : State) (g : Grid) : (s.addGrid g).clusters = s.clusters := rfl
@[simp] theorem State.addGrid_grids (s : State) (g : Grid) : (s.addGrid g).grids = s.grids ++ [g] := rfl
@[simp] theorem State.addGrid_events (s : State) (g : Grid) : (s.addGrid g).events = s.events := rfl
@[simp] theorem State.addGrid_queues (s : State) (g : Grid) : (s.addGrid g).queues = s.queues := rfl
@[simp] theorem State.addGrid_asids (s : State) (g : Grid) : (s.addGrid g).asids = s.asids := rfl
@[simp] theorem State.addGrid_flights (s : State) (g : Grid) : (s.addGrid g).flights = s.flights := rfl
@[simp] theorem State.addGrid_gens (s : State) (g : Grid) : (s.addGrid g).gens = s.gens := rfl
@[simp] theorem State.addGrid_jobs (s : State) (g : Grid) : (s.addGrid g).jobs = s.jobs := rfl
@[simp] theorem State.addGrid_tables (s : State) (g : Grid) : (s.addGrid g).tables = s.tables := rfl
@[simp] theorem State.addGrid_mem (s : State) (g : Grid) : (s.addGrid g).mem = s.mem := rfl
@[simp] theorem State.addGrid_links (s : State) (g : Grid) : (s.addGrid g).links = s.links := rfl
@[simp] theorem State.addGrid_energy (s : State) (g : Grid) : (s.addGrid g).energy = s.energy := rfl
@[simp] theorem State.addGrid_host (s : State) (g : Grid) : (s.addGrid g).host = s.host := rfl
@[simp] theorem State.addGrid_records (s : State) (g : Grid) : (s.addGrid g).records = s.records := rfl
@[simp] theorem State.addGrid_recordsLost (s : State) (g : Grid) : (s.addGrid g).recordsLost = s.recordsLost := rfl
@[simp] theorem State.addGrid_ctl (s : State) (g : Grid) : (s.addGrid g).ctl = s.ctl := rfl

end Sys2Proof.Machine
end

