-- ==== Sys2Proof/Laws/Records.lean ====
section
/-! SUPPORT. Records found and changed by number: what `modThread` and its companions do to a lookup, and what a change made thread by
thread comes to. -/
namespace Sys2Proof.Machine

theorem find?_modFirst {α : Type} (key : α → Nat) (f : α → α) (hf : ∀ x, key (f x) = key x) (t u : Nat) (l : List α) :
    (modFirst (fun x => key x == t) f l).find? (fun x => key x == u) =
      if u = t then (l.find? (fun x => key x == t)).map f else l.find? (fun x => key x == u) := by
  induction l with
  | nil => simp [modFirst]
  | cons x xs ih =>
    simp only [modFirst]
    by_cases hx : key x = t
    · by_cases hu : u = t
      · subst hu; simp [hx, hf]
      · have : ¬ key x = u := fun h => hu (h ▸ hx)
        have h2 : ¬ t = u := fun h => hu h.symm
        simp [hx, hf, hu, h2]
    · by_cases hu : u = t
      · subst hu; simp [hx, ih]
      · simp only [if_neg hu] at ih ⊢
        simp [hx, List.find?_cons, ih]

/-- A lookup after one thread has changed. -/
theorem State.thread?_modThread (s : State) (t u : Nat) (f : Thread → Thread) (hf : ∀ x, (f x).id = x.id) :
    (s.modThread t f).thread? u = if u = t then (s.thread? t).map f else s.thread? u :=
  find?_modFirst Thread.id f hf t u s.threads

theorem State.crew?_modCrew (s : State) (t u : Nat) (f : Crew → Crew) (hf : ∀ x, (f x).id = x.id) :
    (s.modCrew t f).crew? u = if u = t then (s.crew? t).map f else s.crew? u :=
  find?_modFirst Crew.id f hf t u s.crews

theorem State.team?_modTeam (s : State) (t u : Nat) (f : Team → Team) (hf : ∀ x, (f x).id = x.id) :
    (s.modTeam t f).team? u = if u = t then (s.team? t).map f else s.team? u :=
  find?_modFirst Team.id f hf t u s.teams

theorem State.grid?_modGrid (s : State) (t u : Nat) (f : Grid → Grid) (hf : ∀ x, (f x).event = x.event) :
    (s.modGrid t f).grid? u = if u = t then (s.grid? t).map f else s.grid? u :=
  find?_modFirst Grid.event f hf t u s.grids

theorem State.flight?_modFlight (s : State) (t u : Nat) (f : Flight → Flight) (hf : ∀ x, (f x).id = x.id) :
    (s.modFlight t f).flight? u = if u = t then (s.flight? t).map f else s.flight? u :=
  find?_modFirst Flight.id f hf t u s.flights

@[simp] theorem State.thread?_modCrew (s : State) (c u : Nat) (f : Crew → Crew) : (s.modCrew c f).thread? u = s.thread? u := rfl
@[simp] theorem State.thread?_modTeam (s : State) (c u : Nat) (f : Team → Team) : (s.modTeam c f).thread? u = s.thread? u := rfl
@[simp] theorem State.thread?_modGrid (s : State) (c u : Nat) (f : Grid → Grid) : (s.modGrid c f).thread? u = s.thread? u := rfl
@[simp] theorem State.thread?_modCtl (s : State) (u : Nat) (f : Control → Control) : (s.modCtl f).thread? u = s.thread? u := rfl
@[simp] theorem State.thread?_modMem (s : State) (u : Nat) (f : MemoryState → MemoryState) : (s.modMem f).thread? u = s.thread? u := rfl
@[simp] theorem State.thread?_modLinks (s : State) (u : Nat) (f : LinkState → LinkState) : (s.modLinks f).thread? u = s.thread? u := rfl
@[simp] theorem State.thread?_modHost (s : State) (u : Nat) (f : HostState → HostState) : (s.modHost f).thread? u = s.thread? u := rfl
@[simp] theorem State.thread?_modIssue (s : State) (u : Nat) (f : IssueCtx → IssueCtx) : (s.modIssue f).thread? u = s.thread? u := rfl
@[simp] theorem State.thread?_dropFlight (s : State) (k u : Nat) : (s.dropFlight k).thread? u = s.thread? u := rfl
@[simp] theorem State.crew?_modThread (s : State) (t u : Nat) (f : Thread → Thread) : (s.modThread t f).crew? u = s.crew? u := rfl
@[simp] theorem State.team?_modThread (s : State) (t u : Nat) (f : Thread → Thread) : (s.modThread t f).team? u = s.team? u := rfl
@[simp] theorem State.grid?_modThread (s : State) (t u : Nat) (f : Thread → Thread) : (s.modThread t f).grid? u = s.grid? u := rfl
@[simp] theorem State.flight?_modThread (s : State) (t u : Nat) (f : Thread → Thread) : (s.modThread t f).flight? u = s.flight? u := rfl

/-- Nothing but the threads changes. -/
theorem State.modThreads_only (s : State) (ps : List Thread) (f : Thread → Thread → Thread) :
    s.modThreads ps f = { s with threads := (s.modThreads ps f).threads } := by
  induction ps generalizing s with
  | nil => rfl
  | cons t ts ih => exact ih (s.modThread t.id (f t))

/-- A thread that is not in the list is as it was. -/
theorem State.thread?_modThreads_other (s : State) (ps : List Thread) (f : Thread → Thread → Thread) (hf : ∀ t x, (f t x).id = x.id)
    (u : Nat) (hu : u ∉ ps.map (·.id)) : (s.modThreads ps f).thread? u = s.thread? u := by
  induction ps generalizing s with
  | nil => rfl
  | cons t ts ih =>
    simp only [List.map_cons, List.mem_cons, not_or] at hu
    have := ih (s.modThread t.id (f t)) hu.2
    rw [show (s.modThreads (t :: ts) f) = (s.modThread t.id (f t)).modThreads ts f from rfl, this,
      State.thread?_modThread s t.id u (f t) (hf t), if_neg hu.1]

/-- Each thread of a list without repeats is changed once. -/
theorem State.thread?_modThreads (s : State) (ps : List Thread) (f : Thread → Thread → Thread) (hf : ∀ t x, (f t x).id = x.id)
    (hd : (ps.map (·.id)).Nodup) (t : Thread) (ht : t ∈ ps) : (s.modThreads ps f).thread? t.id = (s.thread? t.id).map (f t) := by
  induction ps generalizing s with
  | nil => simp at ht
  | cons p ts ih =>
    simp only [List.map_cons, List.nodup_cons] at hd
    rw [show (s.modThreads (p :: ts) f) = (s.modThread p.id (f p)).modThreads ts f from rfl]
    rcases List.mem_cons.mp ht with rfl | hin
    · rw [State.thread?_modThreads_other _ ts f hf _ hd.1, State.thread?_modThread s _ _ _ (hf t), if_pos rfl]
    · have hne : t.id ≠ p.id := fun h => hd.1 (h ▸ List.mem_map_of_mem hin)
      rw [ih _ hd.2 hin, State.thread?_modThread s _ _ _ (hf p), if_neg hne]

end Sys2Proof.Machine
end

