-- ==== Sys2Proof/Laws/Coherence.lean ====
section
/-! SUPPORT. What giving up lines, writing them back and taking fills' rights leaves of the state. -/
namespace Sys2Proof.Machine

/-- Only memory differs. -/
def OnlyMem (s s' : State) : Prop := s' = { s with mem := s'.mem }

theorem OnlyMem.trans {a b c : State} (h : OnlyMem a b) (k : OnlyMem b c) : OnlyMem a c := by
  unfold OnlyMem at *; rw [k, h]

theorem State.writeBack_only (s : State) (l : L2Line) :
    OnlyMem s (s.writeBack l) ∧ (s.writeBack l).mem.l1 = s.mem.l1 ∧ (s.writeBack l).mem.l2 = s.mem.l2 := ⟨rfl, rfl, rfl⟩

theorem State.writeBacks_only (ls : List L2Line) : ∀ s : State,
    OnlyMem s (ls.foldl State.writeBack s) ∧ (ls.foldl State.writeBack s).mem.l1 = s.mem.l1 ∧ (ls.foldl State.writeBack s).mem.l2 = s.mem.l2 := by
  induction ls with
  | nil => exact fun s => ⟨rfl, rfl, rfl⟩
  | cons l ls ih =>
    intro s
    obtain ⟨h, h1, h2⟩ := ih (s.writeBack l)
    obtain ⟨k, k1, k2⟩ := s.writeBack_only l
    exact ⟨k.trans h, h1.trans k1, h2.trans k2⟩

/-- Lines given up: only memory differs, exactly they are gone from the L2s, and the L1s hold what an L2 holds (R256, R259). -/
theorem State.giveUp_spec (s : State) (p : L2Line → Bool) :
    OnlyMem s (s.giveUp p) ∧ (s.giveUp p).mem.l2 = s.mem.l2.filter (fun l => !p l)
    ∧ (s.giveUp p).mem.l1 = s.mem.l1.filter (fun x => (s.mem.l2.filter (fun l => !p l)).any (·.isAt x.place.die x.asid x.slot x.line)) := by
  obtain ⟨h, h1, h2⟩ := State.writeBacks_only (s.mem.l2.filter (fun l => p l && l.dirty)) s
  refine ⟨OnlyMem.trans h ?_, ?_, ?_⟩
  · simp [OnlyMem, State.giveUp, State.inclusive, State.modMem]
  · simp [State.giveUp, State.inclusive, State.modMem, h2]
  · simp [State.giveUp, State.inclusive, State.modMem, h1, h2]

/-- Fills that lose their right: only words in flight differ. -/
theorem State.unholdFills_only (s : State) (p : Grant → Bool) : s.unholdFills p = { s with flights := (s.unholdFills p).flights } := rfl

end Sys2Proof.Machine
end

