-- ==== Sys2Proof/Laws/Bits.lean ====
section
/-! SUPPORT. Fields and bits as arithmetic, an element of a list changed, and what recording a fault leaves. -/
namespace Sys2Proof.Machine

theorem fld_eq (v lo n : Nat) : fld v lo n = v / 2 ^ lo % 2 ^ n := by simp [fld, Nat.shiftRight_eq_div_pow]

theorem bit_eq (v k : Nat) : bit v k = v.testBit k := by
  simp [bit, fld, Nat.testBit, Nat.and_comm, Nat.and_one_is_mod]

theorem bit_getLsbD {w : Nat} (v : BitVec w) (k : Nat) : bit v.toNat k = v.getLsbD k := by simp [bit_eq, BitVec.getLsbD]

/-- Element k after element n has changed. -/
theorem modAt_getElem? {α : Type} (f : α → α) : ∀ (n k : Nat) (l : List α), (modAt f n l)[k]? = if n = k then l[k]?.map f else l[k]?
  | _, _, [] => by simp [modAt]
  | 0, 0, y :: ys => by simp [modAt]
  | 0, k + 1, y :: ys => by simp [modAt]
  | n + 1, 0, y :: ys => by simp [modAt]
  | n + 1, k + 1, y :: ys => by simp [modAt, modAt_getElem? f n k ys]

theorem modAt_eq_set {α : Type} (f : α → α) : ∀ (n : Nat) (l : List α) (x : α), l[n]? = some x → modAt f n l = l.set n (f x)
  | _, [], _, h => by simp at h
  | 0, y :: ys, x, h => by simp at h; simp [modAt, h]
  | n + 1, y :: ys, x, h => by simp at h; simp [modAt, modAt_eq_set f n ys x h]

@[simp] theorem modAt_length {α : Type} (f : α → α) : ∀ (n : Nat) (l : List α), (modAt f n l).length = l.length
  | _, [] => by simp [modAt]
  | 0, y :: ys => by simp [modAt]
  | n + 1, y :: ys => by simp [modAt, modAt_length f n ys]

/-- A fault record touches the records, the count of those lost and the host's vectors, nothing else (R311). -/
theorem State.writeRecord_only (s : State) (d : Nat) (r : RecordFields) :
    s.writeRecord d r = { s with records := (s.writeRecord d r).records, recordsLost := (s.writeRecord d r).recordsLost
                                 host := (s.writeRecord d r).host } := by
  unfold State.writeRecord State.putRecord
  split <;> rfl

end Sys2Proof.Machine
end

