-- ==== Sys2Proof/Laws/Issue.lean ====
section
/-! SUPPORT. The word at issue: what `issueWord` answers, said once. -/
namespace Sys2Proof.Machine

/-- Every word answers with a next state. -/
theorem issueWord_next (s : State) (p : Pipe) (v : IssueCtx → Thread → Verdict) (e : IssueCtx → List Thread → State → State) :
    ∃ s', issueWord s p v e = .next s' := by
  unfold issueWord
  split
  · exact ⟨_, rfl⟩
  · dsimp only
    repeat' split
    all_goals exact ⟨_, rfl⟩

/-- Where every participant's checks pass, the word has its effect (R46). -/
theorem issueWord_runs {s : State} {i : IssueCtx} (p : Pipe) {v : IssueCtx → Thread → Verdict} (e : IssueCtx → List Thread → State → State)
    (hi : s.ctl.issue = some i) (hv : ∀ t ∈ i.parts, v i t = .pass) : issueWord s p v e = .next (e i i.parts s) := by
  have h1 : ((i.parts.map (fun t => (t.id, v i t))).filter (fun x => x.2 == Verdict.late)) = [] := by
    simp only [List.filter_eq_nil_iff, List.mem_map]
    rintro x ⟨t, ht, rfl⟩
    simp [hv t ht]
  have h2 : (i.parts.map (fun t => (t.id, v i t))).any (fun x => x.2 == Verdict.hold) = false := by
    simp only [List.any_eq_false, List.mem_map]
    rintro x ⟨t, ht, rfl⟩
    simp [hv t ht]
  unfold issueWord
  rw [hi]
  dsimp only
  split
  · rfl
  · simp only [h1, h2]
    rw [if_neg (by simp), if_neg (by simp), if_pos]
    simp only [List.isEmpty_iff, List.filterMap_eq_nil_iff, List.mem_map]
    rintro x ⟨t, ht, rfl⟩
    simp [hv t ht]

/-- The effects of a group whose checks have been made follow at once (R46). -/
theorem issueWord_checked {s : State} {i : IssueCtx} (p : Pipe) (v : IssueCtx → Thread → Verdict) (e : IssueCtx → List Thread → State → State)
    (hi : s.ctl.issue = some i) (hc : i.checked = true) : issueWord s p v e = .next (e i i.parts s) := by
  unfold issueWord
  rw [hi]
  simp [hc]

/-- A uniform word answers with a next state. -/
theorem issueUniform_next (s : State) (p : Pipe) (v : IssueCtx → Thread → Verdict) (e : IssueCtx → Thread → State → State) :
    ∃ s', issueUniform s p v e = .next s' := issueWord_next _ _ _ _

/-- A uniform word whose first active member passes its checks has one effect, with that member (R108). -/
theorem issueUniform_runs {s : State} {i : IssueCtx} {t : Thread} {rest : List Thread} (p : Pipe) {v : IssueCtx → Thread → Verdict}
    (e : IssueCtx → Thread → State → State) (hi : s.ctl.issue = some i) (ht : i.active.filterMap i.src = t :: rest)
    (hv : v i t = .pass) : issueUniform s p v e = .next (e i t s) := by
  unfold issueUniform
  rw [issueWord_runs (hi := hi)]
  · simp [ht]
  · intro u _; simp [ht, hv]

@[simp] theorem Verdict.pass_andThen (b : Verdict) : Verdict.pass.andThen b = b := rfl

/-- Two checks pass together exactly where each does. -/
theorem Verdict.andThen_pass (a b : Verdict) : a.andThen b = .pass ↔ a = .pass ∧ b = .pass := by
  cases a <;> simp [Verdict.andThen]

theorem Verdict.require_pass (ok : Bool) (c x : Nat) : Verdict.require ok c x = .pass ↔ ok = true := by
  cases ok <;> simp [Verdict.require]

theorem Verdict.await_pass (ok : Bool) : Verdict.await ok = .pass ↔ ok = true := by
  cases ok <;> simp [Verdict.await]

end Sys2Proof.Machine
end

