-- ==== Sys2Proof/Laws/Lane.lean ====
section
/-! SUPPORT. Operand checks and element-wise words: free operands pass their checks; an element-wise word with free operands has its
effect; what one step of it does. -/
namespace Sys2Proof.Machine

theorem minNat?_nil : minNat? [] = none := rfl

theorem lowestBeyond_none {size : Nat} {rs : List (Nat × Nat)} (h : ∀ r ∈ rs, r.1 + r.2 ≤ size) : lowestBeyond size rs = none := by
  have : rs.filter (fun r => decide (size < r.1 + r.2)) = [] := by
    simp only [List.filter_eq_nil_iff, decide_eq_true_eq]
    intro r hr; have := h r hr; omega
  simp [lowestBeyond, this, minNat?_nil]

theorem rangeVerdict_pass {t : Thread} {rs : List (Nat × Nat)} (h : ∀ r ∈ rs, r.1 + r.2 ≤ t.winSize) : rangeVerdict t rs = .pass := by
  simp [rangeVerdict, lowestBeyond_none h]

theorem pendingVerdict_pass {t : Thread} {rs : List (Nat × Nat)} (h : ∀ r ∈ rs, Untouched r (t.pending.map (·.1))) :
    pendingVerdict t rs = .pass := by
  unfold pendingVerdict
  rw [Verdict.await_pass]
  simp only [Bool.not_eq_true', List.any_eq_false, Bool.and_eq_true, decide_eq_true_eq, not_exists, List.any_eq_true]
  intro p hp
  rintro r ⟨hr, h1⟩
  exact h r hr p.1 (List.mem_map_of_mem hp) h1

theorem poisonVerdict_pass {t : Thread} {q : QCopy} {win qs : List (Nat × Nat)} (hw : ∀ r ∈ win, Untouched r t.winPoison)
    (hq : ∀ r ∈ qs, Untouched r q.poison) : poisonVerdict t q win qs = .pass := by
  have key : ∀ (p : List Nat) (rs : List (Nat × Nat)), (∀ r ∈ rs, Untouched r p) →
      p.filter (fun x => rs.any (fun r => decide (r.1 ≤ x) && decide (x < r.1 + r.2))) = [] := by
    intro p rs h
    simp only [List.filter_eq_nil_iff, List.any_eq_true, Bool.and_eq_true, decide_eq_true_eq, not_exists]
    rintro x hx r ⟨hr, h1⟩
    exact h r hr x hx h1
  simp only [poisonVerdict, key _ _ hw, key _ _ hq, minNat?_nil]

/-- Free operands of a word without a block pass their checks. -/
theorem operandVerdict_pass {t : Thread} {q : QCopy} {reads writes : List Operand}
    (h : OperandsFree t q reads writes [(0, 0)]) : operandVerdict q t reads writes = .pass := by
  simp only [operandVerdict, Verdict.andThen_pass]
  refine ⟨⟨pendingVerdict_pass fun r hr => (h.1 r hr).2, rangeVerdict_pass fun r hr => (h.1 r hr).1⟩, poisonVerdict_pass h.2.1 ?_⟩
  intro r hr
  simp only [List.mem_map, List.mem_filter] at hr
  obtain ⟨o, ho, rfl⟩ := hr
  exact h.2.2 o ho.1 ho.2

/-- Free operands pass the checks of a word that reads parts of them. -/
theorem fieldVerdict_pass {t : Thread} {q : QCopy} {named : List Operand} {reads : List (Operand × Nat × Nat)}
    (h : FieldsFree t q named reads) : fieldVerdict q t named reads = .pass := by
  simp only [fieldVerdict, Verdict.andThen_pass]
  refine ⟨⟨pendingVerdict_pass fun r hr => (h.1 r hr).2, rangeVerdict_pass fun r hr => (h.1 r hr).1⟩, poisonVerdict_pass ?_ ?_⟩
  · intro r hm
    simp only [List.mem_map, List.mem_filter, Bool.not_eq_true'] at hm
    obtain ⟨x, ⟨hx, hq⟩, rfl⟩ := hm
    exact h.2.1 x hx hq
  · intro r hm
    simp only [List.mem_map, List.mem_filter] at hm
    obtain ⟨x, ⟨hx, hq⟩, rfl⟩ := hm
    exact h.2.2 x hx hq

theorem partialVerdict_pass {t : Thread} {q : QCopy} {named : List Operand} {reads : List (Operand × Nat)}
    (h : FieldsFree t q named (reads.map (fun r => (r.1, 0, r.2)))) : partialVerdict q t named reads = .pass := fieldVerdict_pass h

/-! ### Steps of a block -/

/-- What the steps of a word leave alone: the views; poison only goes away. -/
structure LaneState.From (t : Thread) (q : QCopy) (l : LaneState) : Prop where
  views : l.t.views = t.views
  size : l.t.winSize = t.winSize
  win : ∀ p ∈ l.t.winPoison, p ∈ t.winPoison
  qs : ∀ p ∈ l.q.poison, p ∈ q.poison

theorem LaneState.From.put {t : Thread} {q : QCopy} {l : LaneState} (h : l.From t q) (w : LaneWrite) : (l.put w).From t q := by
  cases w with
  | win off bs =>
    refine ⟨h.views, h.size, ?_, h.qs⟩
    intro p hp
    simp only [LaneState.put, Thread.write, List.mem_filter] at hp
    exact h.win p hp.1
  | q off bs =>
    refine ⟨h.views, h.size, h.win, ?_⟩
    intro p hp
    simp only [LaneState.put, QCopy.write, List.mem_filter] at hp
    exact h.qs p hp.1
  | pred p b => exact ⟨h.views, h.size, h.win, h.qs⟩

theorem LaneState.From.puts {t : Thread} {q : QCopy} {l : LaneState} (h : l.From t q) (ws : List LaneWrite) :
    (ws.foldl LaneState.put l).From t q := by
  induction ws generalizing l with
  | nil => exact h
  | cons w ws ih => exact ih (h.put w)

@[simp] theorem LaneState.meets_t (l : LaneState) (o : Option Operand) (k i j : Nat) : (l.meets o k i j).t = l.t := by
  cases o <;> simp only [LaneState.meets]; split <;> rfl

@[simp] theorem LaneState.meets_q (l : LaneState) (o : Option Operand) (k i j : Nat) : (l.meets o k i j).q = l.q := by
  cases o <;> simp only [LaneState.meets]; split <;> rfl

/-- Noting what an operand reads leaves the registers as they are. -/
theorem LaneState.From.meets {t : Thread} {q : QCopy} {l : LaneState} (h : l.From t q) (o : Option Operand) (k i j : Nat) :
    (l.meets o k i j).From t q := ⟨by simpa using h.views, by simpa using h.size, by simpa using h.win, by simpa using h.qs⟩

@[simp] theorem LaneState.put_badQ (l : LaneState) (w : LaneWrite) : (l.put w).badQ = l.badQ := by cases w <;> rfl

theorem LaneState.puts_badQ (l : LaneState) (ws : List LaneWrite) : (ws.foldl LaneState.put l).badQ = l.badQ := by
  induction ws generalizing l with
  | nil => rfl
  | cons w ws ih => simp [ih]

@[simp] theorem LaneState.put_bad (l : LaneState) (w : LaneWrite) : (l.put w).bad = l.bad := by cases w <;> rfl

theorem LaneState.puts_bad (l : LaneState) (ws : List LaneWrite) : (ws.foldl LaneState.put l).bad = l.bad := by
  induction ws generalizing l with
  | nil => rfl
  | cons w ws ih => simp [ih]

theorem LaneWord.step_from {w : LaneWord} {t : Thread} {q : QCopy} {l : LaneState} (h : l.From t q) (ij : Nat × Nat) :
    (w.step l ij).From t q := by
  unfold LaneWord.step
  dsimp only
  generalize hl : ((l.meets _ _ _ _).meets _ _ _ _).meets _ _ _ _ = m
  have h : m.From t q := hl ▸ ((h.meets _ _ _ _).meets _ _ _ _).meets _ _ _ _
  split <;> split
  · exact (LaneState.From.puts (by exact ⟨h.views, h.size, h.win, h.qs⟩) _).put _
  · exact LaneState.From.put (by exact ⟨h.views, h.size, h.win, h.qs⟩) _
  · exact LaneState.From.puts (by exact ⟨h.views, h.size, h.win, h.qs⟩) _
  · exact ⟨h.views, h.size, h.win, h.qs⟩

/-- No poisoned byte met: no cause. -/
theorem LaneState.verdict_pass {l : LaneState} (h : l.bad = [] ∧ l.badQ = []) : l.verdict = .pass := by simp [LaneState.verdict, h.1, h.2, minNat?_nil]

/-- Free operands of an element-wise word pass its checks. -/
theorem LaneWord.verdict_pass {w : LaneWord} {x : Pfx} {t : Thread} {q : QCopy} (h : w.FreeIn x t q) : w.verdict x q t = .pass := by
  simp only [LaneWord.verdict, Verdict.andThen_pass, LaneState.verdict_pass h.2, and_true]
  exact ⟨pendingVerdict_pass fun r hr => (h.1 r hr).2, rangeVerdict_pass fun r hr => (h.1 r hr).1⟩

theorem State.pfx_of {s : State} {i : IssueCtx} (h : s.ctl.issue = some i) : s.pfx = i.pfx := by simp [State.pfx, h]

/-- An element-wise word with free operands completes. -/
theorem runLaneWord_completes (p : Pipe) (w : Pfx → LaneWord) : LaneCompletes (fun s => runLaneWord s p (w s.pfx)) w := by
  intro s i hi hf
  dsimp only
  rw [State.pfx_of hi]
  unfold runLaneWord laneAfter
  rw [State.pfx_of hi]
  split
  · unfold runLaneUniform issueUniform
    rw [issueWord_runs (hi := hi)]
    · cases i.active.filterMap i.src <;> rfl
    · intro t _
      have := hf.2
      revert this
      cases i.active.filterMap i.src with
      | nil => intro _; rfl
      | cons u rest => intro h; exact LaneWord.verdict_pass (h u rfl)
  · unfold runLane
    rw [issueWord_runs (hi := hi)]
    · rfl
    · intro t ht; exact LaneWord.verdict_pass (hf.1 t ht)

end Sys2Proof.Machine
end

