-- ==== Sys2Proof/Laws/Mem.lean ====
section
/-! SUPPORT. Byte memory: the canonical form is kept by every operation, a read after a write gives what was written, a write leaves
every other byte alone. -/
namespace Sys2Proof.Machine

theorem Mem.wfFrom_mono {lo lo' : Nat} {m : Mem} (h : Mem.wfFrom lo m = true) (hl : lo' ≤ lo) : Mem.wfFrom lo' m = true := by
  cases m with
  | nil => rfl
  | cons c rest => simp [Mem.wfFrom] at h ⊢; exact ⟨⟨by omega, h.1.2⟩, h.2⟩

theorem Mem.read_below {lo a : Nat} {m : Mem} (h : Mem.wfFrom lo m = true) (ha : a < lo) : Mem.read m a = unlistedByte := by
  cases m with
  | nil => rfl
  | cons c rest => simp [Mem.wfFrom] at h; simp only [Mem.read]; rw [if_pos (by omega)]

theorem Mem.wfFrom_erase {lo : Nat} {m : Mem} (a : Nat) (h : Mem.wfFrom lo m = true) : Mem.wfFrom lo (m.erase a) = true := by
  induction m generalizing lo with
  | nil => rfl
  | cons c rest ih =>
    obtain ⟨k, v⟩ := c
    simp only [Mem.wfFrom, Bool.and_eq_true, decide_eq_true_eq] at h
    simp only [Mem.erase]
    split
    · simp [Mem.wfFrom, h]
    · split
      · exact Mem.wfFrom_mono h.2 (by omega)
      · simp [Mem.wfFrom, h.1, ih h.2]

theorem Mem.wfFrom_insert {lo : Nat} {m : Mem} {a : Nat} {b : Byte} (h : Mem.wfFrom lo m = true) (ha : lo ≤ a) (hb : b ≠ unlistedByte) :
    Mem.wfFrom lo (m.insert a b) = true := by
  induction m generalizing lo with
  | nil => simp [Mem.insert, Mem.wfFrom, ha, hb]
  | cons c rest ih =>
    obtain ⟨k, v⟩ := c
    simp only [Mem.wfFrom, Bool.and_eq_true, decide_eq_true_eq] at h
    simp only [Mem.insert]
    split
    · simp [Mem.wfFrom, ha, hb, h.1.2, h.2]; omega
    · split
      · subst a; simp [Mem.wfFrom, hb, h.1.1, h.2]
      · simp [Mem.wfFrom, h.1, ih h.2 (by omega)]

/-- A write of one byte keeps the canonical form. -/
theorem Mem.wf_write {m : Mem} (a : Nat) (b : Byte) (h : m.wf = true) : (m.write a b).wf = true := by
  unfold Mem.write Mem.wf at *
  split
  · exact Mem.wfFrom_erase a h
  · exact Mem.wfFrom_insert h (Nat.zero_le a) ‹_›

/-- A write of bytes keeps the canonical form. -/
theorem Mem.wf_writeN {m : Mem} (a : Nat) (bs : List Byte) (h : m.wf = true) : (m.writeN a bs).wf = true := by
  induction bs generalizing m a with
  | nil => exact h
  | cons b bs ih => exact ih (a + 1) (Mem.wf_write a b h)

theorem Mem.wf_writeNat {m : Mem} (a n v : Nat) (h : m.wf = true) : (m.writeNat a n v).wf = true := Mem.wf_writeN a _ h

theorem Mem.wfFrom_filter {lo : Nat} {m : Mem} (p : Host.Cell → Bool) (h : Mem.wfFrom lo m = true) : Mem.wfFrom lo (m.filter p) = true := by
  induction m generalizing lo with
  | nil => rfl
  | cons c rest ih =>
    obtain ⟨k, v⟩ := c
    simp only [Mem.wfFrom, Bool.and_eq_true, decide_eq_true_eq] at h
    simp only [List.filter_cons]
    split
    · simp [Mem.wfFrom, h.1, ih h.2]
    · exact Mem.wfFrom_mono (ih h.2) (by omega)

/-- A memory with some bytes dropped is in canonical form. -/
theorem Mem.wf_filter {m : Mem} (p : Host.Cell → Bool) (h : m.wf = true) : Mem.wf (m.filter p) = true := Mem.wfFrom_filter p h

/-- A copy within a memory keeps the canonical form. -/
theorem Mem.wf_copy {m : Mem} (src dst n : Nat) (h : m.wf = true) : (m.copy src dst n).wf = true := by
  have step : ∀ (l : Mem) (out : Mem), out.wf = true → Mem.wf (l.foldl (fun acc c => Mem.write acc (c.1 - src + dst) c.2) out) = true := by
    intro l
    induction l with
    | nil => exact fun _ h => h
    | cons c rest ih => exact fun out h => ih _ (Mem.wf_write _ _ h)
  exact step _ _ (Mem.wf_filter _ h)

theorem Mem.read_insert (m : Mem) (a c : Nat) (b : Byte) : (m.insert a b).read c = if c = a then b else m.read c := by
  induction m with
  | nil => simp only [Mem.insert, Mem.read]; split <;> split <;> simp_all <;> omega
  | cons x rest ih =>
    obtain ⟨k, v⟩ := x
    simp only [Mem.insert]
    split
    · simp only [Mem.read]; split <;> split <;> simp_all <;> omega
    · split
      · subst a; simp only [Mem.read]; split <;> split <;> simp_all
      · simp only [Mem.read, ih]; split <;> split <;> simp_all <;> omega

theorem Mem.read_erase {lo : Nat} {m : Mem} (a c : Nat) (h : Mem.wfFrom lo m = true) :
    (m.erase a).read c = if c = a then unlistedByte else m.read c := by
  induction m generalizing lo with
  | nil => simp [Mem.erase, Mem.read]
  | cons x rest ih =>
    obtain ⟨k, v⟩ := x
    simp only [Mem.wfFrom, Bool.and_eq_true, decide_eq_true_eq] at h
    simp only [Mem.erase]
    split
    · split
      · subst c; simp [Mem.read, *]
      · rfl
    · split
      · subst a
        by_cases hc : c < k
        · rw [Mem.read_below h.2 (by omega)]; simp [Mem.read, hc]
        · by_cases hk : c = k
          · subst c; rw [Mem.read_below h.2 (by omega)]; simp
          · simp [Mem.read, hc, hk]
      · simp only [Mem.read, ih h.2]; split <;> split <;> simp_all <;> omega

/-- A read after a write of one byte: the byte written at its address, what stood there elsewhere. -/
theorem Mem.read_write {m : Mem} (a c : Nat) (b : Byte) (h : m.wf = true) : (m.write a b).read c = if c = a then b else m.read c := by
  unfold Mem.write
  split
  · rw [Mem.read_erase a c h]; simp_all
  · exact Mem.read_insert m a c b

/-- A write of bytes leaves every byte outside them alone. -/
theorem Mem.read_writeN_outside {m : Mem} (a c : Nat) (bs : List Byte) (h : m.wf = true) (hc : c < a ∨ a + bs.length ≤ c) :
    (m.writeN a bs).read c = m.read c := by
  induction bs generalizing m a with
  | nil => rfl
  | cons b bs ih =>
    simp only [List.length_cons] at hc
    rw [Mem.writeN, ih (a + 1) (Mem.wf_write a b h) (by omega), Mem.read_write a c b h, if_neg (by omega)]

/-- A write of bytes puts each in its place. -/
theorem Mem.read_writeN_inside {m : Mem} (a k : Nat) (bs : List Byte) (h : m.wf = true) (hk : k < bs.length) :
    (m.writeN a bs).read (a + k) = bs.getD k 0 := by
  induction bs generalizing m a k with
  | nil => simp at hk
  | cons b bs ih =>
    cases k with
    | zero =>
      rw [Mem.writeN, Mem.read_writeN_outside (a + 1) (a + 0) bs (Mem.wf_write a b h) (by omega), Mem.read_write a _ b h]; simp
    | succ k =>
      simp only [List.length_cons] at hk
      have := ih (a + 1) k (Mem.wf_write a b h) (by omega)
      rw [Mem.writeN, show a + (k + 1) = a + 1 + k by omega, this]; simp

@[simp] theorem Mem.length_readN (m : Mem) (a n : Nat) : (m.readN a n).length = n := by
  induction n generalizing a with
  | zero => rfl
  | succ n ih => simp [Mem.readN, ih]

/-- Reading back the bytes written. -/
theorem Mem.readN_writeN {m : Mem} (a : Nat) (bs : List Byte) (h : m.wf = true) : (m.writeN a bs).readN a bs.length = bs := by
  induction bs generalizing m a with
  | nil => rfl
  | cons b bs ih =>
    simp only [List.length_cons, Mem.readN]
    rw [show Mem.writeN m a (b :: bs) = Mem.writeN (m.write a b) (a + 1) bs from rfl, ih (a + 1) (Mem.wf_write a b h),
      Mem.read_writeN_outside (a + 1) a bs (Mem.wf_write a b h) (by omega), Mem.read_write a a b h, if_pos rfl]

end Sys2Proof.Machine
end

