-- ==== Sys2Proof/Tests/Slice0.lean ====
section
/-! SUPPORT. Tests: words decode as the spec encodes them, ill-formed terms are refused, single steps do what their rules say, and
the hypotheses of the statements are met by small states. Expected values come from the rules and tables cited. -/
namespace Sys2Proof.Tests
open Sys2Proof Sys2Proof.Machine Sys2Proof.Claims
set_option maxRecDepth 100000
set_option Elab.async false

/-- One ill-formed term for each check of `Instr.wf`: each is refused. -/
theorem test_wf_refuses_control : [
    .sbwait 8 0, .sbwait 0 64, .vote 8 0 0, .vote 0 8 0, .vote 0 0 3, .ballot 0 8 0, .ballot 0 0 2, .spawn 8 0 0, .awaitp 8 0, .bar 32 0, .bar 0 16,
    .cbar 32 0, .cbar 0 16, .dbar 32 0, .dbar 0 16, .cvdecl 8 0 0, .cvdecl 0 32 0, .cvdecl 0 0 32, .sign 8, .blk 1, .grd 1, .ver 0x8000, .ver 0x0400,
    .ver 0x0020, .ver 16, .fmt 0xC000, .fmt 1, .timeTokenSend].all (fun (i : Instr) => !i.wf) = true := by decide

theorem test_wf_refuses_lanes : [
    .vwset 4 0 0 0, .vwset 0 0 0 1, .vwset 0 1 1 0, .cmpSigned 0 6 0 0 0, .cmpUnsigned 0 7 0 0 0, .pmov 8 0 0, .pmov 0 8 0, .pmov 0 16 1, .pmov 8 0 2,
    .pmov 0 0 3, .csrR 0 5, .csrR 0 0x148, .csrW 0 0x24, .csrW 0 0x50, .shlImm 0 0 64, .shrImm 0 0 64, .sarImm 0 0 64, .cmpSignedImm 0 6 0 0,
    .cmpUnsignedImm 0 6 0 0, .fcvt 0 0 0 1, .fcvt 0 0 1 0, .fcvt 0 0 2 2, .fcvt 0 0 8 15, .fdot2 0 0 0 0, .mred 0 0 0 3, .cred 0 0 3,
    .bcast 0 0 2].all (fun (i : Instr) => !i.wf) = true := by decide

theorem test_wf_refuses_memory : [
    .pdef 8 0, .pace 0 60 0 0, .ldl 63 0 0 0 1, .stl 63 0 0 0 1, .lds 63 0 0 0 1, .sts 63 0 0 0 1, .ldc 63 0 0 0 1, .stc 63 0 0 0 1, .ldk 63 0 0 0 1,
    .stk 63 0 0 0 1, .ld 63 0 0 0 1, .st 63 0 0 0 1, .atomsCas 63 0 0 0 0, .atomCas 63 0 0 0 0, .cinval 0 0 2, .momRes 0 0 0 0 1, .rld 1 0 0 0 0,
    .rld 0 63 0 0 0, .rst 2 0 0 0 0, .rst 0 63 0 0 0, .ratom 0 63 0 0 0, .cntAdd 0 0 3].all (fun (i : Instr) => !i.wf) = true := by decide

theorem test_wf_refuses_units : [
    .mmaD 0 0 0 0 0 1, .mmaS 0 0 0 0 0 1, .mres 0 63 0, .mres 0 0 16, .mrel 0 16, .mzero 15 0 0 1, .mld 1 0 0 0 0, .mst 2 0 0 0 0, .mepi 0 0 0 3,
    .mepi 0 1 0 0, .mepi 0 0 8 0, .mtrsmD 0 0 4 0 0 0, .stage 32 0, .vstep 0 2, .vstep 1 1, .vq 0 0 3, .vq 0 1 1, .tex 0 63 0 0 0, .tex 63 0 0 0 1,
    .texl 0 62 0 0 0, .texg 63 0 0 0 1, .rgen 0 0 0 3, .rt 0 59 0 0, .rhit 0 1 0 0, .rhit 0 0 8 1, .rhit 1 0 0 2, .rhit 0 0 0 3, .fmarch 0 60 0 0,
    .fmarch 63 0 0 0].all (fun (i : Instr) => !i.wf) = true := by decide

/-- At the edge of each range the terms are well formed. -/
theorem test_wf_accepts_edges : [
    .sbwait 7 63, .vote 7 7 2, .ballot 63 7 1, .bar 31 15, .cvdecl 7 31 31, .sign 7, .blk 0xFF80, .grd 0xF000, .ver 0x3C0F, .ver 0x401F, .fmt 0xBFF0,
    .vwset 3 63 0 0, .vwset 3 0 1 0x40, .cmpSigned 7 5 0 0 0, .pmov 7 0x27 0, .pmov 63 0x27 1, .csrR 0 0x147, .csrW 0 0x145, .shlImm 0 0 63,
    .fcvt 0 0 8 7, .pdef 7 0, .pace 0 59 0 0, .ld 62 0 0 0 1, .ld 63 0 0 0 0, .mres 0 62 15, .mzero 14 0 0 1, .mld 60 0 0 0 1, .mepi 0 60 7 2,
    .mtrsmD 0 0 3 0 0 0, .stage 63 0, .stage 31 0, .vstep 0 1, .tex 62 62 0 0 1, .rt 0 58 0 0, .rhit 0 0 7 1, .fmarch 62 59 0 0].all
      (fun (i : Instr) => i.wf) = true := by decide

/-! ### Decoding: a word of each row of the opcode table, written out field by field from its format (R31, R34, R44); T and H as they fall -/

/-- Each word decodes to the instruction beside it. -/
def decodesAs (l : List (W32 × Instr)) : Bool := l.all (fun x => (decodeWord x.1).toOption == some x.2)

theorem test_decode_control_1 : decodesAs [
    (0b1_10_000000000_00000000000000000000, .nop),
    (0b0_10_000000001_0000_1101010101001111, .br 54607),
    (0b1_00_000000010_001_1_1111111110011111, .bp 1 1 65439),
    (0b0_11_000000011_000000_110110_00000000, .bx 54),
    (0b0_11_000000100_0000_1011010100000001, .call 46337),
    (0b1_11_000000101_00000000000000000000, .ret),
    (0b1_11_000000110_00000000000000000000, .reform),
    (0b0_01_000000111_00000000000000000000, .exit),
    (0b0_00_000001000_000000_00000000000010, .sbwait 0 2),
    (0b1_10_000001001_00000000000000000000, .qsync),
    (0b1_10_000001010_000100_000000_000000_01, .vote 4 0 1),
    (0b0_00_000001011_001101_000111_000000_00, .ballot 13 7 0),
    (0b1_01_000010000_000100_010111_111101_00, .spawn 4 23 61),
    (0b0_00_000010001_001110_111101_011100_00, .spawnn 14 61 28),
    (0b1_11_000010010_000011_100110_00000000, .launch 3 38),
    (0b1_00_000010011_00000000000000000000, .await),
    (0b0_10_000010100_000001_011111_00000000, .awaitp 1 31),
    (0b0_10_000010101_000010_00000000000001, .bar 2 1),
    (0b1_11_000010110_000100_00000000000010, .cbar 4 2),
    (0b1_10_000010111_000000_00000000000000, .dbar 0 0)] = true := by decide

theorem test_decode_control_2 : decodesAs [
    (0b1_00_000011000_000110_011010_00010011, .cvdecl 6 26 19),
    (0b1_01_000011001_000010_00000000000000, .sign 2),
    (0b0_10_000100000_000000_01001001101111, .trap 4719),
    (0b0_01_000100001_00000000000000000000, .rtt),
    (0b1_00_000100010_000000_11100010001000, .brk 14472),
    (0b1_00_000110000_0001_0000000100000000, .blk 256),
    (0b1_00_000110000_0010_0100111110000001, .ext 20353),
    (0b1_00_000110000_0011_1001000000000000, .grd 36864),
    (0b1_00_000110000_0100_0100000000000000, .ver 16384),
    (0b1_00_000110000_0101_0000010000000000, .fmt 1024)] = true := by decide

theorem test_decode_integer_1 : decodesAs [
    (0b0_11_001000000_000110_101110_000000_01, .mov 6 46 1),
    (0b1_11_001000001_000011_10011110101010, .movi 3 10154),
    (0b0_10_001000010_011000_10100011111011, .movh 24 10491),
    (0b0_00_001000011_000000_000000_0_0000000, .vwset 0 0 0 0),
    (0b0_00_001000100_000101_011010_111001_01, .add 5 26 57 1),
    (0b0_00_001000101_001110_010111_110000_00, .sub 14 23 48 0),
    (0b0_01_001000110_110000_000001_000010_11, .mul 48 1 2 3),
    (0b0_00_001000111_010010_010011_011101_01, .mulhSigned 18 19 29 1),
    (0b0_01_001001000_101010_111110_010111_01, .mulhUnsigned 42 62 23 1),
    (0b1_00_001001001_010010_000101_001100_10, .mad 18 5 12 2),
    (0b0_00_001001010_110010_011011_011100_10, .addc 50 27 28 2),
    (0b1_01_001001011_100011_011010_100010_11, .subb 35 26 34 3),
    (0b1_10_001001100_011001_011111_001000_01, .and 25 31 8 1),
    (0b1_01_001001101_000111_110011_111110_00, .or 7 51 62 0),
    (0b1_11_001001110_001010_000000_110001_10, .xor 10 0 49 2),
    (0b1_10_001001111_001010_010010_100101_01, .andn 10 18 37 1),
    (0b0_01_001010000_110110_101011_000000_10, .not 54 43 2),
    (0b1_01_001010001_101110_011111_101110_00, .shl 46 31 46 0),
    (0b1_10_001010010_101110_010101_111011_10, .shr 46 21 59 2),
    (0b1_10_001010011_110011_110100_010110_01, .sar 51 52 22 1)] = true := by decide

theorem test_decode_integer_2 : decodesAs [
    (0b0_00_001010100_010111_000010_100111_00, .rol 23 2 39 0),
    (0b1_10_001010101_101000_000101_011111_11, .minSigned 40 5 31 3),
    (0b0_00_001010110_110000_011000_100110_11, .minUnsigned 48 24 38 3),
    (0b1_10_001010111_111110_011111_110001_00, .maxSigned 62 31 49 0),
    (0b1_11_001011000_001110_000010_111011_01, .maxUnsigned 14 2 59 1),
    (0b0_01_001011001_101111_010000_000000_11, .abs 47 16 3),
    (0b0_01_001011010_111101_001110_000000_11, .neg 61 14 3),
    (0b1_11_001011011_111_000_000110_000111_01, .cmpSigned 7 0 6 7 1),
    (0b0_00_001011100_010_011_110011_011010_11, .cmpUnsigned 2 3 51 26 3),
    (0b0_11_001011101_010110_010010_001110_01, .sel 22 18 14 1),
    (0b0_10_001011110_111110_110110_000000_10, .popc 62 54 2),
    (0b1_10_001011111_000101_110100_000000_11, .clz 5 52 3),
    (0b0_10_001100000_011011_100110_000000_00, .ctz 27 38 0),
    (0b1_10_001100001_000000_111111_000000_10, .brev 0 63 2),
    (0b1_11_001100010_000010_100010_000011_11, .bfxSigned 2 34 3 3),
    (0b0_10_001100011_110100_111110_110001_00, .bfxUnsigned 52 62 49 0),
    (0b1_00_001100100_011011_011010_001011_00, .bfi 27 26 11 0),
    (0b1_10_001100101_111011_101110_111100_10, .lea 59 46 60 2),
    (0b0_10_001100110_000_101_0_00_111_1_00_111_00, .pand 5 0 7 1 7),
    (0b1_00_001100111_000_111_0_00_110_1_00_000_00, .por 7 0 6 1 0)] = true := by decide

theorem test_decode_integer_3 : decodesAs [
    (0b0_01_001101000_000_000_0_00_110_1_00_110_00, .pxor 0 0 6 1 6),
    (0b1_11_001101001_000000_000100_000001_00, .pmov 0 4 1),
    (0b1_11_001101010_010000_00000000000100, .csrR 16 4),
    (0b1_10_001101011_000100_00000010000100, .csrW 4 132),
    (0b1_10_001110000_001101_110000_11011001, .addImm 13 48 217),
    (0b1_00_001110001_100001_111010_10110101, .andImm 33 58 181),
    (0b1_00_001110010_111100_100001_10111101, .orImm 60 33 189),
    (0b1_10_001110011_010101_110110_01000001, .xorImm 21 54 65),
    (0b1_10_001110100_001101_111010_00010011, .shlImm 13 58 19),
    (0b0_01_001110101_111001_111110_00101001, .shrImm 57 62 41),
    (0b1_01_001110110_110110_010110_00010001, .sarImm 54 22 17),
    (0b1_00_001110111_011110_111111_01001000, .mulImm 30 63 72),
    (0b0_01_001111000_010_100_001110_01111001, .cmpSignedImm 2 4 14 121),
    (0b1_01_001111001_110_100_101000_10101110, .cmpUnsignedImm 6 4 40 174)] = true := by decide

theorem test_decode_float : decodesAs [
    (0b1_10_010000000_011101_001001_001001_01, .fadd 29 9 9 1),
    (0b1_11_010000001_101110_011010_110101_00, .fsub 46 26 53 0),
    (0b1_10_010000010_110001_011001_011011_00, .fmul 49 25 27 0),
    (0b1_11_010000011_110101_000111_101100_00, .fma 53 7 44 0),
    (0b1_11_010000100_010100_000110_111001_10, .fnma 20 6 57 2),
    (0b0_00_010000101_000111_010011_010010_11, .fmin 7 19 18 3),
    (0b0_01_010000110_111111_101000_001110_10, .fmax 63 40 14 2),
    (0b0_00_010000111_111111_010111_000000_00, .fabs 63 23 0),
    (0b1_10_010001000_111001_111011_000000_01, .fneg 57 59 1),
    (0b1_11_010001001_011_111_001110_101010_11, .fcmp 3 7 14 42 3),
    (0b1_11_010001010_000000_001100_000000_01, .fclass 0 12 1),
    (0b1_10_010001011_111000_010010_001000_11, .fsel 56 18 8 3),
    (0b0_01_010001100_011110_011001_000000_00, .frnd 30 25 0),
    (0b0_11_010001101_010110_011000_0010_1100, .fcvt 22 24 2 12),
    (0b1_01_010001110_001111_100100_000000_00, .fpack 15 36 0),
    (0b0_00_010001111_101000_000101_00000_0_00, .funpack 40 5 0),
    (0b0_11_010010000_001111_110100_011000_01, .fscale 15 52 24 1),
    (0b0_11_010010001_001101_001000_000000_10, .fexp 13 8 2),
    (0b0_10_010010010_000110_110001_001110_10, .fdot2 6 49 14 2),
    (0b1_11_010010011_011001_011110_110111_01, .fdot4 25 30 55 1)] = true := by decide

theorem test_decode_lanes : decodesAs [
    (0b0_01_100000000_110000_000111_1000_111_1, .rcp 48 7 8 7 1),
    (0b1_10_100000001_001010_101001_0111_010_0, .rsq 10 41 7 2 0),
    (0b1_11_100000010_010110_110111_1101_101_1, .sqrt 22 55 13 5 1),
    (0b1_11_100000011_101101_000110_0100_000_0, .div 45 6 4 0 0),
    (0b1_01_100000100_011101_101000_0010_011_0, .exp2 29 40 2 3 0),
    (0b1_00_100000101_001100_011100_1011_011_1, .log2 12 28 11 3 1),
    (0b1_10_100000110_111001_111001_1110_101_1, .sin 57 57 14 5 1),
    (0b0_00_100000111_100111_101001_1110_010_1, .cos 39 41 14 2 1),
    (0b0_01_100001000_001001_010010_0111_100_0, .tanh 9 18 7 4 0),
    (0b0_00_100010000_111101_000000_001011_01, .mred 61 0 11 1),
    (0b0_11_100010001_010010_100111_000000_01, .mscan 18 39 1),
    (0b0_00_100010010_100001_011001_101000_11, .shfl 33 25 40 3),
    (0b1_11_100010011_101000_001110_000000_00, .bcast 40 14 0),
    (0b1_11_100010100_010010_010110_000000_10, .cred 18 22 2),
    (0b0_01_100100000_000101_110000_00000000, .pdef 5 48),
    (0b1_10_100100001_100100_100001_1000_000_0, .pace 36 33 8 0)] = true := by decide

theorem test_decode_scratch : decodesAs [
    (0b1_00_101000000_101100_111010_1100_111_0, .ldl 44 58 12 7 0),
    (0b1_11_101000001_001000_000000_0110_000_0, .stl 8 0 6 0 0),
    (0b0_01_101000010_010011_100111_0101_111_1, .lds 19 39 5 7 1),
    (0b1_01_101000011_101001_001110_1000_110_1, .sts 41 14 8 6 1),
    (0b0_11_101000100_011100_101001_1100_010_0, .ldc 28 41 12 2 0),
    (0b0_00_101000101_110011_011111_0000_000_0, .stc 51 31 0 0 0),
    (0b1_10_101000110_101111_111001_0010_110_1, .ldk 47 57 2 6 1),
    (0b0_10_101000111_000100_101011_0111_110_0, .stk 4 43 7 6 0),
    (0b1_11_101001000_00000_0_101001_10100101, .spres 0 41 165),
    (0b1_10_101001001_00000000000000000000, .swf)] = true := by decide

theorem test_decode_memory_1 : decodesAs [
    (0b0_00_101010000_101000_010100_0000_010_1, .atomsAdd 40 20 0 2 1),
    (0b1_01_101010001_110101_011010_0001_110_0, .atomsMin 53 26 1 6 0),
    (0b1_10_101010010_011110_101110_1010_001_0, .atomsMax 30 46 10 1 0),
    (0b1_01_101010011_001111_101001_1100_010_0, .atomsAnd 15 41 12 2 0),
    (0b0_01_101010100_000011_101100_0101_101_0, .atomsOr 3 44 5 5 0),
    (0b0_01_101010101_111111_000100_1011_010_1, .atomsXor 63 4 11 2 1),
    (0b1_11_101010110_000100_011111_1010_011_0, .atomsXchg 4 31 10 3 0),
    (0b0_10_101010111_010010_110101_1111_010_0, .atomsCas 18 53 15 2 0),
    (0b0_10_101011000_110010_100101_1001_100_0, .ld 50 37 9 4 0),
    (0b0_01_101011001_110000_101101_0111_111_1, .st 48 45 7 7 1),
    (0b1_00_101011010_000000_001111_0000000_1, .pf 15 1),
    (0b1_11_101011011_101010_000111_1011_101_0, .red 42 7 11 5 0),
    (0b0_01_101011100_000000_111110_010100_01, .cinval 62 20 1),
    (0b1_10_101011101_000000_110101_001001_00, .cwb 53 9),
    (0b1_10_101011110_000000_111101_011110_00, .hflush 61 30),
    (0b0_11_101011111_000000_111010_110111_00, .hinval 58 55),
    (0b0_01_101100000_101000_011100_1111_001_0, .atomAdd 40 28 15 1 0),
    (0b0_01_101100001_000010_011010_1100_000_1, .atomMin 2 26 12 0 1),
    (0b1_10_101100010_100101_011010_1001_101_0, .atomMax 37 26 9 5 0),
    (0b1_11_101100011_110100_000011_0110_000_1, .atomAnd 52 3 6 0 1)] = true := by decide

theorem test_decode_memory_2 : decodesAs [
    (0b1_01_101100100_001000_000101_1011_001_1, .atomOr 8 5 11 1 1),
    (0b0_01_101100101_011000_100010_1110_100_1, .atomXor 24 34 14 4 1),
    (0b1_00_101100110_111110_111101_1111_000_0, .atomXchg 62 61 15 0 0),
    (0b0_10_101100111_000101_001000_1010_111_1, .atomCas 5 8 10 7 1),
    (0b0_10_101101000_101100_101111_1001_000_0, .hrel 44 47 9 0)] = true := by decide

theorem test_decode_matrix : decodesAs [
    (0b0_10_110000000_1101_0000_0011_0001_001_0, .mmaD 13 0 3 1 1 0),
    (0b1_10_110000001_1100_0110_1001_0000_010_0, .mmaS 12 6 9 0 2 0),
    (0b1_11_110000010_1101_0100_0111_0011_111_1, .mmaBf 13 4 7 3 7 1),
    (0b0_11_110000011_1001_1000_1110_1100_000_1, .mmaH 9 8 14 12 0 1),
    (0b1_11_110000100_0111_1011_1010_1100_001_0, .mmaE4 7 11 10 12 1 0),
    (0b0_11_110000101_0101_0110_1010_0010_000_0, .mmaE5 5 6 10 2 0 0),
    (0b1_00_110000110_0011_0101_0010_0100_110_0, .mmaF4 3 5 2 4 6 0),
    (0b1_11_110000111_1100_0100_1010_1110_010_0, .mmg 12 4 10 14 2 0),
    (0b0_11_110001000_111010_100110_000110_00, .mres 58 38 6),
    (0b1_10_110001001_111100_000000_00000110, .mrel 60 6),
    (0b1_10_110001010_010101_111011_0011_100_1, .mobl 21 59 3 4 1),
    (0b1_10_110001011_1000_00000000_0110_110_0, .mzero 8 6 6 0),
    (0b1_11_110001100_101000_001110_1011_100_0, .mld 40 14 11 4 0),
    (0b0_11_110001101_101000_101000_0101_101_0, .mst 40 40 5 5 0),
    (0b0_01_110001110_000101_000000_000110_10, .mepi 5 0 6 2)] = true := by decide

theorem test_decode_copy : decodesAs [
    (0b1_11_110010000_1011_00000000_0100_011_0, .mcholD 11 4 3),
    (0b0_00_110010001_1110_0010_0000_0001_100_0, .mluD 14 2 1 4),
    (0b1_10_110010010_1001_0010_0001_1101_011_1, .mtrsmD 9 2 1 13 3 1)] = true := by decide

theorem test_decode_versions : decodesAs [
    (0b1_01_111000000_000010_101111_1010_101_0, .cpy 2 47 10 5),
    (0b0_10_111000001_010000_00011010110110, .stage 16 1718),
    (0b1_01_111000010_000110_010011_0101_001_0, .cpyq 6 19 5 1),
    (0b0_11_111000011_111011_101000_1011_010_0, .gat 59 40 11 2),
    (0b0_01_111001000_000000_111010_000000_00, .vstep 58 0),
    (0b0_11_111001001_011100_101010_0010_101_0, .ldv 28 42 2 5),
    (0b1_00_111001010_010101_011000_100011_00, .vbind 21 24 35),
    (0b0_11_111001011_011000_001011_00000000, .vrel 24 11),
    (0b0_01_111001100_000111_100011_0001_000_0, .vpub 7 35 1 0),
    (0b0_11_111001101_010011_010010_000000_10, .vq 19 18 2)] = true := by decide

theorem test_decode_graphics : decodesAs [
    (0b0_01_111100000_011001_110001_1111_100_1, .tex 25 49 15 4 1),
    (0b0_10_111100001_000101_110110_1011_111_1, .texl 5 54 11 7 1),
    (0b0_01_111100010_000001_001110_1100_010_1, .texg 1 14 12 2 1),
    (0b1_11_111100011_111110_010101_101010_00, .rgen 62 21 42 0),
    (0b0_10_111100100_111110_001010_0010_011_0, .rt 62 10 2 3),
    (0b0_01_111100101_011011_111100_0010_101_0, .rnext 27 60 2 5),
    (0b0_10_111100110_110001_000000_000111_00, .rhit 49 0 7 0),
    (0b1_01_111100111_011011_111001_0101_010_0, .fmarch 27 57 5 2),
    (0b0_01_111101000_100010_110001_1111_110_0, .momAcc 34 49 15 6),
    (0b1_01_111101001_111011_110000_1101_010_0, .momRes 59 48 13 2 0)] = true := by decide

theorem test_decode_links : decodesAs [
    (0b1_00_111110000_010100_000001_0000_100_1, .rld 20 1 0 4 1),
    (0b1_10_111110001_100100_011100_0010_101_0, .rst 36 28 2 5 0),
    (0b0_01_111110010_001000_111000_0001_101_1, .ratom 8 56 1 5 1),
    (0b1_01_111110011_000000_010010_111011_01, .cntAdd 18 59 1),
    (0b0_11_111110100_000110_010110_0101_111_0, .cwait 6 22 5 7),
    (0b0_10_111110101_101010_111000_1011_001_0, .coll 42 56 11 1)] = true := by decide
/-! ### One step from reset with one word placed (log 15): what the rule of the word gives -/

/-- What one step with a word at the fetch leaves of the thread placed. -/
def stepped (w : Nat) : Option Thread := match step (State.reset.withFetchWord 32 w) with | .next s => s.thread? 4 | _ => none

/-- The same of the whole state. -/
def steppedState (w : Nat) : State := match step (State.reset.withFetchWord 32 w) with | .next s => s | _ => {}

/-- `movi v3, -2` (R185): sign-extended, and the next group follows (R39). -/
theorem test_step_movi : (stepped 0x0410FFFE).map (fun t => (t.win.readNat 24 8, t.ctx.pkt, t.ctx.word)) = some (2 ^ 64 - 2, 0x1000, 1) := by decide +kernel

/-- `add.imm v1, v0, 5` writes eight bytes and no other (R193). -/
theorem test_step_addi : (stepped 0x07004005).map (fun t => (t.win.readNat 8 8, t.win.length)) = some (5, 1) := by decide +kernel

/-- `br -1` (R42, R124). -/
theorem test_step_br : (stepped 0x0010FFFF).map (fun t => (t.ctx.pkt, t.ctx.word)) = some (0xFFF, 0) := by decide +kernel

/-- `call +16` leaves P + 1 in LINK (R124). -/
theorem test_step_call : (stepped 0x00400010).map (fun t => (t.ctx.pkt, t.ctx.link)) = some (0x1010, 0x1001) := by decide +kernel

/-- `bp p0` with p0 = 0 is not taken, with its sense inverted it is (R125). -/
theorem test_step_bp : (stepped 0x00200004).map (fun t => (t.ctx.pkt, t.ctx.word)) = some (0x1000, 1)
    ∧ (stepped 0x00210004).map (fun t => (t.ctx.pkt, t.ctx.word)) = some (0x1004, 0) := by decide +kernel

/-- `exit` (R130) and, with LINK = END, `ret` (R128): nothing is outstanding, so the thread retires. -/
theorem test_step_exit : (steppedState 0x00700000).crews = [] ∧ (steppedState 0x00500000).crews = [] := by decide +kernel

/-- `csr.w` of 9 to `cr.srseed` is read from v0, which is 0 (R306). -/
theorem test_step_csrw : (stepped 0x06B00011).map (·.ctx.srseed) = some 0 := by decide +kernel

/-- An unassigned OP is a team fault without a handler: one fault record, the team's thread halted (R44, R302, R311). -/
theorem test_step_illegal : (steppedState 0x00C00000).records.length = 1 ∧ (stepped 0x00C00000).map (·.status) = some .halted := by decide +kernel

/-- `ld v1, v0, sb0` enters flight and raises its slot (R54, R268). -/
theorem test_step_ld : (steppedState 0x15804000).flights.length = 1 ∧ (stepped 0x15804000).map (·.ctx.slots) = some [1, 0, 0, 0, 0, 0, 0, 0] := by decide +kernel
/-! ### The hypotheses of the statements, met by small states -/

/-- A window with values in its VV registers. -/
def win (l : List (Nat × Nat)) : Mem := l.foldl (fun m x => m.writeN (8 * x.1) (natToBytes 8 x.2)) []

/-- A thread in trap context or out of it, alone in its crew, with values in its VV registers. -/
def th (l : List (Nat × Nat)) (trap : Option TrapCtx := none) : Thread :=
  { id := 4, team := 3, index := 0, spawned := false, slice := 0, status := .crewed, ctx := { pkt := 0x1000, word := 0, srseed := 1 }, trap
    win := win l, winSize := 2048, views := List.replicate 4 ⟨0, 2048⟩ }

/-- The group at issue in that thread. -/
def ic (t : Thread) (pfx : Pfx := {}) : IssueCtx :=
  { crew := 5, pkt := 0x1000, entry := 0, last := 0, word := 0, bits := 0, words := [0], active := [4], pfx, before := [t], beforeQ := {} }

/-- The state in which it stands: reset, brought up, with one grid of one team of that thread. -/
def at_ (t : Thread) (i : IssueCtx) : State :=
  { State.reset.place 0 with threads := [t], ctl := { agenda := [], focus := some 5, issue := some i, nextId := 6 } }

/-- The same with modifiers. -/
def st (l : List (Nat × Nat)) (x : Pfx := {}) : State := at_ (th l) (ic (th l) x)

theorem slotFree_of {s : State} {tid sb n : Nat} (h : (s.thread? tid).all (fun t => decide (t.ctx.slots.getD sb 0 + n ≤ 63)) = true) :
    SlotFree s tid sb n := by
  intro t ht; rw [ht] at h; simpa using h

theorem none_of {s : State} {tid : Nat} {p : Flight → Bool}
    (h : (s.thread? tid).all (fun t => t.faulted.all (fun f => !p f) && t.faults.isEmpty) = true) (f : s.flights.isEmpty = true) :
    NoneOutstanding s tid p := by
  intro t ht
  rw [ht] at h
  simp only [Option.all_some, Bool.and_eq_true, List.all_eq_true, Bool.not_eq_true', List.isEmpty_iff] at h f
  exact ⟨h.1, by simp [h.2], by simp [f]⟩

theorem laneFree_of {i : IssueCtx} {w : LaneWord} (h : (i.parts ++ (i.active.filterMap i.src)).all (fun t =>
    (namedRanges t w.operands (blockSteps i.pfx)).all (fun r => decide (r.1 + r.2 ≤ t.winSize)) && t.pending.isEmpty
      && ((w.go i.pfx t i.beforeQ).bad.isEmpty && (w.go i.pfx t i.beforeQ).badQ.isEmpty)) = true) : LaneFree i w := by
  have key : ∀ t, t ∈ i.parts ++ i.active.filterMap i.src → w.FreeIn i.pfx t i.beforeQ := by
    intro t ht
    have k := List.all_eq_true.1 h t ht
    simp only [Bool.and_eq_true, List.all_eq_true, decide_eq_true_eq, List.isEmpty_iff] at k
    exact ⟨fun r hr => ⟨k.1.1 r hr, by simp [Untouched, k.1.2]⟩, k.2.1, k.2.2⟩
  exact ⟨fun t ht => key t (by simp [ht]), fun t ht => key t (List.mem_append_right _ (List.mem_of_head? ht))⟩

theorem operandsFree_of {t : Thread} {q : QCopy} {reads writes : List Operand} {steps : List (Nat × Nat)}
    (h : (namedRanges t (reads ++ writes) steps).all (fun r => decide (r.1 + r.2 ≤ t.winSize)) = true)
    (k : (t.pending.isEmpty && t.winPoison.isEmpty && q.poison.isEmpty) = true) : OperandsFree t q reads writes steps := by
  simp only [Bool.and_eq_true, List.isEmpty_iff] at k
  simp only [List.all_eq_true, decide_eq_true_eq] at h
  exact ⟨fun r hr => ⟨h r hr, by simp [Untouched, k.1.1]⟩, by simp [Untouched, k.1.2], by simp [Untouched, k.2]⟩

theorem fieldsFree_of {t : Thread} {q : QCopy} {named : List Operand} {reads : List (Operand × Nat × Nat)}
    (h : (namedRanges t named [(0, 0)]).all (fun r => decide (r.1 + r.2 ≤ t.winSize)) = true)
    (k : (t.pending.isEmpty && t.winPoison.isEmpty && q.poison.isEmpty) = true) : FieldsFree t q named reads := by
  simp only [Bool.and_eq_true, List.isEmpty_iff] at k
  simp only [List.all_eq_true, decide_eq_true_eq] at h
  exact ⟨fun r hr => ⟨h r hr, by simp [Untouched, k.1.1]⟩, by simp [Untouched, k.1.2], by simp [Untouched, k.2]⟩

/-- The one participant of the group at issue. -/
theorem each_of {t : Thread} {x : Pfx} {p : Thread → Prop} (h : (ic t x).parts = [t]) (k : p t) : Each (ic t x) p := by
  intro u hu; rw [h] at hu; simp at hu; exact hu ▸ k

/-- The group stands at issue and has the thread as its one participant. -/
theorem stands (l : List (Nat × Nat)) : (st l).ctl.issue = some (ic (th l)) ∧ (ic (th l)).parts = [th l] := ⟨rfl, by simp [ic, IssueCtx.parts, IssueCtx.src, th, guardHolds]⟩

/-! #### Encoding -/

theorem test_meets_DecodeEncode : (Instr.fmt 0xBFF0).wf = true ∧ ((Instr.fmt 0xBFF0).modifier?.isSome = true → (0 : BitVec 2) = 0)
    ∧ (Instr.cmpSigned 7 5 63 63 3).wf = true ∧ (Instr.cmpSigned 7 5 63 63 3).modifier?.isSome = false := by decide

theorem test_meets_EncodeDecode : decodeWord 0xE44FFFFF = .ok (.add 63 63 63 3) := by decide

theorem test_meets_ReservedWordsRefused : opAssigned 0x00C = false ∧ opAssigned 0x1FF = false ∧ (0x14900001 / 2 ^ 20 % 2 ^ 9 = 0x149 ∧ 0x14900001 % 2 ^ 20 ≠ 0)
    ∧ 0x03000000 / 2 ^ 20 % 2 ^ 9 = 0x30 ∧ 0x03060000 / 2 ^ 16 % 2 ^ 4 = 6 ∧ decodeWord 0x03010080 = .ok (.blk 0x80)
    ∧ decodeWord 0x03051000 = .ok (.fmt 0x1000) := by decide

/-! #### Element-wise words -/

theorem test_meets_IntegerBinary : LaneFree (ic (th [])) (wordOf {} 1 2 63 3 false (fun _ u v _ => u + v)) := laneFree_of (by decide +kernel)
theorem test_meets_IntegerUnary : LaneFree (ic (th [])) (wordOf1 {} 1 63 0 (fun _ u => ~~~u)) := laneFree_of (by decide +kernel)
theorem test_meets_IntegerWithState : LaneFree (ic (th [])) (wordOf {} 1 2 3 0 true (fun _ u v z => u * v + z)) := laneFree_of (by decide +kernel)
theorem test_meets_MovesAndAddresses : LaneFree (ic (th [])) { d := some { view := 1, reg := 63 }, a := some { view := 1, reg := 0 }
                                                               reads := fun _ => (0, 0xFFFFFFFF, 0), run := fun y => { d := some y.a } } :=
  laneFree_of (by decide +kernel)

theorem test_meets_BitFields : LaneFree (ic (th [])) { d := some (.vv 1 false), a := some (.vv 2 false), b := some (.vv 3 false)
                                                       reads := fun y => (0, fieldBytes 64 (fld y.b 0 6) (min (fld y.b 8 7) 64), 3)
                                                       run := fun y => { d := some y.a } } := laneFree_of (by decide +kernel)

/-- Shifts by 63, the largest; the uniform form with a `q` destination. -/
theorem test_meets_ImmediateForms : LaneFree (ic (th [])) (wordImm {} 1 2 63 (fun x y => x <<< y.toNat)) ∧ (63 : BitVec 8).toNat < 64
    ∧ LaneFree (ic (th []) { ext := some 0x8000 }) (wordImm { ext := some 0x8000 } 31 2 63 (fun x y => x <<< y.toNat)) :=
  ⟨laneFree_of (by decide +kernel), by decide, laneFree_of (by decide +kernel)⟩

theorem test_meets_PredicateWords : LaneFree (ic (th [])) (wordTest {} 7 2 3 3 (fun _ u v => condition true 5 u v)) ∧ (5 : BitVec 3).toNat ≤ 5
    ∧ LaneFree (ic (th [])) (wordPred 7 1 6 0 5 and) := ⟨laneFree_of (by decide +kernel), by decide, laneFree_of (by decide +kernel)⟩

/-- `vwset vt, v2` with BASE and STRIDE of v2 in range, and with BASE = SIZE. -/
theorem test_meets_ViewSetting :
    (let v := (Operand.vv 2 false).val (th [(2, 2016 + 32 * 2 ^ 16)]) {}
     (v.extractLsb' 0 12).toNat < 2048 ∧ (v.extractLsb' 0 12).toNat % 32 = 0 ∧ (v.extractLsb' 16 12).toNat = 32)
    ∧ (((Operand.vv 2 false).val (th [(2, 2048 + 32 * 2 ^ 16)]) {}).extractLsb' 0 12).toNat = 2048
    ∧ Each (ic (th [(2, 2048 + 32 * 2 ^ 16)])) (fun t => FieldsFree t (ic (th [(2, 2048 + 32 * 2 ^ 16)])).beforeQ [.vv 2 false] [(.vv 2 false, 0, 4)]) :=
  ⟨by decide +kernel, by decide +kernel, each_of (stands _).2 (fieldsFree_of (by decide +kernel) (by decide +kernel))⟩

theorem test_meets_LaneWordWritesOnlyItsDestination :
    let w := wordOf {} 1 2 3 0 false (fun _ u v _ => u + v)
    w.d = some (opD {} 1) ∧ (opD {} 1).isQ = false ∧ (opD {} 1).len = 8 ∧ Mem.wf (th [(1, 7)]).win = true
    ∧ (w.run { d := 0, a := 5, b := 6, preds := 0, icarry := 0, seed := 0 }).dMask = 0xFFFFFFFF
    ∧ (w.run { d := 0, a := 5, b := 6, preds := 0, icarry := 0, seed := 0 }).d = some 11 := by decide +kernel

theorem test_meets_FloatArithmetic :
    LaneFree (ic (th [])) (floatWordOf {} 1 2 (some 3) 64 1 0 (0, 0xFF, 0xFF) (fun _ _ _ => { bits := 0 })) ∧ (1 : BitVec 2) ≠ 0
    ∧ fpDecode 1 0x3FF8000000000000 = .fin false (3 * 2 ^ 51) (-52)
    ∧ (2 : ℚ) ^ (0 : ℤ) ≤ ((3 * 2 ^ 51 : ℕ) : ℚ) * 2 ^ (-52 : ℤ) ∧ ((3 * 2 ^ 51 : ℕ) : ℚ) * 2 ^ (-52 : ℤ) < 2 ^ ((0 : ℤ) + 1) :=
  ⟨laneFree_of (by decide +kernel), by decide, by decide, by norm_num, by norm_num⟩

theorem test_meets_FloatSelection : LaneFree (ic (th [])) (floatWordOf {} 1 2 none 16 4 0 (0, 0xFF, 0) (fun _ _ _ => { bits := 0 })) :=
  laneFree_of (by decide +kernel)

/-- NaNs of both kinds, infinities, zeros of both signs, a subnormal and a normal number of `.h`. -/
theorem test_meets_FloatSelection_elements : fpDecode 3 0x7E00 = .nan false ∧ fpDecode 3 0x7D00 = .nan true ∧ fpDecode 3 0xFC00 = .inf true
    ∧ (∃ e, fpDecode 3 0x8000 = .fin true 0 e) ∧ (∃ e, fpDecode 3 1 = .fin false 1 e) ∧ (∃ m e, m ≠ 0 ∧ fpDecode 3 0x3C00 = .fin false m e)
    ∧ (0x8000).testBit 15 = true ∧ (0).testBit 15 = false := ⟨by decide, by decide, by decide, ⟨_, rfl⟩, ⟨_, rfl⟩, ⟨_, _, by decide, rfl⟩, by decide, by decide⟩

theorem test_meets_FloatConversion : LaneFree (ic (th [])) (floatWordOf {} 1 2 none 16 2 0 (0, 2 ^ (2 * 32 / 8) - 1, 0) (fun _ _ _ => { bits := 0 })) :=
  laneFree_of (by decide +kernel)

/-- The smallest subnormal of `.d` and the largest value of `.f4` are values of their formats. -/
theorem test_meets_RoundingTakesTheRightNeighbour : fpDecode 1 1 = .fin false 1 (-1074) ∧ 1 < 2 ^ fmtBits 1 ∧ fpDecode 7 7 = .fin false 3 1
    ∧ 7 < 2 ^ fmtBits 7 := by decide

/-- 2^128 is beyond the largest `.s` value, and 1 is not; a third of the spacing above 1, which stochastic rounding raises with draw 0. -/
theorem test_meets_RoundingTakesTheRightNeighbour_range :
    fpDecode 2 (fpMaxBits 2) = .fin false 16777215 104 ∧ (roundAt 0 false 1 128 false 0 105).1 = 8388608 ∧ (roundAt 0 false 1 0 false 0 (-23)).1 = 8388608
    ∧ ((16777215 : ℕ) : ℚ) * 2 ^ (104 : ℤ) < ((8388608 : ℕ) : ℚ) * 2 ^ (105 : ℤ)
    ∧ ((8388608 : ℕ) : ℚ) * 2 ^ (-23 : ℤ) ≤ ((16777215 : ℕ) : ℚ) * 2 ^ (104 : ℤ)
    ∧ roundAt 5 false (2 ^ 26 - 1) 0 false 0 2 = (2 ^ 24, true) := ⟨by decide, by decide, by decide, by norm_num, by norm_num, by decide +kernel⟩

theorem test_meets_DrawsAndIntegerConversions : (∃ q, fpDecode 6 0x7F = .nan q) ∧ fpDecode 1 0xFFF0000000000000 = .inf true
    ∧ (∃ n m e, fpDecode 7 15 = .fin n m e) := ⟨⟨_, rfl⟩, rfl, ⟨_, _, _, rfl⟩⟩

theorem test_meets_SpecialFloatValues : (fpDecode 1 0x7FF0000000000001).isNaN = true ∧ (fpDecode 6 0x7F).isNaN = true
    ∧ (fpDecode 1 0).isNaN = false ∧ (fpDecode 5 0x7E).isNaN = false := by decide

/-! #### The SFU and the words across a crew -/

/-- A slot at 62 takes the one entry of a word without a block; the entry of a thread alone in the queue is its next. -/
theorem test_meets_SfuWords : SlotFree (st []) 4 7 63 ∧ (blockSteps {}).length = 1 ∧ (st []).sfuDrained (th []) = true
    ∧ (st []).sfuQueued (th []) + min (1 * (ic (th [])).parts.length) 32 ≤ 32
    ∧ (sfuLane 3 (opD {} 1) (opA {} 2) false).FreeIn {} (th []) {} :=
  ⟨slotFree_of (by decide +kernel), by decide, by decide +kernel, by decide +kernel, by unfold RangesFree Untouched; decide +kernel, by decide +kernel, by decide +kernel⟩

/-- A word in flight of the thread. -/
def fl (kind : FlightKind) (stage : FlightStage := .start) : Flight :=
  { id := 1, tids := [4], sb := some 0, trapCtx := false, pkt := 0x1000, word := 0, pipe := 0, crew := 5, step := 0, kind, stage }

/-- The state with one word in flight. -/
def fst_ (kind : FlightKind) (stage : FlightStage := .start) : State := { st [] with flights := [fl kind stage] }

theorem test_meets_SfuWords_lands :
    let f := fl (.sfu 0 false 0 0 (.win 8))
    (fst_ f.kind).flight? 1 = some f ∧ (fst_ f.kind).sfuNext f = true ∧ f.tids = [4] := by decide +kernel

theorem test_meets_SlotsCountWordsInFlight : [4].Nodup ∧ (fl (.matrix 0)).sb = some 0 ∧ (st []).thread? 4 = some (th []) ∧ (th []).trap = none := by
  decide +kernel

/-- A signalling NaN, zeros of both signs, infinity, a negative number, of both formats. -/
theorem test_meets_SfuSpecialOperands : fpDecode 1 0x7FF0000000000001 = .nan true ∧ (∃ e, fpDecode 2 0x80000000 = .fin true 0 e)
    ∧ (∃ e, fpDecode 1 0 = .fin false 0 e) ∧ fpDecode 2 0xFF800000 = .inf true ∧ (∃ m e, m ≠ 0 ∧ fpDecode 2 0xBF800000 = .fin true m e) :=
  ⟨rfl, ⟨_, rfl⟩, ⟨_, rfl⟩, rfl, ⟨_, _, by decide, rfl⟩⟩

theorem test_meets_CrewWords : Each (ic (th [])) (fun t =>
    ({ d := opD {} 1, a := opA {} 2, b := some (opB {} 3), reads := fun ins => ins.map (fun _ => (0, 0xFF, 1)), run := fun ins => ins.map (fun u => { d := some u.2.a }) } : CrossWord).FreeIn
      (st []) (ic (th [])) t) := by
  refine each_of (stands []).2 ⟨?_, ?_⟩
  · unfold RangesFree Untouched; decide +kernel
  · decide +kernel
/-- One, two and three elements. -/
theorem test_meets_CrewWords_trees : [0x3C00].length ≤ 32 ∧ [0x3C00, 0x4000].length = 2 ∧ 2 < [0x3C00, 0x4000, 0x4200].length := by decide
theorem test_meets_ScanWord : Each (ic (th [])) (fun t =>
    ({ d := opD {} 1, a := opA {} 2, reads := fun ins => ins.map (fun _ => (0, 0xFF, 0)), run := fun ins => ins.map (fun u => { d := some u.2.a }) } : CrossWord).FreeIn
      (st []) (ic (th [])) t) := by
  refine each_of (stands []).2 ⟨?_, ?_⟩
  · unfold RangesFree Untouched; decide +kernel
  · decide +kernel

/-! #### Control, traps, registers -/

theorem test_meets_Branches : Free (ic (th [])) [.vv 63 false] [] := each_of (stands []).2 (operandsFree_of (by decide +kernel) (by decide +kernel))

/-- A modifier of each kind is new; a guard on p0, which is 0, holds with its sense inverted and not without. -/
theorem test_meets_HoldsAndModifiers : (ic (th [])).pfx.blk = none ∧ (ic (th [])).pfx.fmt = none
    ∧ (ic (th []) { grd := some 0x1000 }).parts = [th []] ∧ (ic (th []) { grd := some 0 }).parts = [] ∧ (ic (th []) { grd := some 0xF000 }).parts = [th []]
    ∧ (ic { th [] with ctx := { (th []).ctx with preds := 1 } } { grd := some 0 }).parts.length = 1 := by decide +kernel

theorem test_meets_LeavingACrew : Each (ic (th [])) (fun t => ∀ f ∈ t.faults, t.faultHere f = false) ∧ (th []).ctx.link = BitVec.allOnes 64
    ∧ (∃ c, (st []).crewOf 4 = some c)
    ∧ ((st []).crews.map (·.id)).Nodup :=
  ⟨each_of (stands []).2 (by decide +kernel), by decide, ⟨_, rfl⟩, by decide +kernel⟩

theorem test_meets_VotesAndBallots : Free (ic (th [])) [] [.vv 63 false] ∧ ∃ c, (st []).crew? 5 = some c ∧ (c.members.map (·.slot)).Nodup :=
  ⟨each_of (stands []).2 (operandsFree_of (by decide +kernel) (by decide +kernel)), _, rfl, by decide⟩

/-- Register 63 of a view that begins at byte 1,600 names bytes beyond SIZE, the lowest 2,048 where register 56 ends there; poisoned
bytes of v1 are read; with q1 beside it, of the q copy too; with q1 alone, of that; a uniform word's one member. -/
theorem test_meets_OperandFaults :
    let t := { th [] with views := List.replicate 4 ⟨1592, 2048⟩ }
    let w := wordOf {} 0 56 57 3 false (fun _ u v _ => u + v)
    let p := { th [] with winPoison := [9, 12] }
    (∀ a ∈ w.operands, 0 < a.len) ∧ (ic t).checked = false
    ∧ (∃ r ∈ namedRanges t w.operands (blockSteps {}), r.1 ≤ 2048 ∧ 2048 < r.1 + r.2)
    ∧ (let r := (wordOf {} 0 1 2 3 false (fun _ u v _ => u + v)).go {} p {}
       (9 ∈ r.bad ∧ (∀ x ∈ r.bad, 9 ≤ x)) ∧ r.badQ = [])
    ∧ (let q : QCopy := { poison := [8] }
       let r := (wordOf { ext := some 0x4000 } 0 1 2 3 false (fun _ u v _ => u + v)).go {} { th [] with winPoison := [17] } q
       (17 ∈ r.bad ∧ (∀ x ∈ r.bad, 17 ≤ x)) ∧ r.badQ ≠ []
       ∧ (let r := (wordOf { ext := some 0x4000 } 0 1 2 3 false (fun _ u v _ => u + v)).go {} (th []) q
          r.bad = [] ∧ 8 ∈ r.badQ ∧ ∀ x ∈ r.badQ, 8 ≤ x))
    ∧ (((ic t { ext := some 0x8000 }).active.filterMap (ic t { ext := some 0x8000 }).src).head? = some t ∧ (ic t { ext := some 0x8000 }).parts ≠ []) := by
  refine ⟨by decide +kernel, rfl, ⟨(2048, 8), by decide +kernel, by decide, by decide⟩, by decide +kernel, by decide +kernel, by decide +kernel⟩

/-- A team with a handler. -/
def handled (t : Thread) : State := { at_ t (ic t) with teams := (at_ t (ic t)).teams.map (fun m => { m with regs := { m.regs with tvec := 0x2000 } }) }

/-- The same under DBG, with a record free. -/
def debugged : State := { handled (th []) with teams := (handled (th [])).teams.map (fun m => { m with regs := { m.regs with tctl := 1 } }) }

theorem test_meets_TakingATrap_dbg : (∃ m, debugged.team? 3 = some m ∧ fld m.regs.tvec.toNat 0 56 ≠ 0 ∧ m.regs.tctl.getLsbD 0 = true
    ∧ debugged.freeRecord m.place.die = some 0) ∧ debugged.thread? 4 = some (th []) :=
  ⟨⟨_, rfl, by decide +kernel, by decide +kernel, by decide +kernel⟩, by decide +kernel⟩

theorem test_meets_TakingATrap : (∃ m, (handled (th [])).team? 3 = some m ∧ fld m.regs.tvec.toNat 0 56 ≠ 0 ∧ m.regs.tctl.getLsbD 0 = false)
    ∧ (handled (th [])).thread? 4 = some (th []) ∧ (th []).trap = none ∧ (th []).status ≠ .halted := by
  refine ⟨⟨_, rfl, by decide +kernel, by decide +kernel⟩, by decide +kernel, rfl, by decide⟩

theorem test_meets_TeamFaults : (∃ m g, (st []).team? 3 = some m ∧ (st []).grid? m.grid = some g ∧ m.status ≠ .halted ∧ m.status ≠ .retired
    ∧ fld m.regs.tvec.toNat 0 56 = 0 ∧ fld g.record 318 2 ≠ 1 ∧ g.status ≠ .complete ∧ (st []).freeRecord m.place.die = some 0) := by
  refine ⟨_, _, rfl, rfl, by decide +kernel, by decide +kernel, by decide +kernel, by decide +kernel, by decide +kernel, by decide +kernel⟩

/-- A thread in trap context, with a fault that it took. -/
def trapped : TrapCtx :=
  { saved := { pkt := 0x1000, word := 1, srseed := 1 }, cause := 0, val := 0, tret := 0x100040, entered := 0
    fault := some (fl (.matrix 0) (.faulted 0x19 0)), q := {}, step := 0 }

theorem test_meets_TrapWords : (ic (th [])).last ≤ 2 ∧ (th [] (some trapped)).trap = some trapped
    ∧ NoneOutstanding (at_ (th [] (some trapped)) (ic (th [] (some trapped)))) 4 (fun f => f.trapCtx)
    ∧ (fl (.matrix 0)).tids = [4] ∧ (fl (.matrix 0)).trapCtx = false ∧ (fl (.matrix 0)).sb = some 0 :=
  ⟨by decide, rfl, none_of (by decide +kernel) (by decide +kernel), by decide⟩

/-- The first and the last trap register need trap context. -/
theorem test_meets_RegisterReads : OperandsFree (th [] (some trapped)) {} [] [.vv 63 false] [(0, 0)] ∧ (th [] (some trapped)).trap.isSome = true
    ∧ (0x41 : BitVec 14).toNat = 0x41 ∧ (0x45 : BitVec 14).toNat = 0x45 := ⟨operandsFree_of (by decide +kernel) (by decide +kernel), by decide⟩

/-- A view whose BASE is the last multiple of 32 below SIZE; a LOAD command of `cr.wtcmd`. -/
theorem test_meets_RegisterWrites : OperandsFree (th [(1, 2 ^ 62)]) {} [.vv 1 false] [] [(0, 0)] ∧ viewOk 1 2048 2016 2048 = true
    ∧ viewOk 3 2048 2047 1 = true ∧ viewOk 1 2048 2048 2048 = false ∧ fld ((Operand.vv 1 false).val (th [(1, 2 ^ 62)]) {}).toNat 62 2 = 1
    ∧ (th []).wt = none ∧ (ic (th [])).checked = false
    ∧ (let w : WtCmd := { load := true, table := 0, ended := true }; w.ended = true ∧ w.fault = none)
    ∧ FieldsFree (th [(1, 2 ^ 62)]) {} [.vv 1 false] ((csrBytes 0x102 (2 ^ 62)).map (fun k => (.vv 1 false, k, 1))) :=
  ⟨operandsFree_of (by decide +kernel) (by decide +kernel), by decide, by decide, by decide, by decide +kernel, rfl, rfl, ⟨rfl, rfl⟩,
    fieldsFree_of (by decide +kernel) (by decide +kernel)⟩

/-! #### Threads, frames, groups -/

theorem test_meets_SpawnAndAwaitWords : NoneOutstanding (st []) 4 Flight.isAccess
    ∧ OperandsFree (th []) {} [.vv 1 false, .vv 2 false] [] [(0, 0)] ∧ Untouched (((th []).view 0).base, 8) ((th []).pending.map (·.1))
    ∧ FieldsFree (th []) {} [.vv 3 false, .vv 1 false, .vv 2 false] [(.vv 3 false, 0, 2), (.vv 1 false, 0, 8), (.vv 2 false, 0, 8)]
    ∧ (∃ c, (st []).crewOf 4 = some c) ∧ (th []).frame.children = 0 :=
  ⟨none_of (by decide +kernel) (by decide +kernel), operandsFree_of (by decide +kernel) (by decide +kernel), by simp [th, Untouched],
    fieldsFree_of (by decide +kernel) (by decide +kernel), ⟨_, rfl⟩, rfl⟩

/-- A grid with room for one frame record. -/
def framed : State := { st [] with grids := (st []).grids.map (fun g => { g with record := g.record + 2 ^ 320 }) }

theorem test_meets_SpawnedThreads : framed.thread? 4 = some (th []) ∧ (framed.spawnChild ⟨1, {}, 0⟩ 4 0x3000 9).isSome = true
    ∧ (∃ g, (st []).gridOf (th []) = some g ∧ g.freeFrames = []) ∧ (st []).spawnChild ⟨1, {}, 0⟩ 4 0x3000 (9 + 0) = none :=
  ⟨by decide +kernel, by decide +kernel, ⟨_, rfl, by decide +kernel⟩, by decide +kernel⟩

/-- A count of one in q0, and the largest count of each barrier; a convergence register that the thread signs; a second arrival of two. -/
theorem test_meets_GroupWords :
    (let q : QCopy := QCopy.set {} 0 1; (q.get 0).toNat % 2 ^ 32 = 1) ∧ ((QCopy.set {} 0 524288).get 0).toNat % 2 ^ 32 = 524288
    ∧ NoneOutstanding (st []) 4 Flight.isAccess
    ∧ (let c : Cv := { mask := 1, base := 0, decl := true }; c.memberOf (th []) = some 0 ∧ c.signed.getLsbD 0 = false)
    ∧ (let b : Barrier := { arrived := [⟨4, 2, 0⟩] }; (b.arrived.head?.getD ⟨5, 2, 0⟩).count ≤ b.arrived.length + 1)
    ∧ (let b : Barrier := { arrived := [⟨4, 3, 0⟩] }; b.arrived.length + 1 < (b.arrived.head?.getD ⟨5, 3, 0⟩).count) :=
  ⟨by decide +kernel, by decide +kernel, none_of (by decide +kernel) (by decide +kernel), by decide +kernel, by decide, by decide⟩

/-! #### Memory, scratchpads -/

/-- `ld v8, v9` of the last 8 bytes of the address space, `st.2 v62, v9` of the last 16, `mld` of a fragment of VT at the end of the window. -/
theorem test_meets_MemoryWords :
    let f : AccessForm := { op := .load, d := [fun i => .run 8 1 i.pfx.ud], sources := fun _ => [], size := fun i => accBytes i.pfx.dfmt
                            dst := fun i t => (Operand.run 8 1).dst i t, la := 15, sb := some 7 }
    let g : AccessForm := { op := .store, d := [fun _ => .run 62 2], sources := fun _ => [(.run 62 2, 16)], size := fun _ => 16, dst := fun _ _ => .none, sb := some 0 }
    let h : AccessForm := { op := .load, d := [fun _ => { view := 1, reg := 60, count := 4 }], sources := fun _ => [], size := fun _ => 128, typed := false
                            dst := fun _ _ => .none, pipe := .mxu, sb := some 1 }
    f.FreeIn 9 (st [(9, 2 ^ 52 - 8)]) (ic (th [(9, 2 ^ 52 - 8)])) ∧ g.FreeIn 9 (st [(9, 2 ^ 52 - 16)]) (ic (th [(9, 2 ^ 52 - 16)]))
    ∧ h.FreeIn 9 (st [(9, 2 ^ 52 - 128)]) (ic (th [(9, 2 ^ 52 - 128)])) := by
  have key : ∀ (f : AccessForm) (v : Nat), (∀ o ∈ f.d.map (· (ic (th [(9, v)]))), o.isQ = false) →
      (∀ sb, f.sb = some sb → SlotFree (st [(9, v)]) 4 sb.toNat 1) →
      FieldsFree (th [(9, v)]) {} (.vv 9 false :: f.d.map (· (ic (th [(9, v)]))))
        ((.vv 9 false, 0, 8) :: (f.sources (ic (th [(9, v)]))).map (fun x => (x.1, 0, x.2))) →
      inRange (addressIn 9 (ic (th [(9, v)])) (th [(9, v)])) (f.span (ic (th [(9, v)]))) = true →
      addressIn 9 (ic (th [(9, v)])) (th [(9, v)]) % f.align (ic (th [(9, v)])) = 0 → f.FreeIn 9 (st [(9, v)]) (ic (th [(9, v)])) := by
    intro f v hd h1 h2 h3 h4
    refine ⟨each_of (stands _).2 h1, ?_⟩
    have ha : f.accessors (ic (th [(9, v)])) = [th [(9, v)]] := by
      unfold AccessForm.accessors
      rw [(stands _).2]; split <;> rfl
    rw [ha]
    intro t ht
    simp only [List.mem_singleton] at ht
    subst ht
    exact ⟨h2, fun h => absurd h (by simp [ic, Pfx.verMode]), h3, h4⟩
  refine ⟨key _ _ (by decide +kernel) ?_ (fieldsFree_of (by decide +kernel) (by decide +kernel)) (by decide +kernel) (by decide +kernel),
    key _ _ (by decide +kernel) ?_ (fieldsFree_of (by decide +kernel) (by decide +kernel)) (by decide +kernel) (by decide +kernel),
    key _ _ (by decide +kernel) ?_ (fieldsFree_of (by decide +kernel) (by decide +kernel)) (by decide +kernel) (by decide +kernel)⟩
  all_goals (intro sb _; exact slotFree_of (by simp [st, at_, State.thread?, th]; decide +revert))

/-- An address one byte beyond, and one that is odd. -/
theorem test_meets_AddressFaults : inRange (addressIn 9 (ic (th [(9, 2 ^ 52 - 7)])) (th [(9, 2 ^ 52 - 7)])) 8 = false
    ∧ inRange (addressIn 9 (ic (th [(9, 1)])) (th [(9, 1)])) 8 = true ∧ addressIn 9 (ic (th [(9, 1)])) (th [(9, 1)]) % 8 ≠ 0
    ∧ SlotFree (st []) 4 0 1 ∧ (ic (th [])).pfx.verMode = 0
    ∧ FieldsFree (th [(9, 1)]) {} [.vv 9 false, .run 8 1] [(.vv 9 false, 0, 8), (.run 8 1, 0, 8)] :=
  ⟨by decide +kernel, by decide +kernel, by decide +kernel, slotFree_of (by decide +kernel), by decide,
    fieldsFree_of (by decide +kernel) (by decide +kernel)⟩

theorem test_meets_AtomicResults : 255 < 2 ^ fmtBits (orDefault 8 15) ∧ isFloatFmt (orDefault 8 15) = false ∧ isFloatFmt (orDefault 0 15) = false := by decide
theorem test_meets_BytesWrittenReadBack : (win [(0, 7), (3, 2 ^ 63)]).wf = true := by decide +kernel

theorem test_meets_CacheAndPresenceWords : NoneOutstanding (st []) 4 Flight.isWrite
    ∧ FieldsFree (th [(1, 2 ^ 52 - 128), (2, 128)]) {} [.vv 1 false, .vv 2 false] [(.vv 1 false, 0, 8), (.vv 2 false, 0, 6)]
    ∧ inRange (2 ^ 52 - 128) 128 = true ∧ (∃ m, (st []).team? 3 = some m) ∧ (0 : Nat) % 128 = 0 :=
  ⟨none_of (by decide +kernel) (by decide +kernel), fieldsFree_of (by decide +kernel) (by decide +kernel), by decide, ⟨_, rfl⟩, by decide⟩

/-- A thread with a slice of its own of one line: its last 8 bytes. -/
theorem test_meets_ScratchWords :
    let t := { th [(9, 120)] with priv := { size := 128 } }
    let f : ScrWord := { op := .load, level := some 3, d := .run 8 1, a := .vv 9 false, size := 8, dfmt := 0, la := 0, sb := 7 }
    let x := f.target (ic t) t
    let pad := (at_ t (ic t)).scr x.level ((at_ t (ic t)).scrOwner t x.level)
    f.accessors (ic t).parts = [t] ∧ x.level = 3 ∧ x.off = 120 ∧ x.off + f.size ≤ pad.size ∧ pad.bad x.off f.size = false
    ∧ SlotFree (at_ t (ic t)) 4 7 1 ∧ FieldsFree t {} [f.d, f.a] (f.reads.map (fun r => (r.1, 0, r.2))) :=
  ⟨by decide +kernel, by decide +kernel, by decide +kernel, by decide +kernel, by decide +kernel, slotFree_of (by decide +kernel),
    fieldsFree_of (by decide +kernel) (by decide +kernel)⟩

/-! #### Units -/

/-- `mma.h` in a window of 8,192 bytes, whose fragments of 128 bytes of VA begin at 0; a reservation record of one tile. -/
theorem test_meets_MatrixWords :
    let t := { th [] with views := [⟨0, 2048⟩, ⟨0, 2048⟩, ⟨1024, 2048⟩, ⟨0, 2048⟩] }
    let w : SetWord := { op := .mma, efmt := 3, c := 2, a := 1, b := 0, m := 0 }
    (∀ m, (at_ t (ic t)).team? t.team = some m → RangesFree t ((w.plan { m with regs := {} } t).reads.map (·.2) ++ (w.plan { m with regs := {} } t).writes))
    ∧ SlotFree (at_ t (ic t)) 4 7 1 ∧ (∃ m, (st []).team? 3 = some m ∧ m.handles.length = 16 ∧ m.handle 0 = none)
    ∧ Free (ic (th [])) [.run 62 2] [.vv 63 false] := by
  refine ⟨?_, slotFree_of (by decide +kernel), ⟨_, rfl, by decide +kernel, by decide +kernel⟩,
    each_of (stands []).2 (operandsFree_of (by decide +kernel) (by decide +kernel))⟩
  intro m hm
  obtain rfl := Option.some.inj hm
  unfold RangesFree Untouched
  decide +kernel

theorem test_meets_MatrixProducts : (let n := 16 * 4 * fmtBits 1 / 8; 8 * (List.replicate n (0 : Byte)).length = 16 * 4 * fmtBits 1)
    ∧ (let n := 32 * 32 * fmtBits 7 / 8; 8 * (List.replicate n (0 : Byte)).length = 32 * 32 * fmtBits 7) := by decide +kernel

/-- Bytes placed in memory. -/
def stored (v : Nat) : State := { st [] with mem := { (st []).mem with dram := (st []).mem.dram.writeNat 0x20000 128 v } }

/-- A record of one op on one stream of `.s`; a linear card and a card of KIND 5 that move nothing; a child's launch record. -/
theorem test_meets_EngineWords :
    (match (stored (1 + 2 * 2 ^ 4 + 2 * 2 ^ 8 + 2 * 2 ^ 20 + 2 ^ 28 + 2 ^ 320)).pdefRead (ic (th [])) (th []) 0x20000 with | .record _ _ => true | _ => false) = true
    ∧ (match (stored (2 ^ 128)).prepJob (ic (th [])) (th []) 0 0x20000 with
        | .ready c _ _ => (stored (2 ^ 128)).jobRoom (th []) 0 c 1 == .pass | _ => false) = true
    ∧ (match (stored (5 * 2 ^ 128 + 2 ^ 288 + 2 * 2 ^ 416)).prepJob (ic (th [])) (th []) 2 0x20000 with | .ready _ _ _ => true | _ => false) = true
    ∧ (match (st []).launchRecord (ic (th [])) (th []) 0x20000 with | .bytes _ => true | _ => false) = true
    ∧ (st []).launchWait (ic (th [])) (th []) 0x20000 = none ∧ (st []).paceRoom (th []) 64 = .pass := by decide +kernel

/-- An address space whose region 1 has published 5; slot 1 unbound, slot 2 bound to 3 by one reader, slot 15 to 5 by 65,534. -/
def versioned : State :=
  { st [] with asids := [{ id := 1, vrgnb := modAt (fun _ => BitVec.ofNat 64 (2 ^ 63)) 1 (List.replicate 8 0), vrgns := modAt (fun _ => 5) 1 (List.replicate 8 0)
                           vslots := [⟨true, 0, 0xFFFFFF⟩, ⟨false, 0, 0⟩] ++ List.replicate 13 ⟨true, 1, 3⟩ ++ [⟨true, 65534, 5⟩] }] }

theorem test_meets_VersionWords : (ic (th [])).beforeStep ≠ 0xFFFFFF ∧ SlotFree (st []) 4 7 1 ∧ NoneOutstanding (st []) 4 Flight.isWrite
    ∧ FieldsFree (th [(2, 15)]) {} [.vv 1 false, .vv 2 false, .vv 3 false] [(.vv 2 false, 0, 8), (.vv 3 false, 0, 3)]
    ∧ (let a := versioned.asidBlock 1
       a.vslots[1]? = some ⟨false, 0, 0⟩ ∧ a.vslots[2]? = some ⟨true, 1, 3⟩ ∧ a.vslots[15]? = some ⟨true, 65534, 5⟩ ∧ a.published 6 = false
       ∧ a.published 5 = true ∧ a.published 3 = true ∧ a.held 5 = true ∧ a.held 3 = true) :=
  ⟨by decide, slotFree_of (by decide +kernel), none_of (by decide +kernel) (by decide +kernel),
    fieldsFree_of (by decide +kernel) (by decide +kernel), by decide +kernel⟩

/-- Coordinates, a descriptor's address that 64 divides, and a third operand; a ray whose area is the thread's own 512 bytes; a candidate. -/
theorem test_meets_GraphicsWords :
    (let reg := fun (l : List (Nat × Nat)) (n k : Nat) => BitVec.ofNat 64 (bytesToNat ((((Operand.run 2 n).bytes (th l) {}).drop (8 * k)).take 8))
     (reg [(3, 2 ^ 52 - 64)] 2 1).toNat % 2 ^ 52 % 64 = 0 ∧ (reg [(6, 15 * 2 ^ 56)] 5 4).toNat / 2 ^ 52 % 16 = 0 ∧ (reg [(6, 15 * 2 ^ 56)] 5 4).toNat / 2 ^ 60 = 0
     ∧ (let r := rayOf ((List.range 6).map (reg [] 6))
        r.flags / 2 ^ 62 % 4 = 0 ∧ r.area % 128 = 0 ∧ r.root % 128 = 0 ∧ r.area + 512 ≤ ({ th [] with priv := { size := 512 } } : Thread).priv.size))
    ∧ FieldsFree (th []) {} [.run 62 2, .run 2 3] [(.run 2 3, 0, 8), (.run 2 3, 8, 7), (.run 2 3, 16, 4)] ∧ SlotFree (st []) 4 7 1
    ∧ OperandsFree (th []) {} [.run 2 5] [.run 62 2] [(0, 0)] ∧ NoneOutstanding (st []) 4 Flight.isRay ∧ (st []).rayFree 4 = true
    ∧ FieldsFree (th []) {} [.vv 1 false, .run 2 6] [(.run 2 6, 0, 40), (.run 2 6, 40, 4)]
    ∧ (let t := { th [] with ray := some { regs := [], area := 0, event := 2 } }
       (∃ r, t.ray = some r ∧ r.event ≠ 0) ∧ (at_ t (ic t)).rayFree 4 = true) ∧ (2 : BitVec 2) ≠ 3 :=
  ⟨by decide +kernel, fieldsFree_of (by decide +kernel) (by decide +kernel), slotFree_of (by decide +kernel),
    operandsFree_of (by decide +kernel) (by decide +kernel), none_of (by decide +kernel) (by decide +kernel), by decide +kernel,
    fieldsFree_of (by decide +kernel) (by decide +kernel), ⟨⟨_, rfl, by decide⟩, by decide +kernel⟩, by decide⟩

/-- A part that knows a route to peer 1, with a window of two counters and a grid bound to a peloton of four chunks. -/
def linked : State :=
  { st [] with links := { (st []).links with routes := [(1, 0, 0)] }
               asids := [{ id := 1, cntwin := 0x20000 }]
               grids := (st []).grids.map (fun g => { g with peloton := some (4 * 2 ^ 288) }) }

theorem test_meets_LinkWords : (linked.portTo? 1 0).isSome = true ∧ linked.movedLoads 4 1 0 = false
    ∧ inRange (2 ^ 52 - 128) 128 = true ∧ (2 ^ 52 - 128) % 128 = 0 ∧ 1 % 2 ^ 12 < (linked.cntWindow 1).2
    ∧ (∃ g b, linked.gridOf (th []) = some g ∧ g.peloton = some b ∧ 3 % 2 ^ 16 < b.nchunks)
    ∧ FieldsFree (th []) {} [{ view := 2, reg := 60, count := 4 }, .run 2 2] [(.run 2 2, 0, 10), ({ view := 2, reg := 60, count := 4 }, 0, 128)]
    ∧ FieldsFree (th []) {} [.vv 1 false, .vv 2 false] [(.vv 1 false, 0, 4), (.vv 2 false, 0, 4)] ∧ SlotFree (st []) 4 7 1
    ∧ NoneOutstanding (st []) 4 (fun f => f.isWrite || f.isJob) ∧ (2 : BitVec 2) ≠ 3 :=
  ⟨by decide +kernel, by decide +kernel, by decide, by decide, by decide +kernel, ⟨_, _, rfl, rfl, by decide +kernel⟩,
    fieldsFree_of (by decide +kernel) (by decide +kernel), fieldsFree_of (by decide +kernel) (by decide +kernel), slotFree_of (by decide +kernel),
    none_of (by decide +kernel) (by decide +kernel), by decide⟩

/-! #### Events -/

/-- Package time 20 ms: receiver 0 fenced at 10 ms, receiver 7 silent with a token and an echo in flight, a change of the guard band past
its 256 ns that receiver 0 has yet to apply, a new value held; a line of die 1 whose lease has run out. -/
def timed : State :=
  { st [] with
    time := { (st []).time with
      hub := 20000000, change := some { at_ := 19999744, old := 4, new := 5, held := some 6 }
      receivers := [{ fenced := true, fencedAt := 10000000, copy := 19999744, changes := [(19999744, 5)] }] ++ List.replicate 6 {}
        ++ [{ tokens := [8], echoes := [(4, 8)] }] }
    mem := { (st []).mem with l2 := [{ die := 1, asid := 1, slot := 0, line := 2, pa := 2, data := [], state := .s, expiry := 1 }] } }

/-- A token goes out where the last echoes are 32 ns old and the tokens 4; a change whose 256 ns are not yet over holds nothing back. -/
theorem test_meets_TimeEvents_token :
    let s := { st [] with energy := { (st []).energy with lastTick := 1000 }, time := { (st []).time with
      hub := 1000, change := some { at_ := 748, old := 4, new := 4, held := none }
      receivers := List.replicate 8 { copy := 996, tokens := [1000], echoes := [(996, 1000)], echoAt := 968 } } }
    3 ≤ s.host.stage ∧ (s.time.hub / 4 * 4 + 4 ≤ s.energy.lastTick + 1000 ∧ s.time.hub < s.energy.lastTick + 1000)
    ∧ (∀ c, s.time.change = some c → s.time.hub < c.at_ + 256)
    ∧ ∀ k, k < s.time.receivers.length → (s.receiver k).onTime (s.time.hub / 4 * 4 + 4) = true ∧ s.silent k = false := by
  refine ⟨by decide +kernel, by decide +kernel, ?_, by decide +kernel⟩
  intro c hc
  obtain rfl := Option.some.inj hc
  decide

theorem test_meets_TimeEvents : (∃ x, timed.time.receivers[0]? = some x ∧ x.fenced = true ∧ x.fencedAt + 10000000 ≤ timed.time.hub
      ∧ (∃ c rest, x.changes = c :: rest ∧ c.1 ≤ x.copy))
    ∧ (∃ x v w l rest more, timed.time.receivers[7]? = some x ∧ x.tokens = v :: rest ∧ x.echoes = (w, l) :: more ∧ x.fenced = false
        ∧ x.echoAt + timed.time.hubBand < timed.time.hub)
    ∧ allCores.filter (fun p => p.die == 0 && !timed.host.lostCores.contains p) ≠ []
    ∧ (∃ c, timed.time.change = some c ∧ c.at_ + 256 ≤ timed.time.hub ∧ c.held = some 6)
    ∧ (∃ l ∈ timed.mem.l2, l.isAt 1 1 0 2 = true ∧ l.state = .s ∧ l.expiry ≠ 0 ∧ l.expiry ≤ (timed.receiver 1).copy + timed.guardBand 1)
    ∧ 6 ≤ timed.host.stage ∧ timed.energy.lastTick + 1000 ≤ timed.time.hub ∧ (∀ m ∈ timed.teams, m.settling = false) :=
  ⟨⟨_, rfl, by decide +kernel, by decide +kernel, ⟨_, _, rfl, by decide +kernel⟩⟩, ⟨_, _, _, _, _, _, rfl, rfl, rfl, by decide +kernel⟩,
    by decide +kernel, ⟨_, rfl, by decide +kernel⟩, ⟨_, List.mem_singleton.2 rfl, by decide +kernel⟩, by decide +kernel⟩

/-- A crew of the thread that has stood in a lane since 0, or waits for one; dclk 5,000 on its die. -/
def scheduled (lane : Option Nat) (more : List Crew := []) : State :=
  { st [] with time := { (st []).time with dclk := [5000 * 10 ^ 6, 0, 0, 0] }, ctl := { (st []).ctl with focus := none, issue := none }
               crews := (st []).crews.map (fun c => { c with lane, notReadySince := some 0, stalled := true, members := [{ slot := 0, tid := 4, offSince := some 0 }] }) ++ more }

/-- Another crew of the team in the slice's queue. -/
def queued : Crew := { id := 9, team := 3, slice := 0, members := [], q := {}, step := 0, ticket := 8 }

/-- The same with the thread in a bin since 0. -/
def binned : State :=
  { scheduled none with crews := [queued], bins := [{ id := 9, place := ⟨0, 0, 0⟩, trap := false, team := 3, pkt := 0x1000, word := 0, threads := [(4, 0)] }] }

theorem test_meets_SchedulingEvents :
    (∃ c m, (scheduled none).crew? 5 = some c ∧ (scheduled none).team? c.team = some m ∧ (scheduled none).dieFenced m.place.die = false
      ∧ m.status = .resident ∧ c ∈ (scheduled none).crewQueue m.place c.slice
      ∧ (∀ d ∈ (scheduled none).crewQueue m.place c.slice, queueBefore d c = false) ∧ (scheduled none).laneFree m.place c.slice 3 = true)
    ∧ (∃ c m since, (scheduled (some 0) [queued]).crew? 5 = some c ∧ (scheduled (some 0) [queued]).team? c.team = some m ∧ c.notReadySince = some since
      ∧ c.lane ≠ none ∧ c.stalled = true ∧ since + 512 ≤ (scheduled (some 0) [queued]).dclk m.place.die ∧ c.entered + 2048 ≤ (scheduled (some 0) [queued]).dclk m.place.die
      ∧ (∃ d ∈ (scheduled (some 0) [queued]).crewQueue m.place c.slice, d.queuedAt + 2048 ≤ (scheduled (some 0) [queued]).dclk m.place.die)
      ∧ (∀ d ∈ (scheduled (some 0) [queued]).crewsAt m.place c.slice, d.lane ≠ none → c.entered ≤ d.entered)
      ∧ (c.members.find? (fun y => y.tid == 4)) = some ⟨0, 4, some 0⟩ ∧ c.parked = [] ∧ c.lane = some 0
      ∧ ((scheduled (some 0) [queued]).laneAt m.place c.slice 0).busyUntil ≤ (scheduled (some 0) [queued]).dclk m.place.die
      ∧ (let away : Thread := { th [] with id := 9, ctx := { (th []).ctx with pkt := 0x2000 } }
         let both := { c with members := c.members ++ [{ slot := 1, tid := 9, offSince := some 0 }] }
         let s := { scheduled (some 0) with threads := [th [], away], crews := [both] }
         s.crewOf 9 = some both ∧ (s.activeOf both).contains 9 = false)
      ∧ 0 + m.regs.binctl.toNat / 65536 % 65536 ≤ (scheduled (some 0) [queued]).dclk m.place.die) := by
  refine ⟨⟨_, _, rfl, rfl, ?_⟩, ⟨_, _, 0, rfl, rfl, ?_⟩⟩ <;> decide +kernel

/-- Two ready crews of a lane, and one that is not, for want of members. -/
theorem test_meets_SchedulingEvents_decision :
    let rival : Crew := { queued with lane := some 0, members := [{ slot := 0, tid := 4 }], entered := 1 }
    let idle : Crew := { queued with id := 10, lane := some 0, entered := 2 }
    let s := { scheduled (some 0) [rival, idle] with
      crews := ((scheduled (some 0) [rival, idle]).crews.map (fun c : Crew => { c with notReadySince := none, stalled := false })) }
    ∃ c d, (s.activeSet ⟨0, 0, 0⟩ 0 0).filter s.crewMay = [c, d] ∧ c.id ≠ d.id
      ∧ ((s.activeSet ⟨0, 0, 0⟩ 0 0).filter (fun d => !s.crewMay d)).map (·.id) = [10]
      ∧ (let passed := ((s.activeSet ⟨0, 0, 0⟩ 0 0).filter (fun d => !s.crewMay d)).foldl State.passOver s
         passed.crew? c.id = some c ∧ passed.crew? d.id = some d)
      ∧ s.crew? d.id = some d ∧ crewWins d c = false ∧ crewWins c d = true
      ∧ s.ctl.focus = none ∧ (s.laneAt ⟨0, 0, 0⟩ 0 0).failed = false ∧ (s.laneAt ⟨0, 0, 0⟩ 0 0).busyUntil ≤ s.dclk 0 := by
  refine ⟨_, _, rfl, ?_⟩; decide +kernel

/-- A crew at LOSS 3 beside one below; one that gave way; one that has not issued yet beside one that has; two that have not, one entered first. -/
theorem test_meets_SchedulingEvents_wins :
    let c := fun (loss : Nat) (gaveWay : Bool) (lastIssue : Option Nat) (entered : Nat) => ({ queued with loss, gaveWay, lastIssue, entered } : Crew)
    (c 3 false none 0).loss = 3 ∧ (c 2 false none 0).loss ≠ 3 ∧ (c 2 true none 0).gaveWay = true
    ∧ (match (c 2 false none 0).lastIssue, (c 2 false (some 5) 0).lastIssue with | none, some _ => true | _, _ => false) = true
    ∧ (match (c 2 false (some 4) 0).lastIssue, (c 2 false (some 5) 0).lastIssue with | some x, some y => decide (x < y) | _, _ => false) = true
    ∧ (c 3 false none 1).lastIssue = (c 3 false none 2).lastIssue ∧ (c 3 false none 1).entered < (c 3 false none 2).entered := by decide

theorem test_meets_SchedulingEvents_bins :
    ∃ b, binned.bin? 9 = some b ∧ binned.dieFenced b.place.die = false ∧ b.oldest + binned.binAge b ≤ binned.dclk b.place.die
      ∧ binned.binOldest b 0 = some 0 ∧ binned.laneFree b.place 0 3 = true ∧ ({ binned with crews := [] } : State).crewQueue b.place 0 = []
      ∧ ∀ d ∈ binned.bins, d.place = b.place → ∀ k, binned.binOldest d 0 = some k → 0 ≤ k := by
  refine ⟨_, rfl, by decide +kernel, by decide +kernel, by decide +kernel, by decide +kernel, by decide +kernel, ?_⟩
  intros; exact Nat.zero_le _

/-- The thread changed, in a state whose package time is 20 ms everywhere. -/
def late (t : Thread) (more : List Team := []) : State :=
  let s := at_ t (ic t)
  { s with time := { s.time with hub := 20000000, receivers := List.replicate 8 { copy := 20000000 } }
           teams := s.teams.map (fun m => { m with scratch := { size := 128 } }) ++ more }

/-- A team with an operand-buffer range of four lines. -/
def buffered : State :=
  { st [] with teams := (st []).teams.map (fun m : Team => { m with handles := m.handles.set 11 (some { rec0 := BitVec.ofNat 64 (4 * 2 ^ 32), rec1 := 0 }) }) }

theorem test_meets_ThreadAndGridEvents_threads :
    (let t := { th [] with edge := some 20000000 }
     (late t).thread? 4 = some t ∧ (∃ m, (late t).team? 3 = some m ∧ m.status = .resident) ∧ 20000000 ≤ (late t).localTime 0)
    ∧ (let t := th [] (some trapped)
       (late t).thread? 4 = some t ∧ (late t).dieFenced 0 = false ∧ t.status ≠ .halted ∧ trapped.entered + 100000 ≤ (late t).localTime 0
         ∧ (late t).trappedFirst t trapped.entered = false)
    ∧ 8 * 255 < (th []).winSize ∧ (∃ c, (st []).crewOf 4 = some c ∧ (st []).crew? c.id = some c) ∧ 8 * 15 < ((late (th [])).scr 0 3).size
    ∧ (buffered.team? 3).any (fun m => (m.handle (15 - 4)).any (fun h => decide (8 * 63 < 128 * recSize h.rec0))) = true
    ∧ (let n : GridBarrier := { count := 2, dies := [(1, ⟨4, 2, 0⟩)] }; ∃ x ∈ n.dies, x.1 = 1)
    ∧ (let n : GridBarrier := { count := 2, dies := [(1, ⟨4, 2, 0⟩)], reported := [⟨5, 2, 0⟩] }
       (n.reported ++ (n.dies.filter (fun x => x.1 == 1)).map (·.2)).length = n.count)
    ∧ (let l : L2Line := { die := 0, asid := 1, slot := 0, line := 1, pa := 2, data := [], state := .o }
       (l.pa = (128 * 2 + 127) / 128 ∧ l.dirty = true) ∧ { l with state := .e }.dirty = false) :=
  ⟨⟨by decide +kernel, ⟨_, rfl, by decide⟩, by decide +kernel⟩, by decide +kernel, by decide, ⟨_, rfl, rfl⟩, by decide +kernel, by decide +kernel,
    ⟨_, List.mem_singleton.2 rfl, rfl⟩, by decide, by decide⟩

/-- A queue of 16 records enabled, one of which the host has written, the line of HEAD snooped; its grid with nothing started; no thread anywhere. -/
def admitting : State :=
  { st [] with threads := [], crews := [], teams := [], grids := (st []).grids.map (fun g => { g with nextTeam := 0 })
               queues := ({ desc := 0x11 } : Queue) :: (st []).queues.drop 1
               mem := { (st []).mem with dram := (st []).mem.dram.writeNat 0 8 1, snooped := [1] } }

/-- The same with a core of which one slice has room for a thread. -/
def packed : State :=
  { admitting with teams := [{ id := 8, grid := 9, index := 0, place := ⟨3, 15, 7⟩ }]
                   threads := (List.range 15).map (fun k => { th [] with id := 20 + k, team := 8, slice := k, winSize := 65536 }) }

theorem test_meets_ThreadAndGridEvents_admission : ∃ g, packed.ranked = [g] ∧ packed.preempted? g.event = none ∧ packed.mayStart g = true
    ∧ packed.held? g.event = none ∧ packed.fitsUnit g [⟨3, 15, 7⟩] = true ∧ (packed.startUnit g [⟨3, 15, 7⟩]).isSome = true := ⟨_, rfl, by decide +kernel⟩

theorem test_meets_ThreadAndGridEvents_grids :
    (let d := admitting.queue 0
     d.enabled = true ∧ d.stopped = false ∧ d.head < bytesToNat (admitting.mailboxLoad (d.base) 8)
     ∧ (∀ g ∈ admitting.grids, g.queue = 0 → g.unchecked = false)
     ∧ (∀ off ∈ [d.base, d.base + 256 + 256 * (d.head % 2 ^ d.slots), d.base + 128], admitting.mailboxFenced off = false) ∧ (∃ s1, admitting.mailboxSnoop (d.base + 128) = (none, s1))
     ∧ (admitting.grids.filter (fun g => g.queue == 0 && !bit g.event 47 && g.status != .complete)).length < 4096
     ∧ (match admitting.checkRecord (.engine 5) d.asid ⟨bytesToNat (admitting.mailboxLoad (d.base + 256) 256)⟩ with | .wait _ => false | _ => true) = true)
    ∧ admitting.queues.length = 256 ∧ 6 ≤ admitting.host.stage
    ∧ (∃ g, admitting.grid? 1 = some g ∧ g.status = .queued ∧ g.unchecked = false ∧ ({ g with refused := 1 } : Grid).refused ≠ 0 ∧ fld g.record 832 64 = 0
      ∧ (∀ m ∈ admitting.teams, m.settling = false)) :=
  ⟨⟨by decide +kernel, by decide +kernel, by decide +kernel, by decide +kernel, by decide +kernel, ⟨_, rfl⟩, by decide +kernel, by decide +kernel⟩,
    by decide +kernel, by decide +kernel,
    ⟨_, rfl, by decide +kernel⟩⟩

/-- A team of the grid admitted and not started. -/
theorem test_meets_ThreadAndGridEvents_held :
    let s := { packed with teams := packed.teams ++ [({ id := 7, grid := 1, index := 0, place := ⟨0, 0, 0⟩, held := true } : Team)] }
    ∃ g m, s.ranked = [g] ∧ s.preempted? g.event = none ∧ s.mayStart g = true ∧ s.held? g.event = some m :=
  ⟨_, _, rfl, by decide +kernel, by decide +kernel, rfl⟩

/-- A pre-empted team that takes a whole core's pool. -/
def saved (status : TeamStatus) : Team := { id := 8, grid := 1, index := 1, place := ⟨0, 0, 1⟩, status, scratch := { size := 1048576 } }

/-- A swapped team with a released thread, and a core of which one slice has room for it. -/
def stolen : State :=
  let s := late { th [] with team := 8 } [saved .swapped, { id := 9, grid := 9, index := 0, place := ⟨0, 0, 1⟩ }]
  { s with threads := s.threads ++ (List.range 15).map (fun k => { th [] with id := 20 + k, team := 9, slice := k, winSize := 65536 }) }

theorem test_meets_ThreadAndGridEvents_stolen : ∃ m g, stolen.team? 8 = some m ∧ stolen.grid? m.grid = some g ∧ stolen.contribution m = 0
    ∧ m.status = .swapped ∧ stolen.fitsAgain m ⟨0, 0, 1⟩ = true ∧ (stolen.restoreTeam 8 ⟨0, 0, 1⟩).allPlaced ⟨0, 0, 1⟩ = true
    ∧ ∃ t ∈ stolen.threads, t.team = m.id ∧ t.resident = true ∧ t.frame.state = 1 := ⟨_, _, rfl, rfl, by decide +kernel⟩

/-- One core left, with a team whose thread awaits; the other team fits nowhere. -/
def crowded : State :=
  let s := late { th [] with status := .awaiting 0 none 0, frame := { state := 2 } } [saved .preempted]
  { s with host := { s.host with lostCores := allCores.filter (fun p => p != ⟨0, 0, 0⟩) } }

theorem test_meets_ThreadAndGridEvents_teams :
    (∃ m, (late (th []) [saved .preempted]).team? 8 = some m ∧ (late (th []) [saved .preempted]).contribution m = 0
      ∧ (late (th []) [saved .preempted]).fitsAgain m ⟨0, 0, 1⟩ = true
      ∧ ((late (th []) [saved .preempted]).restoreTeam 8 ⟨0, 0, 1⟩).allPlaced ⟨0, 0, 1⟩ = true
      ∧ (late (th []) [saved .preempted]).resumesOn m [⟨0, 0, 1⟩] = true ∧ ((late (th []) [saved .preempted]).resumeOn m [⟨0, 0, 1⟩]).isSome = true
      ∧ m.status = .preempted ∧ (late (th []) [saved .preempted]).outranked m = false)
    ∧ (let t := { th [] with team := 8 }
       ∃ m, (late t [saved .swapped]).team? 8 = some m ∧ (late t [saved .swapped]).fitsAgain m ⟨0, 0, 1⟩ = true
         ∧ ∃ u ∈ (late t [saved .swapped]).threads, u.team = m.id ∧ u.resident = true ∧ u.frame.state = 1)
    ∧ (∃ m, crowded.team? 3 = some m ∧ m.status = .resident ∧ crowded.dieFenced m.place.die = false ∧ crowded.maySwap m = true
         ∧ crowded.waitsForRoom m.place = true) := by
  exact ⟨⟨_, rfl, by decide +kernel⟩, ⟨_, rfl, by decide +kernel⟩, ⟨_, rfl, by decide +kernel⟩⟩

/-- An access of eight bytes by the thread, in address space 1 or in one that holds a versioned page. -/
def acc (op : MemOp) (va : Nat) (asid : Nat := 1) : MemAcc :=
  { op, place := ⟨0, 0, 0⟩, asid, va, size := 8, dfmt := 0, vol := false, ver := {}, dst := .win 0, data := List.replicate 8 1, noReturn := false }

/-- An L2 line of address space 1 that holds line 1, in a state. -/
def held (state : L2State) : L2Line := { die := 0, asid := 1, slot := 0, line := 1, pa := 0, data := [], state }

/-- Address space 2 with one page of 2 MiB at 0, of version 2, and a region that has published a version. -/
def paged (pub : Nat) (f : Flight) : State :=
  let root := 2 ^ 35 + 2 ^ 20
  let leaf := 2 ^ 63 + 2 ^ 62 + 2 ^ 60 + 2 * 2 ^ 36 + 0x980
  { st [] with
    flights := [f]
    asids := (st []).asids ++ [{ id := 2, root := BitVec.ofNat 64 root, vrgnb := BitVec.ofNat 64 (2 ^ 63 + 2 ^ 31) :: List.replicate 7 0
                                 vrgns := BitVec.ofNat 64 pub :: List.replicate 7 0 }]
    mem := { (st []).mem with dram := (((st []).mem.dram.writeNat root 8 (2 ^ 63 + 2 ^ 35 + 2 ^ 22)).writeNat (2 ^ 35 + 2 ^ 22) 8
                                (2 ^ 63 + 2 ^ 35 + 2 ^ 23)).writeNat (2 ^ 35 + 2 ^ 23) 8 leaf } }

/-- A load from L1, a load that goes home and one whose page is absent, a fill; a store that goes home, one whose line is owned. -/
theorem test_meets_MemoryEvents :
    (let s := { fst_ (.mem (acc .load 248)) with mem := { (st []).mem with l1 := [{ place := ⟨0, 0, 0⟩, asid := 1, slot := 0, line := 1, data := [], ft := 0 }] } }
     (∃ l p, s.l1? ⟨0, 0, 0⟩ 1 0 (248 / 128) = some l ∧ lowestMarked l.poison (248 % 128) 8 = none ∧ s.page? 1 248 = some p ∧ p.canRead = true)
     ∧ s.slotOf (acc .load 248) = 0 ∧ (acc .load 248).half = none ∧ (acc .load 248).size ≠ 16
     ∧ s.readWaits (fl (.mem (acc .load 248))) (acc .load 248) = false ∧ s.lineMates (fl (.mem (acc .load 248))) (acc .load 248) = [])
    ∧ (let g : Grant := { die := 0, slot := 0, line := 1, pa := 0, data := [], poison := [], state := none, ft := 0 }
       let s := fst_ (.mem (acc .load 248)) (.fill g)
       lowestMarked g.poison 120 8 = none ∧ s.fillWaits (acc .load 248) g = false ∧ s.flights.length = 1)
    ∧ (let f := fl (.mem (acc .load 248))
       (fst_ f.kind).readRequestReady f = true ∧ ∃ p, (fst_ f.kind).translate 1 248 .read = .ok p)
    ∧ (let f := fl (.mem (acc .load (2 ^ 36)))
       (fst_ f.kind).readRequestReady f = true ∧ ∃ c, (fst_ f.kind).translate 1 (2 ^ 36) .read = .fault c)
    ∧ (let f := fl (.mem (acc .store 248))
       (fst_ f.kind).ownershipReady f = true ∧ (fst_ f.kind).lineMates f (acc .store 248) = [] ∧ ∃ p, (fst_ f.kind).translate 1 248 .write = .ok p ∧ p.mt = 0)
    ∧ (let f := fl (.mem (acc .store (2 ^ 36)))
       (fst_ f.kind).ownershipReady f = true ∧ ∃ c, (fst_ f.kind).translate 1 (2 ^ 36) .write = .fault c)
    ∧ (let f := fl (.mem (acc .store 248)) .granted
       let s := { fst_ f.kind .granted with mem := { (st []).mem with l2 := [held .m] } }
       s.turnWaits f = false ∧ s.ownedLine f (acc .store 248) = some (held .m) ∧ s.grantMates f (acc .store 248) = []) := by
  refine ⟨⟨⟨_, _, rfl, by decide, rfl, by decide⟩, by decide +kernel, by decide +kernel⟩, by decide +kernel, ⟨by decide +kernel, ⟨_, rfl⟩⟩, ⟨by decide +kernel, ⟨_, rfl⟩⟩, ⟨by decide +kernel, by decide +kernel, ⟨_, rfl, by decide +kernel⟩⟩,
    ⟨by decide +kernel, ⟨_, rfl⟩⟩, by decide +kernel⟩

/-- Half of a load that the other half completes; a fill that brings a store its line, and one that does not keep it. -/
theorem test_meets_MemoryEvents_fills :
    (let f := fl (.mem { acc .load 256 with half := some { k := 0, bytes := List.replicate 8 1 } }) (.data (List.replicate 8 2) none)
     (fst_ f.kind f.stage).flight? 1 = some f)
    ∧ (let g : Grant := { die := 0, slot := 0, line := 1, pa := 0, data := [], poison := [], state := some .m, ft := 0 }
       let s := fst_ (.mem (acc .store 248)) (.fill g)
       s.fillWaits (acc .store 248) g = false ∧ s.flights.length = 1
       ∧ (∃ l, (s.arrive (acc .store 248) g).l2? 0 1 0 1 = some l ∧ l.state ≠ .s)
       ∧ (s.arrive (acc .store 248) { g with state := none }).l2? 0 1 0 1 = none) :=
  ⟨by decide +kernel, by decide +kernel, by decide +kernel, ⟨_, rfl, by decide +kernel⟩, by decide +kernel⟩

/-- Steps 1, 2 and 3 on a page of version 2: older than the page, published, and new. -/
theorem test_meets_MemoryEvents_versions :
    let f := fun (step : Nat) => { fl (.mem (acc .store 8 2)) with step }
    (∃ p, (paged 0 (f 1)).translate 2 8 .write = .ok p ∧ (paged 0 (f 1)).arrivalReady (f 1) = true ∧ (f 1).step < p.version)
    ∧ (∃ p r, (paged 2 (f 2)).translate 2 8 .write = .ok p ∧ (paged 2 (f 2)).arrivalReady (f 2) = true ∧ p.version ≤ (f 2).step
      ∧ ((paged 2 (f 2)).asidBlock 2).regionOf p.base = some r ∧ (f 2).step ≤ r.pub)
    ∧ (∃ p r, (paged 2 (f 3)).translate 2 8 .write = .ok p ∧ (paged 2 (f 3)).arrivalReady (f 3) = true ∧ p.version < (f 3).step
      ∧ ((paged 2 (f 3)).asidBlock 2).regionOf p.base = some r ∧ r.pub < (f 3).step) := by
  refine ⟨⟨_, rfl, ?_⟩, ⟨_, _, rfl, ?_, ?_, rfl, ?_⟩, ⟨_, _, rfl, ?_, ?_, rfl, ?_⟩⟩ <;> decide +kernel

/-- A scratchpad access at its start; a copy in progress on a page; a line that waits for the host; `vpub` with nothing before it; an entry
of the pool retained and unreachable. -/
theorem test_meets_MemoryEvents_others :
    (let f := fl (.scr { op := .store, level := 0, off := 0, size := 8, dfmt := 0, dst := .none, data := [], noReturn := false })
     (fst_ f.kind).flight? 1 = some f ∧ (fst_ f.kind).turnWaits f = false ∧ f.tids = [4] ∧ (fst_ f.kind).thread? 4 = some (th []) ∧ f.again = none
     ∧ (th []).status ≠ .exiting ∧ (th []).status ≠ .returning)
    ∧ (let s := { st [] with mem := { (st []).mem with cows := [⟨1, 0, 0, 1⟩], backInval := [7] } }
       s.mem.cows.find? (fun c => c.asid == 1 && c.page == 0) = some ⟨1, 0, 0, 1⟩ ∧ (∃ p, s.page? 1 0 = some p) ∧ s.homeFenced 0 = false ∧ 7 ∈ s.mem.backInval ∧ s.links.waiting = [])
    ∧ (let f := fl (.vpub 3 0 (.win 0))
       (∀ g ∈ (fst_ f.kind).flights, g.id < f.id → 4 ∈ g.tids → g.isAccess = false) ∧ (fst_ f.kind).faultedBefore f Flight.isAccess = false
       ∧ (((fst_ f.kind).asidBlock 1).region 0).busy = false
       ∧ (((paged 2 f).asidBlock 2).region 0).valid = true ∧ ¬ 3 ≤ (((paged 2 f).asidBlock 2).region 0).pub)
    ∧ (let s := { st [] with asids := [{ id := 1, root := BitVec.ofNat 64 probeRoot, vpool := 0x20000, vctl := BitVec.ofNat 64 (2 ^ 32 + 1) }]
                             mem := { (st []).mem with dram := (st []).mem.dram.writeNat 0x21000 32 (2 * 2 ^ 138 + 7 * 2 ^ 164) } }
       ∃ e, (s.pool 1).find? (fun x => x.index == 0) = some e ∧ e.state = 2 ∧ s.reachable 1 e = false ∧ (s.receiver (4 + e.stack / 3)).fenced = false ∧ e.bad = false) := by
  refine ⟨by decide +kernel, ⟨by decide +kernel, ⟨_, rfl⟩, by decide +kernel, by decide +kernel, rfl⟩, by decide +kernel, ⟨_, rfl, ?_⟩⟩
  decide +kernel

/-- A job of the thread's team with nothing in its way. -/
def job : Job := { id := 7, grid := 1, team := 3, die := 0, word := 0, started := true, cleared := [⟨0, 3, 0⟩] }

theorem test_meets_EngineEvents_jobs :
    let s := { st [] with jobs := [job] }
    s.job? 7 = some job ∧ job.word ≠ 3 ∧ job.word ≠ 1 ∧ s.jobHeld job = false ∧ job.verOnScratch = false
    ∧ (let j := { job with card := 2 ^ 133 + 128 * 2 ^ 448 }
       let c : Card := ⟨j.card⟩
       c.toScratch = true ∧ j.cleared.any (fun l => l.line == 0) = true ∧ 0 ∉ j.landed
       ∧ (({ st [] with jobs := [j] } : State).runUnits j (j.openUnits.filter (fun u => (c.unitLines ⟨j.record⟩ u).contains 0))).stop.isNone = true)
    ∧ (s.runUnits job job.openUnits).stop.isNone = true := by decide +kernel

/-- A stream job of no elements, which stops on nothing. -/
theorem test_meets_EngineEvents_pace :
    let p : PaceJob := { record := natToBytes 128 (1 + 2 * 2 ^ 4 + 2 * 2 ^ 8 + 2 * 2 ^ 20 + 2 ^ 28 + 2 ^ 320), count := 0, bases := [0, 0, 0], out := 0, dst := .none }
    let f := fl (.pace p)
    let j := { job with word := 3, flight := some 1 }
    let s := { fst_ f.kind with jobs := [j] }
    s.flight? 1 = some f ∧ s.jobs.find? (fun j => j.flight == some f.id) = some j ∧ s.jobHeld j = false
    ∧ (s.runPace p (s.teamAsid j.team) f.step).stop.isNone = true := by decide +kernel

/-- A generation of one member that has issued. -/
def gen : Gen :=
  { id := 7, team := 3, word := { op := .mma }, waiting := false, captures := [{ rank := 0, tid := 4, flight := 1, slices := [], dsts := [], route := false }] }

theorem test_meets_EngineEvents_units :
    (let s := { fst_ (.matrix 7) with gens := [gen] }
     s.gen? 7 = some gen ∧ (∃ m, s.team? gen.team = some m) ∧ gen.landed = false ∧ gen.tiles = [] ∧ (gen.captures.map (·.tid)).Nodup ∧ gen.merr = none)
    ∧ (let f := fl (.tile 7 [4] 1 0 [] (some 3) ⟨0, 0, 0⟩); (fst_ f.kind).flight? 1 = some f ∧ f.stage = .start)
    ∧ (let s := fst_ (.mobl 0 0 1 0x20000 false); (s.engineRead (s.asidOf (th [])) 0x20000 128).1.toOption.isSome = true)
    ∧ (let r : RayState := { regs := [], area := 0 }
       let t := { th [] with ray := some r }
       (at_ t (ic t)).thread? 4 = some t ∧ r.current = none ∧ r.stack = []
       ∧ (let s := at_ t (ic t); let own := { r with image := s.areaOwn 4 r }; s.areaOwn 4 own = own.image))
    ∧ (let w : WtCmd := { load := true, table := 0x20000 }
       let t := { th [] with wt := some w }
       let table : WeightTable := { place := ⟨0, 0, 0⟩, asid := 1, va := 0x20000, bytes := [], used := 0 }
       let s := { at_ t (ic t) with tables := [table] }
       s.thread? 4 = some t ∧ w.ended = false ∧ (s.fetchTable (s.placeOf t) (s.asidOf t) 0x20000).1.toOption.isSome = true) := by
  refine ⟨⟨by decide +kernel, ⟨_, rfl⟩, by decide +kernel⟩, by decide +kernel, by decide +kernel, by decide +kernel, by decide +kernel, by decide +kernel⟩

/-- A unit of a copy that meets an address without a page; a job with an add to make and no earlier add; a stream that meets one. -/
theorem test_meets_EngineEvents_faults :
    (let j := { job with card := 2 ^ 36 + 2 ^ 128 + 2 ^ 192 }
     let s := { st [] with jobs := [j] }
     (match (s.runUnits j j.openUnits).stop with | some (_, .fault _ _) => true | _ => false) = true)
    ∧ (let j := { job with word := 1, card := 4 }
       j.word = 1 ∧ ({ st [] with jobs := [j] } : State).addsBefore j = false)
    ∧ (let p : PaceJob := { record := natToBytes 128 (1 + 2 * 2 ^ 4 + 2 * 2 ^ 8 + 2 * 2 ^ 20 + 2 ^ 28 + 2 ^ 320), count := 1, bases := [2 ^ 36, 0, 0], out := 0, dst := .none }
       let s := { fst_ (.pace p) with jobs := [{ job with word := 3, flight := some 1 }] }
       (match (s.runPace p 1 0).stop with | some (_, .fault c _) => c != 0x2D | _ => false) = true) :=
  ⟨by decide +kernel, by decide +kernel, by decide +kernel⟩

/-- A routed tile in flight; a ray with nothing left to do comes to its last event. -/
theorem test_meets_EngineEvents_ends :
    (let f := fl (.tile 7 [4] 1 0 [] (some 3) ⟨0, 0, 0⟩); (fst_ f.kind).flight? 1 = some f ∧ f.stage = .start ∧ 4 ∈ f.tids ∧ f.id < (fst_ f.kind).ctl.nextId ∧ (∀ g ∈ (fst_ f.kind).gens, ∀ c ∈ g.captures, c.flight < (fst_ f.kind).ctl.nextId))
    ∧ (let r : RayState := { regs := [], area := 0 }
       let s := at_ { th [] with ray := some r } (ic (th []))
       r.current ≠ some { kind := 0, addr := r.root, count := 1, inst := 0 } ∧ ∃ r' n s', State.rayRun 4 ⟨0, 1⟩ 4096 r s = (.event r' n, s')) :=
  ⟨by decide +kernel, by decide, ⟨_, _, _, rfl⟩⟩

/-- A sampling word and a march that have read, on their way to their destination; nothing that either must wait for. -/
theorem test_meets_EngineEvents_landing :
    (let f := fl (.tex 2 false 0 0 0 0 (.win 0) none) (.data [1] none)
     (fst_ f.kind f.stage).flight? 1 = some f ∧ f.tids = [4] ∧ (fst_ f.kind f.stage).thread? 4 = some (th []))
    ∧ (let f := fl (.fmarch [] (.win 0)) (.data [1] none); (fst_ f.kind f.stage).flight? 1 = some f)
    ∧ (fst_ (.tex 2 false 0 0 0 0 (.win 0) none)).unitWaits (fl (.tex 2 false 0 0 0 0 (.win 0) none)) = false
    ∧ (fst_ (.fmarch [] (.win 0))).unitWaits (fl (.fmarch [] (.win 0))) = false ∧ (fst_ (.ray none (.win 0))).unitWaits (fl (.ray none (.win 0))) = false := by
  decide +kernel

/-- A texture of one texel with its table held by the core; a field of two voxels an axis and no steps to march. -/
theorem test_meets_EngineEvents_graphics :
    (let s := stored (0x30000 + 2 ^ 64 + 2 ^ 80 + 2 ^ 96)
     let table : WeightTable := { place := ⟨0, 0, 0⟩, asid := 1, va := 0, bytes := [], used := 0 }
     (({ s with tables := [table] } : State).samplePerform 1 (th []) 2 false 0 0x20000 0 0 none).1.toOption.isSome = true)
    ∧ (let s := stored (2 * 2 ^ 64 + 2 * 2 ^ 80 + 2 * 2 ^ 96)
       (∃ bs s1, s.unitRead ⟨0, 1⟩ 0x20000 64 = (.ok bs, s1) ∧ (⟨bytesToNat bs⟩ : FieldDesc).valid 0x20000 = true
         ∧ ∃ x s2, s1.march ⟨0, 1⟩ 0 ⟨bytesToNat bs⟩ [] = (.ok x, s2))) := by
  refine ⟨by decide +kernel, ⟨_, _, rfl, by decide +kernel, ⟨_, _, rfl⟩⟩⟩

/-- Package time 2 ms at the hub and in every copy. -/
def aged (s : State) : State := { s with time := { s.time with hub := 2000000, receivers := List.replicate 8 { copy := 2000000 } } }

/-- A port whose slot 7 trains, with and without a spare left. -/
def training (windows : Nat) (spares : List Nat) : State :=
  { aged (st []) with links := { (st []).links with
      ports := [{ die := 3, port := 127, slots := List.replicate 7 {} ++ [{ state := 1, windows }], spares }] } }

theorem test_meets_LinkEvents_slots :
    ((st []).port 3 127).slots.length = 8 ∧ ((st []).port 3 127).down = false ∧ (((st []).port 3 127).slots.getD 7 {}).state = 0
    ∧ (let x := ((training 0 []).port 3 127).slots.getD 7 {}
       x.state = 1 ∧ x.windows = 0 ∧ x.since + 524288 ≤ (training 0 []).time.hub)
    ∧ (let x := ((training 1 []).port 3 127).slots.getD 7 {}
       x.state = 1 ∧ x.windows ≠ 0 ∧ x.spare = none ∧ x.since + 1000000 ≤ (training 1 []).time.hub ∧ (training 1 []).freeSpares 3 127 = [32, 33])
    ∧ (training 1 [32, 33]).freeSpares 3 127 = [] := by decide +kernel

/-- A remote load, a posted add and a wait in flight, 2 ms old; a peer's load and store. -/
theorem test_meets_LinkEvents_messages :
    (let a : RemoteAcc := { op := .load, peer := 1, va := 0, size := 128, dfmt := 0, dst := .win 0, data := [], noReturn := false, via := ⟨0, 0, 0⟩ }
     let f := fl (.remote a)
     (aged (fst_ f.kind)).flight? 1 = some f ∧ (aged (fst_ f.kind)).linkWaits f = false
       ∧ a.via.since + 1000 * (aged (fst_ f.kind)).links.rto ≤ (aged (fst_ f.kind)).localTime a.via.die)
    ∧ (let r : RemoteRequest := { peer := 1, asid := 1, step := 0, op := 0, addr := 0x20000, atomOp := 0, ty := 0, data := [], operand := 0, operand2 := 0 }
       requestOk r = true ∧ requestOk { r with op := 1 } = true ∧ (st []).homeFenced 0x20000 = false ∧ (∃ p, (st []).translate 1 0x20000 .read = .ok p)
       ∧ ((st []).engineWriteLine 1 0 0x20000 []).1.toOption.isSome = true)
    ∧ (let f := fl (.cntAdd 0 0 1 0 0 0 ⟨0, 0, 0⟩); (fst_ f.kind).addWaits f = false)
    ∧ (let f := fl (.cwait 0 1 0 none (.win 0))
       let s := aged { fst_ f.kind with teams := (st []).teams.map (fun m => { m with regs := { m.regs with cwto := 1000 } }) }
       ∃ m, s.team? 3 = some m ∧ m.regs.cwto.toNat % 2 ^ 32 ≠ 0 ∧ 0 + 1000 * (m.regs.cwto.toNat % 2 ^ 32) ≤ s.localTime m.place.die) := by
  refine ⟨by decide +kernel, ⟨by decide +kernel, by decide +kernel, by decide +kernel, ⟨_, rfl⟩, by decide +kernel⟩, by decide +kernel, ⟨_, rfl, by decide +kernel⟩⟩

/-- A chunk that waits for its first exchange, with a timeout of 1 ms; a chunk that lands with nothing missing. -/
theorem test_meets_LinkEvents_chunks :
    let b : Binding := 1000 * 2 ^ 384 + 2 * 2 ^ 320 + 2 ^ 288
    let c : Chunk := { index := 0, fired := true, todo := [.halving 0], landing := true }
    let s := { aged (st []) with grids := (st []).grids.map (fun g : Grid => { g with peloton := some b, chunks := [c] }) }
    (∃ g, s.grid? 1 = some g ∧ g.peloton = some b) ∧ c.added = false ∧ ({ c with added := true } : Chunk).added = true ∧ s.sending 1 0 = false
    ∧ s.chunk? 1 0 = some c ∧ b.tmo ≠ 0 ∧ c.since + 1000 * b.tmo ≤ s.time.hub
    ∧ c.done = false ∧ b.missing c = [] ∧ (s.engineWrite 1 0 0 []).1.toOption.isSome = true :=
  ⟨⟨_, rfl, rfl⟩, by decide +kernel⟩

/-- A message of a collective on its way. -/
theorem test_meets_LinkEvents_send :
    let x : CollMessage := { tag := 0, nranks := 2, chunkBytes := 128, fmt := 0, op := 0, chunk := 0, sender := 0, phase := .halving 0, pieces := [] }
    let f := fl (.send 1 0 1 1 x none)
    (fst_ f.kind).flight? 1 = some f ∧ (fst_ f.kind).sending 1 0 = true := by decide +kernel

/-- A slot that trains on a spare; an answered add with no earlier message; a message for the exchange a chunk waits for, for a later
one, and one that does not fit. -/
theorem test_meets_LinkEvents_more :
    (let s : State := { aged (st []) with links := { (st []).links with
       ports := [({ die := 3, port := 127, slots := List.replicate 7 {} ++ [{ state := 1, windows := 1, spare := some 32 }], spares := [32] } : Port)] } }
     ((s.port 3 127).slots.getD 7 {}).state = 1 ∧ ((s.port 3 127).slots.getD 7 {}).windows ≠ 0 ∧ ((s.port 3 127).slots.getD 7 {}).spare = some 32)
    ∧ (let f := fl (.cntAdd 1 0 1 1 0 0 ⟨0, 0, 0⟩); (fst_ f.kind).addWaits f = false ∧ (fst_ f.kind).linkWaits f = false)
    ∧ 0 < ((linked.cntWindow 1).2)
    ∧ (let b : Binding := 2 * 2 ^ 320 + 2 ^ 288
       let x : CollMessage := { tag := b.tag, nranks := b.nranks, chunkBytes := b.chunk, fmt := b.fmt, op := b.op, chunk := 0, sender := b.from_ (.halving 0)
                                phase := .halving 0, pieces := [] }
       let c : Chunk := { index := 0, fired := true, todo := [.halving 0] }
       c.done = false ∧ c.landing = false ∧ x.phase ∉ c.ended ∧ (∀ y ∈ c.held, y.phase ≠ x.phase)
       ∧ b.fits x = true ∧ b.fits { x with sender := b.from_ (.halving 0) + 1 } = false) := by
  decide +kernel

theorem test_meets_FailureEvents :
    (st []).host.lostCores = [] ∧ 6 ≤ (st []).host.stage ∧ (∀ m ∈ (st []).teams, m.place ≠ ⟨3, 15, 7⟩) ∧ (st []).host.spareCores.getD 3 0 ≠ 0
    ∧ (st []).host.spareCores.getD 4 0 = 0 ∧ ((st []).laneAt ⟨0, 0, 0⟩ 15 3).failed = false ∧ (11, 31) ∉ (st []).mem.failedChannels
    ∧ (let s := fst_ (.mem (acc .load 248))
       let s := { s with time := { s.time with hub := 20000000, receivers := List.replicate 8 { fenced := true, fencedAt := 10000000 } } }
       (∃ x, s.time.receivers[4]? = some x ∧ x.fenced = true ∧ x.fencedAt + 10000000 ≤ s.time.hub) ∧ s.waitingOnQuad 0 ≠ [])
    ∧ (let s := { st [] with records := [⟨0, 63, 0⟩] }
       (∃ r ∈ s.records, r.die = 0 ∧ r.index = 63) ∧ ∀ t ∈ s.threads, t.status = .crewed) :=
  ⟨rfl, by decide, by decide +kernel, by decide, by decide, by decide +kernel, by decide +kernel, ⟨⟨_, rfl, by decide⟩, by decide +kernel⟩,
    ⟨⟨_, List.mem_singleton.2 rfl, by decide⟩, by decide +kernel⟩⟩

/-- A thread with a frame, whose record stands in its place. -/
def framedAs (f : Frame) : State := let t := { th [] with frame := f }; (at_ t (ic t)).storeFrame 4

/-- A thread that has been replayed once; one replayed twice; one that has acted; one whose record is bad. -/
theorem test_meets_FailureEvents_replay :
    ((st []).threads.map (·.id)).Nodup ∧ ((st []).teams.map (·.id)).Nodup
    ∧ (let t := { th [] with frame := { arg := 9, entry := 0x1000, replay := 1 } }
       let s := framedAs t.frame
       (∃ g, s.gridOf t = some g) ∧ s.thread? 4 = some t ∧ t.status ≠ .halted ∧ s.frameFenced t = false ∧ s.descendants 4 = []
       ∧ (s.lostFrame t).any (fun u => decide (u.frame.replay < 2) && !u.frame.nrp) = true
       ∧ (s.grids.filter (fun c => match c.parent with | some p => [4].contains p | none => false)) = [])
    ∧ (let t := { th [] with frame := { arg := 9, entry := 0x1000, replay := 2 } }
       ((framedAs t.frame).lostFrame t).any (fun u => decide (2 ≤ u.frame.replay)) = true)
    ∧ (let t := { th [] with frame := { arg := 9, entry := 0x1000, nrp := true } }; ((framedAs t.frame).lostFrame t).any (·.frame.nrp) = true)
    ∧ (let t := { th [] with frame := { arg := 9, entry := 0x1000, depth := 11 } }; (framedAs t.frame).lostFrame t = none) :=
  ⟨by decide +kernel, by decide +kernel, ⟨⟨_, rfl⟩, by decide +kernel⟩, by decide +kernel, by decide +kernel, by decide +kernel⟩

/-- A part brought up whose service processor is busy with a command. -/
def busy : State := { st [] with host := { (st []).host with busy := some (5, 0), busyArgs := [11, 31] } }

/-- An Ethernet port enabled for address space 1 with one descriptor posted each way: a frame of 64 bytes, a buffer of 9,216. -/
def wired : State :=
  let regs : List (Nat × W64) := [(0, 3 + 2 ^ 48), (0x10, 0x20000), (0x20, 1), (0x30, 0x30000), (0x40, 1)]
  let s := st []
  { s with host := { s.host with eth := [{ regs }, {}, {}, {}] }
           mem := { s.mem with dram := (s.mem.dram.writeNat 0x20000 16 (0x40000 + 64 * 2 ^ 64)).writeNat 0x30000 16 (0x50000 + 9216 * 2 ^ 64) } }

theorem test_meets_HostEvents : 6 ≤ (st []).host.stage ∧ (st []).host.busy = none ∧ busy.host.busy = some (5, 0) ∧ 6 ≤ busy.host.stage
    ∧ (let s := { st [] with asids := [{ id := 1, vctl := BitVec.ofNat 64 (2 ^ 32 + 1) }] }
       ∃ e, (s.pool 1).find? (fun x => x.index == 0) = some e)
    ∧ (let r : PageRequest := { index := 255, uses := 7, valid := true }
       let v : BitVec 64 := 255 + 7 * 2 ^ 8 + 2 * 2 ^ 16
       [r].find? (fun r => r.valid && r.index == v.toNat % 2 ^ 8 && r.uses == v.toNat / 2 ^ 8 % 2 ^ 8) = some r ∧ v.toNat / 2 ^ 16 % 4 = 2)
    ∧ (let off := 2 ^ 28 - 8; off + [0, 0, 0, 0, 0, 0, 0, (0 : Byte)].length ≤ 2 ^ 28 ∧ off / 2 ^ 21 = (off + 8 - 1) / 2 ^ 21)
    ∧ (∀ q ∈ (st []).queues, q.enabled = false) ∧ (∃ q ∈ admitting.queues, q.enabled = true) ∧ (List.replicate 32 (0 : BitVec 8)).length = 32
    ∧ ((BitVec.ofNat 64 (2 ^ 56)).toNat % 2 ^ 8 = 0 ∧ (BitVec.ofNat 64 (2 ^ 56)).getLsbD 56 = true) :=
  ⟨by decide, rfl, rfl, by decide, ⟨_, rfl⟩, by decide, by decide, by decide +kernel, ⟨{ desc := 0x11 }, List.mem_cons_self, rfl⟩, by decide, by decide⟩

/-- A good image and one whose key fails; a slot that does not train; a part before bring-up; a frame sent whose FLAGS are not written; a
descriptor whose FLAGS have no page. -/
theorem test_meets_HostEvents_bring_up :
    (let x : Firmware := {}; x.keyOk = true ∧ x.signatureOk = true ∧ x.versionOk = true) ∧ (let x : Firmware := { keyOk := false }; ¬(x.keyOk = true))
    ∧ (∃ x ∈ [((3, 127, 7) : Nat × Nat × Nat)], x.1 < 4 ∧ x.2.1 < 128 ∧ x.2.2 < 8) ∧ State.reset.host.stage < 6
    ∧ (let s : State := { wired with host := { wired.host with eth := modAt (fun p => { p with sent := true }) 0 wired.host.eth } }
       (s.host.eth.getD 0 {}).sent = true ∧ (s.ethDone 0 0x10 (s.ethDesc 0 0x10 0) 1).1.toOption.isSome = true)
    ∧ (({ wired with asids := [] } : State).ethDone 0 0x10 (wired.ethDesc 0 0x10 0) 1).1.toOption.isNone = true
    ∧ (st []).mailboxFenced (2 ^ 28 - 8) = false ∧ (st []).mem.cows = [] :=
  ⟨by decide, by decide, ⟨_, List.mem_singleton.2 rfl, by decide⟩, by decide, by decide +kernel, by decide +kernel, by decide +kernel, rfl⟩

theorem test_meets_HostEvents_ethernet :
    bit (wired.eth 0 0) 0 = true ∧ bit (wired.eth 0 0) 1 = true ∧ wired.eth 0 0x28 < wired.eth 0 0x20 ∧ wired.eth 0 0x48 < wired.eth 0 0x40
    ∧ bit ((st []).eth 3 0) 0 = false
    ∧ (wired.host.eth.getD 0 {}).sent = false ∧ (wired.host.eth.getD 0 {}).held = none
    ∧ (∃ d s1 frame s2, wired.ethRead 1 (wired.ethDesc 0 0x10 0) 16 = (.ok d, s1) ∧ fld (bytesToNat d) 64 16 = 64
      ∧ s1.ethRead 1 (fld (bytesToNat d) 0 52) 64 = (.ok frame, s2) ∧ (s2.ethDone 0 0x10 (wired.ethDesc 0 0x10 0) 1).1.toOption.isSome = true)
    ∧ (∃ d s1 v1 s2 v2 s3, wired.ethRead 1 (wired.ethDesc 0 0x30 0) 16 = (.ok d, s1) ∧ 64 ≤ fld (bytesToNat d) 64 16
      ∧ s1.ethStore 1 (fld (bytesToNat d) 0 52) [1] = (.ok v1, s2) ∧ s2.ethStore 1 (wired.ethDesc 0 0x30 0 + 8) (natToBytes 2 64) = (.ok v2, s3)
      ∧ (s3.ethDone 0 0x30 (wired.ethDesc 0 0x30 0) 1).1.toOption.isSome = true) := by
  refine ⟨by decide +kernel, by decide +kernel, by decide +kernel, by decide +kernel, by decide +kernel, rfl, rfl, ⟨_, _, _, _, rfl, by decide +kernel, rfl, by decide +kernel⟩,
    ⟨_, _, _, _, _, _, rfl, by decide +kernel, rfl, rfl, by decide +kernel⟩⟩

/-! #### Steps -/

/-- An event on the agenda; nothing on it and no crew chosen; a crew chosen whose group decodes and may issue. -/
theorem test_meets_StepRunsTheDecodedInstruction :
    let s := State.reset.withFetchWord 32 0x07004005
    s.ctl.agenda = [] ∧ State.reset.ctl.focus = none
    ∧ (∃ c active ws g, s.crew? 5 = some c ∧ s.ctl.focus = some c.id ∧ s.crewAddr c = some (0x1000, 0) ∧ (s.activeOf c).filterMap s.thread? = active
      ∧ s.crewReady c active = true ∧ s.fetch 1 0x1000 = .words ws ∧ decodeGroup ws 0 = .ok g ∧ g.words.map (·.instr) = [.addImm 1 0 5]
      ∧ (∀ t ∈ active, s.holdVerdict 1 t = .pass ∧ t.ctx.marks = [])) := by
  refine ⟨rfl, rfl, ⟨_, _, _, _, rfl, rfl, by decide +kernel, rfl, by decide +kernel, rfl, rfl, by decide +kernel, by decide +kernel⟩⟩

theorem test_meets_StepRunsTheDecodedInstruction_group :
    let s := State.reset.withFetchWord 32 0x07004005
    ∃ c g, s.crew? 5 = some c ∧ decodeGroup [0x07004005, 0, 0] 0 = .ok g
      ∧ (let active := (s.activeOf c).filterMap s.thread?
         let k := checkWords s s g.words (s.issueCtx c 0x1000 0 g active) {}
         k.taken = none ∧ k.stalled = false ∧ k.raised = []) := by
  refine ⟨_, _, rfl, rfl, by decide +kernel⟩

/-- A step of a part that has just been powered on, and one of a placed instruction. -/
theorem test_meets_StepsKeepGridsFresh : (∃ s, Steps State.reset s) ∧ ∃ s, Steps (State.reset.withFetchWord 32 0x07004005) s := by
  have key : ∀ s, (match step s with | .next _ => true | _ => false) = true → ∃ s', Steps s s' := by
    intro s h
    unfold Steps
    split at h
    · exact ⟨_, ‹_›⟩
    · simp at h
  exact ⟨key _ (by decide +kernel), key _ (by decide +kernel)⟩

end Sys2Proof.Tests
end

/-! SUPPORT. Package time, fences, the guard band and the cadence unit: what each update of a receiver, a fence and a step of the energy
account leave of the state, then each event of spec/01 and the cadence unit's where its condition holds. -/
namespace Sys2Proof.Machine

/-! ### A receiver replaced -/

/-- The state in which receiver r is y. -/
def State.withReceiver (s : State) (r : Nat) (y : Receiver) : State :=
  { s with time := { s.time with receivers := s.time.receivers.set r y } }

section Receivers
variable {s : State} {r : Nat} {x : Receiver} (hx : s.time.receivers[r]? = some x)
include hx

theorem State.receiver_of_getElem? : s.receiver r = x := by simp [State.receiver, hx]

theorem State.modReceiver_eq_withReceiver (f : Receiver → Receiver) : s.modReceiver r f = s.withReceiver r (f x) := by
  rw [State.modReceiver, modAt_eq_set f r _ x hx, State.withReceiver]

theorem State.modReceiver_getElem? (f : Receiver → Receiver) : (s.modReceiver r f).time.receivers[r]? = some (f x) := by
  simp [State.modReceiver, modAt_getElem?, hx]

/-- Of two changes of one receiver the second acts on the outcome of the first. -/
theorem State.modReceiver_modReceiver (f g : Receiver → Receiver) :
    (s.modReceiver r f).modReceiver r g = s.withReceiver r (g (f x)) := by
  rw [State.modReceiver_eq_withReceiver (State.modReceiver_getElem? hx f) g, State.modReceiver_eq_withReceiver hx f]
  simp [State.withReceiver]

end Receivers

/-! ### Tokens (R17, R18, R19) -/

/-- Package time may move on where every message is on time, no receiver is silent, no change waits to end and no step is due. -/
theorem State.mayReach_of {s : State} {hub : Nat} (htick : hub ≤ s.energy.lastTick + 1000)
    (hchange : ∀ c, s.time.change = some c → s.time.hub < c.at_ + 256)
    (hrec : ∀ k, k < s.time.receivers.length → (s.receiver k).onTime hub = true ∧ s.silent k = false) : s.mayReach hub = true := by
  have hall : (List.range s.time.receivers.length).all (fun r =>
      ((s.receiver r).onTime hub || Config.pathFails s.time.hub r) && !s.silent r) = true := by
    rw [List.all_eq_true]
    intro k hk
    obtain ⟨hon, hsilent⟩ := hrec k (List.mem_range.mp hk)
    simp [hon, hsilent]
  rw [State.mayReach, hall]
  cases hc : s.time.change with
  | none => simp [htick]
  | some c => simp [htick, hchange c hc]

/-- A die's clock never runs back, and counts at most its frequency (R17). -/
theorem TimeState.reach_dclk_bounds (t : TimeState) (hub d : Nat) :
    t.dclk.getD d 0 ≤ (t.reach hub).dclk.getD d 0
    ∧ (t.reach hub).dclk.getD d 0 ≤ t.dclk.getD d 0 + (hub - t.hub) * t.khz.getD d 0 := by
  by_cases hd : d < t.dclk.length
  · have hclock : (t.reach hub).dclk.getD d 0
        = t.dclk.getD d 0 + ((hub - t.hub) * t.khz.getD d 0 - Config.clockSlip t.hub d % 1000001) := by
      simp [TimeState.reach, hd]
    omega
  · simp [TimeState.reach, hd]

/-- What a token sent leaves: the hub at the token's time, every receiver with one token more. -/
def State.tokenSent (s : State) : State :=
  { s with time := { s.time.reach s.time.nextToken with
      receivers := s.time.receivers.map (fun x => { x with tokens := x.tokens ++ [s.time.nextToken] }) } }

theorem timeTokenSend_next {s : State} (hstage : 3 ≤ s.host.stage) (hreach : s.mayReach s.time.nextToken = true) :
    exec .timeTokenSend s = .next s.tokenSent := by
  have hgo : ¬((decide (s.host.stage < 3) || !s.mayReach s.time.nextToken) = true) := by simp [hreach]; omega
  exact if_neg hgo

theorem timeTokenArrival_next {s : State} {r : Nat} {x : Receiver} (hx : s.time.receivers[r]? = some x) {v : Nat} {rest : List Nat}
    (ht : x.tokens = v :: rest) :
    exec (.timeTokenArrival r) s
      = .next (s.withReceiver r { x.take v with tokens := rest, echoes := x.echoes ++ [(v, s.time.hub)] }) := by
  change execTimeTokenArrival r s = _
  simp only [execTimeTokenArrival, hx, ht]
  rw [State.modReceiver_eq_withReceiver hx]

/-! ### Fences (R22, R293, R315) -/

/-- The receiver is fenced as of now: a die holds no line in its caches, a quadrant has no lease outstanding. -/
def FencedNow (s' : State) (r now : Nat) : Prop :=
  (∃ y, s'.time.receivers[r]? = some y ∧ y.fenced = true ∧ y.fencedAt = now)
  ∧ (r < 4 → (∀ l ∈ s'.mem.l1, l.place.die ≠ r) ∧ ∀ l ∈ s'.mem.l2, l.die ≠ r)
  ∧ (4 ≤ r → ∀ l ∈ s'.mem.l2, l.state = .s → l.expiry ≠ 0 → quadOfLine l.pa ≠ r - 4)

@[simp] theorem State.writeRecord_time (s : State) (d : Nat) (f : RecordFields) : (s.writeRecord d f).time = s.time := by
  rw [State.writeRecord_only]

@[simp] theorem State.writeRecord_mem (s : State) (d : Nat) (f : RecordFields) : (s.writeRecord d f).mem = s.mem := by
  rw [State.writeRecord_only]

@[simp] theorem State.unholdFills_time (s : State) (p : Grant → Bool) : (s.unholdFills p).time = s.time := rfl
@[simp] theorem State.unholdFills_mem (s : State) (p : Grant → Bool) : (s.unholdFills p).mem = s.mem := rfl

@[simp] theorem State.giveUp_time (s : State) (p : L2Line → Bool) : (s.giveUp p).time = s.time := by
  obtain ⟨honly, -⟩ := s.giveUp_spec p
  rw [honly]

/-- The lines that a die's L2 has after lines were given up. -/
theorem State.mem_giveUp_l2 {s : State} {p : L2Line → Bool} {l : L2Line} (hl : l ∈ (s.giveUp p).mem.l2) : p l = false := by
  obtain ⟨-, hl2, -⟩ := s.giveUp_spec p
  rw [hl2] at hl
  simpa using (List.mem_filter.mp hl).2

/-- Of package time a fence touches its receiver alone. -/
theorem State.fence_time (s : State) (r : Nat) :
    (s.fence r).time = (s.modReceiver r (fun x => { x with fenced := true, fencedAt := s.time.hub, lowEchoes := 0 })).time := by
  unfold State.fence
  dsimp only
  split <;> simp

/-- A fenced die's caches are empty. -/
theorem State.fence_drops_die (s : State) {r : Nat} (hr : r < 4) :
    (∀ l ∈ (s.fence r).mem.l1, l.place.die ≠ r) ∧ ∀ l ∈ (s.fence r).mem.l2, l.die ≠ r := by
  unfold State.fence
  dsimp only
  rw [if_pos hr]
  simp only [State.writeRecord_mem, State.modMem_mem, State.unholdFills_mem]
  constructor
  · intro l hl
    simpa using (List.mem_filter.mp hl).2
  · intro l hl
    simpa using State.mem_giveUp_l2 hl

/-- Of a fenced quadrant's lines no leased copy is left. -/
theorem State.fence_drops_leases (s : State) {r : Nat} (hr : 4 ≤ r) :
    ∀ l ∈ (s.fence r).mem.l2, l.state = .s → l.expiry ≠ 0 → quadOfLine l.pa ≠ r - 4 := by
  unfold State.fence
  dsimp only
  rw [if_neg (by omega)]
  simp only [State.writeRecord_mem, State.unholdFills_mem]
  intro l hl hstate hexpiry
  simpa [hstate, hexpiry] using State.mem_giveUp_l2 hl

theorem State.fence_fencedNow {s : State} {r : Nat} {x : Receiver} (hx : s.time.receivers[r]? = some x) :
    FencedNow (s.fence r) r s.time.hub := by
  refine ⟨?_, s.fence_drops_die, s.fence_drops_leases⟩
  rw [State.fence_time]
  exact ⟨_, State.modReceiver_getElem? hx _, rfl, rfl⟩

/-- A die is unfenced: its receiver counts no low echo. -/
theorem State.unfence_getElem? {s : State} {r : Nat} {x : Receiver} (hx : s.time.receivers[r]? = some x) (hr : r < 4) :
    (s.unfence r).time.receivers[r]? = some { x with fenced := false, lowEchoes := 0 } := by
  unfold State.unfence
  dsimp only
  rw [if_pos hr]
  exact State.modReceiver_getElem? hx _

/-! ### Echoes (R21, R315) -/

section Echo
variable {s : State} {r : Nat} {x : Receiver} (hx : s.time.receivers[r]? = some x)
  {v left : Nat} {rest : List (Nat × Nat)} (he : x.echoes = (v, left) :: rest)
include hx he

/-- An echo answers in one of three ways: at a receiver that is not fenced, at a fenced one on a low lag, and on one that is not low. -/
theorem timeEcho_eq : exec (.timeEcho r) s =
    let s1 := s.modReceiver r (fun x => { x with echoes := rest, echoAt := s.time.hub })
    if !x.fenced then .next (if s.time.hub - v > s.time.hubBand then s1.fence r else s1)
    else if 2 * (s.time.hub - v) < s.time.hubBand then
      if x.lowEchoes + 1 ≥ 16 then .next (s1.unfence r) else .next (s1.modReceiver r (fun x => { x with lowEchoes := x.lowEchoes + 1 }))
    else .next (s1.modReceiver r (fun x => { x with lowEchoes := 0 })) := by
  change execTimeEcho r s = _
  simp only [execTimeEcho, hx, he]

/-- At a receiver that is not fenced: lag beyond the guard band fences. -/
theorem timeEcho_unfenced (hf : x.fenced = false) : ∃ s', exec (.timeEcho r) s = .next s'
    ∧ (s.time.hub - v ≤ s.time.hubBand → s' = s.withReceiver r { x with echoes := rest, echoAt := s.time.hub })
    ∧ (s.time.hubBand < s.time.hub - v → FencedNow s' r s.time.hub) := by
  refine ⟨_, (timeEcho_eq hx he).trans (by rw [hf]; rfl), ?_, ?_⟩
  · intro hlag
    rw [if_neg (by omega), State.modReceiver_eq_withReceiver hx]
  · intro hlag
    rw [if_pos hlag]
    exact State.fence_fencedNow (State.modReceiver_getElem? hx _)

/-- At a fenced receiver: low echoes in a row are counted. -/
theorem timeEcho_fenced_counts (hf : x.fenced = true) (hlow : s.time.hubBand ≤ 2 * (s.time.hub - v) ∨ x.lowEchoes < 15) :
    exec (.timeEcho r) s = .next (s.withReceiver r { x with
      echoes := rest, echoAt := s.time.hub, lowEchoes := if 2 * (s.time.hub - v) < s.time.hubBand then x.lowEchoes + 1 else 0 }) := by
  rw [timeEcho_eq hx he]
  dsimp only
  rw [if_neg (by simp [hf])]
  split
  next hlag => rw [if_neg (by omega), State.modReceiver_modReceiver hx]
  next hlag => rw [State.modReceiver_modReceiver hx]

/-- At a fenced receiver: the sixteenth low echo in a row unfences. -/
theorem timeEcho_fenced_unfences (hf : x.fenced = true) (hlag : 2 * (s.time.hub - v) < s.time.hubBand) (hlow : 15 ≤ x.lowEchoes) :
    exec (.timeEcho r) s = .next ((s.modReceiver r (fun x => { x with echoes := rest, echoAt := s.time.hub })).unfence r) := by
  rw [timeEcho_eq hx he]
  dsimp only
  rw [if_neg (by simp [hf]), if_pos hlag, if_pos (by omega)]

/-- At a fenced receiver: what an echo leaves, counted or unfenced. -/
theorem timeEcho_fenced (hf : x.fenced = true) : ∃ s', exec (.timeEcho r) s = .next s'
    ∧ (s.time.hubBand ≤ 2 * (s.time.hub - v) ∨ x.lowEchoes < 15 → s' = s.withReceiver r { x with
        echoes := rest, echoAt := s.time.hub, lowEchoes := if 2 * (s.time.hub - v) < s.time.hubBand then x.lowEchoes + 1 else 0 })
    ∧ (2 * (s.time.hub - v) < s.time.hubBand → 15 ≤ x.lowEchoes → r < 4 → ∃ y, s'.time.receivers[r]? = some y
        ∧ y = { x with echoes := rest, echoAt := s.time.hub, fenced := false, lowEchoes := 0 }) := by
  by_cases hlow : s.time.hubBand ≤ 2 * (s.time.hub - v) ∨ x.lowEchoes < 15
  · exact ⟨_, timeEcho_fenced_counts hx he hf hlow, fun _ => rfl, fun _ _ => by omega⟩
  · refine ⟨_, timeEcho_fenced_unfences hx he hf (by omega) (by omega), fun h => absurd h hlow, fun _ _ hr => ⟨_, ?_, rfl⟩⟩
    exact State.unfence_getElem? (State.modReceiver_getElem? hx _) hr

end Echo

theorem echoSilenceTimeout_next {s : State} {r : Nat} {x : Receiver} (hx : s.time.receivers[r]? = some x) (hf : x.fenced = false)
    (hstage : 4 ≤ s.host.stage) (hsilent : x.echoAt + s.time.hubBand < s.time.hub) :
    exec (.echoSilenceTimeout r) s = .next (s.fence r) := by
  have : s.silent r = true := by simp [State.silent, State.receiver_of_getElem? hx, hf, hstage, hsilent]
  change execEchoSilenceTimeout r s = _
  simp [execEchoSilenceTimeout, hx, hf, this]

theorem dieFenceTimeout_next {s : State} {r : Nat} {x : Receiver} (hx : s.time.receivers[r]? = some x) (hr : r < 4)
    (hf : x.fenced = true) (hlong : x.fencedAt + 10000000 ≤ s.time.hub) {cores : List Place}
    (hcores : cores = allCores.filter (fun p => p.die == r && !s.host.lostCores.contains p)) (hne : cores ≠ []) :
    exec (.dieFenceTimeout r) s
      = .next ((cores.foldl State.failCore s).modReceiver r (fun x => { x with fencedAt := s.time.hub })) := by
  change execDieFenceTimeout r s = _
  unfold execDieFenceTimeout
  dsimp only
  rw [← hcores, State.receiver_of_getElem? hx, if_neg]
  simp [hf, hne]
  omega

/-! ### The guard band (R25, R26) -/

section Guard
variable {s : State} {v : BitVec 64} (hstage : 6 ≤ s.host.stage)
include hstage

theorem guardWrite_refuses (hv : v.toNat % 64 < 1 ∨ 32 < v.toNat % 64) :
    exec (.guardWrite v) s = .next { s with time := { s.time with gberr := true } } := by
  change execGuardWrite v s = _
  simp only [execGuardWrite, fld_eq, Nat.reducePow, Nat.div_one]
  rw [if_neg (by omega), if_pos hv]

/-- A value from 1 to 32 outside a change is scheduled; bit 7 clears GBERR. -/
theorem guardWrite_schedules (hlo : 1 ≤ v.toNat % 64) (hhi : v.toNat % 64 ≤ 32) (hc : s.time.change = none) :
    exec (.guardWrite v) s
      = .next { s with time := ({ s.time with gberr := s.time.gberr && !v.getLsbD 7 } : TimeState).schedule (v.toNat % 64) } := by
  change execGuardWrite v s = _
  simp only [execGuardWrite, fld_eq, bit_getLsbD, Nat.reducePow, Nat.div_one, hc]
  rw [if_neg (by omega), if_neg (by omega)]

/-- A value from 1 to 32 during a change is held. -/
theorem guardWrite_holds (hlo : 1 ≤ v.toNat % 64) (hhi : v.toNat % 64 ≤ 32) {c : GuardChange} (hc : s.time.change = some c)
    (hduring : s.time.hub < c.at_ + 256) :
    exec (.guardWrite v) s = .next { s with time := { s.time with
      gberr := s.time.gberr && !v.getLsbD 7, change := some { c with held := some (v.toNat % 64) } } } := by
  change execGuardWrite v s = _
  simp only [execGuardWrite, fld_eq, bit_getLsbD, Nat.reducePow, Nat.div_one, hc]
  rw [if_neg (by omega), if_neg (by omega), if_pos hduring]

end Guard

/-- A receiver whose copy has reached a change keeps its value. -/
theorem guardEffective_next {s : State} {r : Nat} {x : Receiver} (hx : s.time.receivers[r]? = some x) {c : Nat × Nat}
    {rest : List (Nat × Nat)} (hc : x.changes = c :: rest) (hreached : c.1 ≤ x.copy) :
    exec (.guardEffective r) s = .next (s.withReceiver r { x with guard := c.2, changes := rest, horizon := x.reach }) := by
  have hsettle : x.settle = { x with guard := c.2, changes := rest, horizon := x.reach } := by
    simp only [Receiver.settle, hc, if_pos hreached]
  change execGuardEffective r s = _
  simp only [execGuardEffective, State.receiver_of_getElem? hx, hc, if_pos hreached]
  rw [State.modReceiver_eq_withReceiver hx, hsettle]

theorem guardTransitionEnd_next {s : State} {c : GuardChange} (hc : s.time.change = some c) (hover : c.at_ + 256 ≤ s.time.hub) :
    exec .guardTransitionEnd s = .next { s with time := s.time.endChange c } := by
  change execGuardTransitionEnd s = _
  simp only [execGuardTransitionEnd, hc]
  rw [if_neg (by omega)]

/-! ### Leases (R23, R259) -/

theorem leaseExpiry_next {s : State} {die asid slot line : Nat} {l : L2Line} (hl : l ∈ s.mem.l2)
    (hat : l.isAt die asid slot line = true) (hstate : l.state = .s) (hexpiry : l.expiry ≠ 0) :
    exec (.leaseExpiry die asid slot line) s = .next (s.giveUp (fun x => x.isAt die asid slot line)) := by
  have hany : s.mem.l2.any (fun l => l.isAt die asid slot line && l.state == .s && l.expiry != 0) = true :=
    List.any_eq_true.mpr ⟨l, hl, by simp [hat, hstate, hexpiry]⟩
  exact if_pos hany

/-- A line that is nowhere in the L2s is not found. -/
theorem State.l2?_eq_none {s : State} {die asid slot line : Nat} (h : ∀ k ∈ s.mem.l2, k.isAt die asid slot line = false) :
    s.l2? die asid slot line = none := by
  rw [State.l2?, List.find?_eq_none]
  intro k hk
  simp [h k hk]

/-! ### The cadence unit (R430, R431, R432) -/

theorem EnergyState.write_eq (e : EnergyState) (v : BitVec 64) :
    e.write v.toNat =
      let limit := v.toNat % 2 ^ 13
      let capus := v.toNat / 2 ^ 32 % 2 ^ 16
      if limit < 1 ∨ 4800 < limit ∨ capus = 0 then { e with limerr := true }
      else { e with limit, capus, limerr := e.limerr && !v.getLsbD 31 } := by
  simp only [EnergyState.write, fld_eq, bit_getLsbD, Nat.pow_zero, Nat.div_one]

theorem cadenceWrite_next {s : State} {v : BitVec 64} (hstage : 6 ≤ s.host.stage) (hdue : s.time.hub < s.energy.lastTick + 1000) :
    exec (.cadenceWrite v) s = .next { s with energy := s.energy.write v.toNat } := by
  have hgo : ¬((decide (s.host.stage < 6) || s.tickDue) = true) := by simp [State.tickDue]; omega
  exact if_neg hgo

/-- The account lies within its capacity either way (R431). -/
def EnergyState.InRange (e : EnergyState) : Prop := -(e.capacity : Int) ≤ e.account ∧ e.account ≤ e.capacity

theorem clamp_bounds (c a : Int) (hc : 0 ≤ c) : -c ≤ max (-c) (min c a) ∧ max (-c) (min c a) ≤ c := by omega

/-- The account after a whole microsecond, its registers' values in force from now on. -/
def EnergyState.tick (e : EnergyState) (spent : Nat) : EnergyState :=
  let e := { e with capusNow := e.capus, limitNow := e.limit, lastTick := e.lastTick + 1000 }
  { e with account := e.clamp (e.account + (e.limitNow : Int) - (spent : Int)) }

theorem EnergyState.tick_inRange (e : EnergyState) (spent : Nat) : (e.tick spent).InRange :=
  clamp_bounds _ _ (Int.natCast_nonneg _)

/-- What the dies measured attributed to their teams: the state, and the energy that is no team's. -/
def State.attributeAll (s : State) (unattributed : Nat) (measured : List (Nat × Nat)) : State × Nat :=
  measured.foldl (fun acc m => ((acc.1.attribute m.1 m.2).1, acc.2 + (acc.1.attribute m.1 m.2).2)) (s, unattributed)

/-- The state after the account's step, before teams that have ended are settled. -/
def State.ticked (s : State) (unattributed : Nat) (measured : List (Nat × Nat)) : State :=
  let a := s.attributeAll unattributed measured
  let e := s.energy.tick a.2
  { a.1 with energy := e, teams := a.1.teams.map (fun m => { m with beats := 0 })
             time := { a.1.time with khz := a.1.time.khz.map (clockAfter e) } }

/-- The state after CADENCE_TICK: the account's step, then the settling of teams that ended in its instant. -/
def State.tickedSettled (s : State) (unattributed : Nat) (measured : List (Nat × Nat)) : State :=
  ((s.ticked unattributed measured).teams.filter (·.settling)).foldl State.settleNow (s.ticked unattributed measured)

theorem cadenceTick_next {s : State} {unattributed : Nat} {measured : List (Nat × Nat)} (hstage : 3 ≤ s.host.stage)
    (hdue : s.energy.lastTick + 1000 ≤ s.time.hub) :
    exec (.cadenceTick unattributed measured) s
      = .next (s.tickedSettled unattributed measured) := by
  have hgo : ¬((decide (s.host.stage < 3) || decide (s.time.hub < s.energy.lastTick + 1000)) = true) := by simp; omega
  exact if_neg hgo

/-- Attributing a die's energy changes the teams alone, and none in whether it settles. -/
theorem State.attribute_only (s : State) (die uj : Nat) :
    ∃ ts, (s.attribute die uj).1 = { s with teams := ts } ∧ ts.map (·.settling) = s.teams.map (·.settling) := by
  unfold State.attribute
  dsimp only
  split
  · exact ⟨_, rfl, rfl⟩
  · refine ⟨_, rfl, ?_⟩
    rw [List.map_map]
    refine List.map_congr_left fun m _ => ?_
    simp only [Function.comp_apply]
    split <;> rfl

theorem State.attributeAll_only (s : State) (unattributed : Nat) (measured : List (Nat × Nat)) :
    ∃ ts, (s.attributeAll unattributed measured).1 = { s with teams := ts } ∧ ts.map (·.settling) = s.teams.map (·.settling) := by
  induction measured generalizing s unattributed with
  | nil => exact ⟨_, rfl, rfl⟩
  | cons m ms ih =>
    obtain ⟨ts, hone, hsettle⟩ := s.attribute_only m.1 m.2
    obtain ⟨us, hrest, hsettles⟩ := ih (s.attribute m.1 m.2).1 (unattributed + (s.attribute m.1 m.2).2)
    rw [hone] at hsettles
    exact ⟨us, hrest.trans (by rw [hone]), hsettles.trans hsettle⟩

/-- Without a team that settles, none does after the account's step. -/
theorem State.ticked_settling {s : State} (h : ∀ m ∈ s.teams, m.settling = false) (unattributed : Nat) (measured : List (Nat × Nat)) :
    (s.ticked unattributed measured).teams.filter (·.settling) = [] := by
  obtain ⟨ts, honly, hsettles⟩ := s.attributeAll_only unattributed measured
  have hnone : ∀ b ∈ ts.map (·.settling), b = false := by
    rw [hsettles]
    exact List.forall_mem_map.mpr h
  rw [State.ticked, honly, List.filter_eq_nil_iff]
  intro k hk
  obtain ⟨m, hm, rfl⟩ := List.mem_map.mp hk
  simpa using hnone _ (List.mem_map_of_mem hm)

theorem State.tickedSettled_eq {s : State} (h : ∀ m ∈ s.teams, m.settling = false) (unattributed : Nat) (measured : List (Nat × Nat)) :
    s.tickedSettled unattributed measured = s.ticked unattributed measured := by
  rw [State.tickedSettled, State.ticked_settling h, List.foldl_nil]

/-- The values written to CADENCE bound the account from its step on (R430, R431). -/
theorem State.ticked_capacity (s : State) (unattributed : Nat) (measured : List (Nat × Nat)) :
    ((s.ticked unattributed measured).energy.capacity : Int) = s.energy.capus * s.energy.limit :=
  Nat.cast_mul _ _

/-- The clocks that the account's step leaves (R432). -/
theorem State.ticked_khz (s : State) (unattributed : Nat) (measured : List (Nat × Nat)) :
    (s.ticked unattributed measured).time.khz = s.time.khz.map (clockAfter (s.ticked unattributed measured).energy) := by
  obtain ⟨ts, honly, -⟩ := s.attributeAll_only unattributed measured
  simp only [State.ticked, honly]

theorem forall_mem_modFirst {α : Type} {P : α → Prop} (p : α → Bool) {f : α → α} (hf : ∀ x, P x → P (f x)) :
    ∀ {l : List α}, (∀ x ∈ l, P x) → ∀ x ∈ modFirst p f l, P x
  | [], _ => by simp [modFirst]
  | y :: ys, h => by
    obtain ⟨hy, hys⟩ := List.forall_mem_cons.mp h
    unfold modFirst
    split
    · exact List.forall_mem_cons.mpr ⟨hf y hy, hys⟩
    · exact List.forall_mem_cons.mpr ⟨hy, forall_mem_modFirst p hf hys⟩

/-- What holds of the account and the teams from its step on, while teams are settled: e is the account as the step leaves it. -/
structure TickDone (e : EnergyState) (s : State) : Prop where
  energy : s.energy = { e with account := s.energy.account }
  inRange : s.energy.InRange
  beats : ∀ m ∈ s.teams, m.beats = 0

theorem TickDone.capacity {e : EnergyState} {s : State} (h : TickDone e s) : s.energy.capacity = e.capacity := by
  rw [h.energy]
  rfl

theorem State.ticked_tickDone (s : State) (unattributed : Nat) (measured : List (Nat × Nat)) :
    TickDone (s.ticked unattributed measured).energy (s.ticked unattributed measured) := by
  refine ⟨rfl, s.energy.tick_inRange _, fun k hk => ?_⟩
  obtain ⟨m, -, rfl⟩ := List.mem_map.mp hk
  rfl

@[simp] theorem State.settleNow_teams (s : State) (m : Team) :
    (s.settleNow m).teams = modFirst (fun x => x.id == m.id) (fun m => { m with settling := false }) s.teams := rfl

theorem State.settleNow_energy (s : State) (m : Team) :
    (s.settleNow m).energy = { s.energy with account := (s.settleNow m).energy.account } := rfl

theorem State.settleNow_inRange (s : State) (m : Team) : (s.settleNow m).energy.InRange :=
  clamp_bounds _ _ (Int.natCast_nonneg _)

theorem TickDone.settleNow {e : EnergyState} {s : State} (h : TickDone e s) (m : Team) : TickDone e (s.settleNow m) := by
  obtain ⟨henergy, -, hbeats⟩ := h
  refine ⟨?_, s.settleNow_inRange m, ?_⟩
  · rw [State.settleNow_energy, henergy]
  · rw [State.settleNow_teams]
    refine forall_mem_modFirst _ ?_ hbeats
    exact fun _ hb => hb

theorem TickDone.settleAll {e : EnergyState} (ms : List Team) : ∀ {s : State}, TickDone e s → TickDone e (ms.foldl State.settleNow s) := by
  induction ms with
  | nil => exact id
  | cons m ms ih => exact fun h => ih (h.settleNow m)

/-! ### Reset (R415, R472) -/

/-- No queue has been written: each descriptor is that of reset, within the table and beyond it. -/
theorem State.reset_queue (q : Nat) : State.reset.queue q = {} := by
  change (List.replicate 256 ({} : Queue)).getD q {} = {}
  rw [List.getD_eq_getElem?_getD, List.getElem?_replicate]
  split <;> rfl

end Sys2Proof.Machine

namespace Sys2Proof.Claims
open Sys2Proof.Machine

/-- Settles O60: each field of State.reset has its reset value, and no queue and no address space has been written. -/
theorem resetState : Obligations.ResetState := by
  unfold Obligations.ResetState
  have hslots : ∀ n, 1 ≤ n → n ≤ 15 → (({ id := 0 } : Asid).vslots.getD n ⟨true, 0, 0⟩) = ⟨false, 0, 0⟩ := by decide
  refine ⟨rfl, rfl, rfl, rfl, ?_, rfl, rfl, rfl, rfl, rfl, rfl, rfl, ?_, ?_, rfl, rfl, rfl, rfl, rfl, ?_⟩
  · intro x hx
    rw [List.eq_of_mem_replicate hx]
    exact ⟨rfl, rfl, rfl⟩
  · intro q
    rw [State.reset_queue q]
    decide
  · exact fun a => ⟨rfl, hslots⟩
  · exact fun g hg => absurd hg List.not_mem_nil

/-- Settles O50: each event of package time and of the cadence unit has, where its condition holds, the effect that its lemma gives. -/
theorem timeEvents : Obligations.TimeEvents := by
  unfold Obligations.TimeEvents
  intro s r x hx
  refine ⟨?send, ?arrival, ?echo, ?silence, ?fence, ?guard, ?effective, ?transition, ?lease, ?write, ?tick⟩
  case send =>
    intro hstage htick hchange hrec
    exact ⟨_, timeTokenSend_next hstage (State.mayReach_of htick hchange hrec), rfl, rfl, rfl, s.time.reach_dclk_bounds s.time.nextToken⟩
  case arrival => exact fun v rest ht => ⟨timeTokenArrival_next hx ht, rfl⟩
  case echo =>
    intro v left rest he
    cases hf : x.fenced with
    | false =>
      obtain ⟨s', hnext, hspec⟩ := timeEcho_unfenced hx he hf
      refine ⟨s', hnext, fun _ => ?_, fun h => by simp at h⟩
      rw [← hf]; exact hspec
    | true =>
      obtain ⟨s', hnext, hspec⟩ := timeEcho_fenced hx he hf
      refine ⟨s', hnext, fun h => by simp at h, fun _ => ?_⟩
      rw [← hf]; exact hspec
  case silence => exact fun hf hstage hsilent => ⟨_, echoSilenceTimeout_next hx hf hstage hsilent, State.fence_fencedNow hx⟩
  case fence => exact fun hr hf hlong cores hcores hne => dieFenceTimeout_next hx hr hf hlong hcores hne
  case guard =>
    intro v hstage
    exact ⟨guardWrite_refuses hstage, guardWrite_schedules hstage, fun c hlo hhi hc hduring => guardWrite_holds hstage hlo hhi hc hduring⟩
  case effective => exact fun c rest hc hreached => ⟨_, guardEffective_next hx hc hreached, rfl, rfl, rfl⟩
  case transition =>
    intro c hc hover
    rw [guardTransitionEnd_next hc hover, TimeState.endChange]
    cases c.held <;> rfl
  case lease =>
    intro asid slot line l hl hat hstate hexpiry
    have hgone : ∀ k ∈ (s.giveUp (fun x => x.isAt r asid slot line)).mem.l2, k.isAt r asid slot line = false :=
      fun k hk => State.mem_giveUp_l2 hk
    exact ⟨_, leaseExpiry_next hl hat hstate hexpiry, State.l2?_eq_none hgone, hgone⟩
  case write =>
    intro v hstage hdue
    rw [cadenceWrite_next hstage hdue, EnergyState.write_eq]
  case tick =>
    intro rest measured hstage hdue
    have hdone : TickDone (s.ticked rest measured).energy (s.tickedSettled rest measured) := (s.ticked_tickDone rest measured).settleAll _
    refine ⟨_, cadenceTick_next hstage hdue, ⟨?_, ?_, ?_, ?_, ?_, ?_, ?_⟩, hdone.beats⟩
    · rw [hdone.energy]; rfl
    · rw [hdone.energy]; rfl
    · rw [hdone.energy]; rfl
    · rw [← s.ticked_capacity rest measured, ← hdone.capacity]; exact hdone.inRange.1
    · rw [← s.ticked_capacity rest measured, ← hdone.capacity]; exact hdone.inRange.2
    · intro hmeasured hsettled
      subst hmeasured
      rw [State.tickedSettled_eq hsettled, ← s.ticked_capacity rest []]
      rfl
    · intro hsettled
      rw [State.tickedSettled_eq hsettled, ← s.ticked_capacity rest measured]
      exact s.ticked_khz rest measured

end Sys2Proof.Claims

/-! SUPPORT. Leaving a crew, votes and ballots, and the slice scheduler (spec/04 R105-R120, R128-R135): what a thread masked off leaves of
the crews, which bits a ballot's mask holds, which crew wins a decision and what the decision does to each crew, then each word and event
where its condition holds. -/
namespace Sys2Proof.Machine

/-! ### Leaving a crew (R105, R128-R131) -/

/-- A record is found by its key where no key repeats. -/
theorem find?_key_of_mem {α : Type} {key : α → Nat} {l : List α} (hd : (l.map key).Nodup) {x : α} (hx : x ∈ l) :
    l.find? (fun y => key y == key x) = some x := by
  have hsome : (l.find? (fun y => key y == key x)).isSome := List.find?_isSome.mpr ⟨x, hx, by simp⟩
  obtain ⟨y, hy⟩ := Option.isSome_iff_exists.mp hsome
  have hkey : key y = key x := by simpa using List.find?_some hy
  rw [hy, List.inj_on_of_nodup_map hd (List.mem_of_find?_eq_some hy) hx hkey]

theorem modFirst_map_key {α : Type} {key : α → Nat} (p : α → Bool) {f : α → α} (hf : ∀ x, key (f x) = key x) (l : List α) :
    (modFirst p f l).map key = l.map key := by
  induction l with
  | nil => rfl
  | cons x xs ih => unfold modFirst; split <;> simp [hf, ih]

/-- A crew without one of its members. -/
def Crew.without (c : Crew) (tid : Nat) : Crew := { c with members := c.members.filter (fun m => m.tid != tid) }

@[simp] theorem Crew.without_id (c : Crew) (tid : Nat) : (c.without tid).id = c.id := rfl

/-- A thread with the copy and the step of a crew that it leaves. -/
def Thread.takeCopy (t : Thread) (c : Crew) : Thread := { t with q := c.q, step := c.step }

theorem State.leaveCrew_eq {s : State} {tid : Nat} {c : Crew} (hc : s.crewOf tid = some c) :
    s.leaveCrew tid = { s with
      threads := (s.modThread tid (·.takeCopy c)).threads
      crews := (s.modCrew c.id (·.without tid)).crews.filter (fun d => !d.members.isEmpty) } := by
  rw [State.leaveCrew, hc]
  rfl

theorem State.crewOf_mem {s : State} {tid : Nat} {c : Crew} (hc : s.crewOf tid = some c) : c ∈ s.crews :=
  List.mem_of_find?_eq_some hc

theorem State.crew?_of_mem {s : State} (hd : (s.crews.map (·.id)).Nodup) {c : Crew} (hc : c ∈ s.crews) : s.crew? c.id = some c :=
  find?_key_of_mem hd hc

/-- The crew that a thread has left, where it still stands, is the crew before without that thread. -/
theorem State.crew?_leaveCrew {s : State} {tid : Nat} {c d : Crew} (hc : s.crewOf tid = some c) (hd : (s.crews.map (·.id)).Nodup)
    (h : (s.leaveCrew tid).crew? c.id = some d) : d = c.without tid := by
  rw [State.leaveCrew_eq hc] at h
  have hmem : d ∈ (s.modCrew c.id (·.without tid)).crews := (List.mem_filter.mp (List.mem_of_find?_eq_some h)).1
  have hid : d.id = c.id := by simpa using List.find?_some h
  have hids : ((s.modCrew c.id (·.without tid)).crews.map (·.id)).Nodup := by
    rwa [State.modCrew_crews, modFirst_map_key _ (Crew.without_id · tid)]
  have hfound : (s.modCrew c.id (·.without tid)).crew? c.id = some d := hid ▸ State.crew?_of_mem hids hmem
  rw [State.crew?_modCrew _ _ _ _ (Crew.without_id · tid), if_pos rfl, State.crew?_of_mem hd (State.crewOf_mem hc)] at hfound
  exact (Option.some.inj hfound).symm

theorem Crew.not_mem_without (c : Crew) (tid : Nat) : tid ∉ (c.without tid).members.map (·.tid) := by
  simp [Crew.without]

@[simp] theorem State.crew?_maskOff (s : State) (tid k : Nat) : (s.maskOff tid).crew? k = (s.leaveCrew tid).crew? k := rfl

/-- Masking off touches the thread and its crew alone (R130). -/
theorem State.maskOff_only {s : State} {tid : Nat} {c : Crew} (hc : s.crewOf tid = some c) :
    s.maskOff tid = { s with threads := (s.maskOff tid).threads, crews := (s.maskOff tid).crews } := by
  rw [State.maskOff, State.leaveCrew_eq hc]
  rfl

/-- A thread masked off keeps all but its status and the copy and step of the crew it leaves; every other thread is as it was (R130). -/
theorem State.thread?_maskOff {s : State} {tid : Nat} {c : Crew} (hc : s.crewOf tid = some c) (u : Nat) :
    (s.maskOff tid).thread? u =
      if u = tid then (s.thread? tid).map (fun t => { t.takeCopy c with status := .exiting }) else s.thread? u := by
  have hleave : ∀ v, (s.leaveCrew tid).thread? v = if v = tid then (s.thread? tid).map (·.takeCopy c) else s.thread? v := fun v => by
    rw [State.leaveCrew_eq hc]
    exact State.thread?_modThread s tid v (·.takeCopy c) (fun _ => rfl)
  have hmask : (s.maskOff tid).thread? u = _ :=
    State.thread?_modThread (s.leaveCrew tid) tid u (fun t => { t with status := .exiting }) (fun _ => rfl)
  rw [hmask, hleave, hleave, if_pos rfl, Option.map_map]
  split <;> rfl

theorem exitVerdict_pass {t : Thread} (h : ∀ f ∈ t.faults, t.faultHere f = false) : exitVerdict t = .pass := by
  have hnone : t.faults.any t.faultHere = false := by simpa using h
  simp [exitVerdict, hnone]

theorem exec_exit_next {s : State} {i : IssueCtx} (hi : s.ctl.issue = some i)
    (hsettled : Each i (fun t => ∀ f ∈ t.faults, t.faultHere f = false)) :
    exec .exit s = .next (s.each i.parts (fun s t => s.maskOff t.id)) := by
  change execExit s = _
  unfold execExit
  exact issueWord_runs _ _ hi fun t ht => exitVerdict_pass (hsettled t ht)

theorem exec_ret_next {s : State} {i : IssueCtx} (hi : s.ctl.issue = some i)
    (hsettled : Each i (fun t => t.ctx.link = BitVec.allOnes 64 → ∀ f ∈ t.faults, t.faultHere f = false)) :
    exec .ret s = .next (s.each i.parts (fun s t =>
      if t.ctx.link = BitVec.allOnes 64 then s.maskOff t.id else s.jump t.id t.ctx.link.toNat 0)) := by
  change execRet s = _
  simp only [execRet, linkEnd, beq_iff_eq]
  refine issueWord_runs _ _ hi fun t ht => ?_
  split
  · exact exitVerdict_pass (hsettled t ht ‹_›)
  · rfl

theorem exec_reform_next {s : State} {i : IssueCtx} (hi : s.ctl.issue = some i) :
    exec .reform s = .next (
      let s := s.modThreads i.parts (fun _ live => live.goto (i.pkt + 1) 0)
      match s.crew? i.crew with
      | none => s
      | some c => (c.members.map (·.tid)).foldl State.fileFromCrew s) := by
  change execReform s = _
  unfold execReform
  exact issueWord_runs _ _ hi fun _ _ => rfl

/-! ### Votes and ballots (R134, R135) -/

/-- The truth value that a vote of mode m makes of the participants' predicates. -/
def voteOf (m : Nat) (vs : List Bool) : Bool :=
  match m with
  | 0 => vs.all id
  | 1 => vs.any id
  | _ => vs.all id || !vs.any id

theorem exec_vote_next {s : State} {i : IssueCtx} (d a : BitVec 6) (m : BitVec 2) (hi : s.ctl.issue = some i) :
    exec (.vote d a m) s = .next (s.modThreads i.parts (fun _ live =>
      live.setPred d.toNat (voteOf m.toNat (i.parts.map (fun t => t.ctx.preds.getLsbD a.toNat))))) := by
  change execVote d a m s = _
  unfold execVote
  exact issueWord_runs _ _ hi fun _ _ => rfl

/-- Bit k of a sum of distinct powers of two is set where 2^k is among them. -/
theorem testBit_sum_two_pow {l : List Nat} (hl : l.Nodup) (k : Nat) : (l.map (2 ^ ·)).sum.testBit k = true ↔ k ∈ l := by
  rw [← List.sum_toFinset _ hl, ← Nat.mem_bitIndices, ← List.mem_toFinset, Finset.toFinset_bitIndices_sum_two_pow, List.mem_toFinset]

/-- The members of a crew that are participants whose predicate a is true. -/
def ballotMembers (c : Crew) (ps : List Thread) (a : Nat) : List Member :=
  c.members.filter (fun m => ps.any (fun t => t.id == m.tid && t.ctx.pred a))

theorem ballotMask_eq_sum {s : State} {crew : Nat} {c : Crew} (hc : s.crew? crew = some c) (ps : List Thread) (a : Nat) :
    ballotMask s crew ps a = (((ballotMembers c ps a).map (·.slot)).map (2 ^ ·)).sum := by
  rw [List.sum_eq_foldl, List.foldl_map, List.foldl_map]
  simp only [ballotMask, hc]
  rfl

theorem mem_ballotMembers {c : Crew} {ps : List Thread} {a : Nat} {x : Member} :
    x ∈ ballotMembers c ps a ↔ x ∈ c.members ∧ ∃ t ∈ ps, t.id = x.tid ∧ t.ctx.preds.getLsbD a = true := by
  simp [ballotMembers, Ctx.pred]

/-- The mask has the bits of exactly those slots (R135). -/
theorem ballotMask_testBit {s : State} {crew : Nat} {c : Crew} (hc : s.crew? crew = some c) (hslots : (c.members.map (·.slot)).Nodup)
    (ps : List Thread) (a k : Nat) :
    (ballotMask s crew ps a).testBit k = true ↔
      ∃ x ∈ c.members, x.slot = k ∧ ∃ t ∈ ps, t.id = x.tid ∧ t.ctx.preds.getLsbD a = true := by
  have hd : ((ballotMembers c ps a).map (·.slot)).Nodup := hslots.sublist (List.filter_sublist.map _)
  rw [ballotMask_eq_sum hc, testBit_sum_two_pow hd]
  simp only [List.mem_map, mem_ballotMembers]
  exact ⟨fun ⟨x, ⟨hx, ht⟩, hk⟩ => ⟨x, hx, hk, ht⟩, fun ⟨x, hx, hk, ht⟩ => ⟨x, ⟨hx, ht⟩, hk⟩⟩

theorem exec_ballot_next {s : State} {i : IssueCtx} (d a : BitVec 6) (m : BitVec 2) (hi : s.ctl.issue = some i)
    (hfree : Free i [] [.vv d i.pfx.ud]) :
    let result := BitVec.ofNat 64 (if m = 0 then ballotMask s i.crew i.parts a.toNat else popcount 32 (ballotMask s i.crew i.parts a.toNat))
    exec (.ballot d a m) s = .next (if i.pfx.ud then s.modCrew i.crew (fun c => { c with q := c.q.set d.toNat result })
      else s.modThreads i.parts (fun t live => live.write ((Operand.vv d i.pfx.ud).off t 0 0) (natToBytes 8 result.toNat))) := by
  intro result
  change execBallot d a m s = _
  simp only [execBallot, State.pfx_of hi]
  rw [issueWord_runs (hi := hi)]
  · cases hud : i.pfx.ud <;> rfl
  · exact fun t ht => operandVerdict_pass (hfree t ht)

/-! ### Crews changed one by one -/

/-- A change made to each crew of a list. -/
def State.modCrews (s : State) (cs : List Crew) (f : Crew → Crew) : State := cs.foldl (fun s c => s.modCrew c.id f) s

section ModCrews
variable {f : Crew → Crew} (hf : ∀ c, (f c).id = c.id)
include hf

theorem State.crew?_modCrews_other (cs : List Crew) {k : Nat} (hk : k ∉ cs.map (·.id)) :
    ∀ s : State, (s.modCrews cs f).crew? k = s.crew? k := by
  induction cs with
  | nil => exact fun _ => rfl
  | cons c cs ih =>
    obtain ⟨hne, hrest⟩ := not_or.mp (List.mem_cons.not.mp hk)
    intro s
    rw [State.modCrews, List.foldl_cons, ← State.modCrews, ih hrest, State.crew?_modCrew _ _ _ _ hf, if_neg hne]

theorem State.crew?_modCrews {cs : List Crew} (hd : (cs.map (·.id)).Nodup) {c : Crew} (hc : c ∈ cs) :
    ∀ s : State, (s.modCrews cs f).crew? c.id = (s.crew? c.id).map f := by
  induction cs with
  | nil => exact absurd hc List.not_mem_nil
  | cons d ds ih =>
    obtain ⟨hnot, hds⟩ := List.nodup_cons.mp hd
    intro s
    rw [State.modCrews, List.foldl_cons, ← State.modCrews]
    rcases List.mem_cons.mp hc with rfl | hin
    · rw [State.crew?_modCrews_other hf ds hnot, State.crew?_modCrew _ _ _ _ hf, if_pos rfl]
    · have hne : c.id ≠ d.id := fun h => hnot (List.mem_map.mpr ⟨c, hin, h⟩)
      rw [ih hds hin, State.crew?_modCrew _ _ _ _ hf, if_neg hne]

end ModCrews

/-! ### The active set (R110, R114) -/

/-- A crew found, changed: it is the changed one, and every other crew is as it was. -/
theorem State.crew?_modCrew_found {s : State} {c : Crew} (hc : s.crew? c.id = some c) {f : Crew → Crew} (hf : ∀ x, (f x).id = x.id) :
    (s.modCrew c.id f).crew? c.id = some (f c) ∧ ∀ d, d ≠ c.id → (s.modCrew c.id f).crew? d = s.crew? d := by
  refine ⟨?_, fun d hd => ?_⟩
  · rw [State.crew?_modCrew _ _ _ _ hf, if_pos rfl, hc, Option.map_some]
  · rw [State.crew?_modCrew _ _ _ _ hf, if_neg hd]

/-- A crew as it stands at the tail of its slice's queue from now on, its ticket the next number (R110, R114). -/
def State.atTail (s : State) (c : Crew) : Crew :=
  { c with lane := none, ticket := s.ctl.nextId, notReadySince := none
           queuedAt := match s.team? c.team with | some m => s.dclk m.place.die | none => 0 }

section Active
variable {s : State} {c : Crew} {m : Team} (hc : s.crew? c.id = some c) (hm : s.team? c.team = some m) (hdie : s.dieFenced m.place.die = false)

include hc in
/-- A crew put back stands at the tail of its queue from now on; every other crew is as it was (R114). -/
theorem State.crew?_requeue :
    (s.requeue c.id).crew? c.id = some (s.atTail c) ∧ ∀ d, d ≠ c.id → (s.requeue c.id).crew? d = s.crew? d :=
  State.crew?_modCrew_found (s := s.newId.2) hc (f := s.atTail) (fun _ => rfl)

include hm in
theorem State.atTail_eq :
    s.atTail c = { c with lane := none, ticket := s.ctl.nextId, queuedAt := s.dclk m.place.die, notReadySince := none } := by
  rw [State.atTail, hm]

include hc hm hdie

theorem crewActivate_next {lane : Nat} (hres : m.status = .resident) (hin : c ∈ s.crewQueue m.place c.slice)
    (hhead : ∀ d ∈ s.crewQueue m.place c.slice, queueBefore d c = false) (hfree : s.laneFree m.place c.slice lane = true) :
    exec (.crewActivate c.id lane) s
      = .next (s.modCrew c.id (fun c => { c with lane := some lane, entered := s.dclk m.place.die, notReadySince := none })) := by
  have hqueued : (s.crewQueue m.place c.slice).any (fun x => x.id == c.id) = true := List.any_eq_true.mpr ⟨c, hin, beq_self_eq_true _⟩
  have hfirst : (s.crewQueue m.place c.slice).any (fun x => queueBefore x c) = false := by simpa using hhead
  change execCrewActivate c.id lane s = _
  simp [execCrewActivate, hc, hm, hdie, hres, hqueued, hfirst, hfree]

theorem crewNotReadyTimeout_next {since : Nat} (hsince : c.notReadySince = some since) (hlane : c.lane ≠ none)
    (hnot : s.crewMay c = false ∨ c.stalled = true) (hlong : since + 512 ≤ s.dclk m.place.die)
    (hwaiting : s.crewQueue m.place c.slice ≠ []) : exec (.crewNotReadyTimeout c.id) s = .next (s.requeue c.id) := by
  have hready : (s.crewMay c && !c.stalled) = false := by rcases hnot with h | h <;> simp [h]
  change execCrewNotReadyTimeout c.id s = _
  simp [execCrewNotReadyTimeout, hc, hm, hsince, hlane, hdie, hready, hlong, hwaiting]

theorem crewResidencyTimeout_next (hlane : c.lane ≠ none) (hlong : c.entered + 2048 ≤ s.dclk m.place.die)
    (hwaited : ∃ d ∈ s.crewQueue m.place c.slice, d.queuedAt + 2048 ≤ s.dclk m.place.die)
    (hearliest : ∀ d ∈ s.crewsAt m.place c.slice, d.lane ≠ none → c.entered ≤ d.entered) :
    exec (.crewResidencyTimeout c.id) s = .next (s.requeue c.id) := by
  have hany : (s.crewQueue m.place c.slice).any (fun x => decide (s.dclk m.place.die ≥ x.queuedAt + 2048)) = true := by simpa using hwaited
  have hnone : (s.crewsAt m.place c.slice).any (fun x => x.lane.isSome && decide (x.entered < c.entered)) = false := by
    simpa [Option.isSome_iff_ne_none] using hearliest
  change execCrewResidencyTimeout c.id s = _
  simp [execCrewResidencyTimeout, hc, hm, hlane, hdie, hlong, hany, hnone]

end Active

/-- A member off-path too long, at its crew's decision point: all members are filed (R120, R234). -/
theorem strayTimeout_next {s : State} {c : Crew} {m : Team} {x : Member} {since lane : Nat} (hm : s.team? c.team = some m)
    (hdie : s.dieFenced m.place.die = false) (hcrew : s.crewOf x.tid = some c)
    (hx : c.members.find? (fun y => y.tid == x.tid) = some x) (hsince : x.offSince = some since)
    (hoff : (s.activeOf c).contains x.tid = false) (hparked : c.parked = []) (hlane : c.lane = some lane)
    (hthrough : (s.laneAt m.place c.slice lane).busyUntil ≤ s.dclk m.place.die)
    (hlong : since + m.regs.binctl.toNat / 65536 % 65536 ≤ s.dclk m.place.die) :
    exec (.strayTimeout x.tid) s = .next ((c.members.map (·.tid)).foldl State.fileFromCrew s) := by
  change execStrayTimeout x.tid s = _
  simp only [execStrayTimeout, hcrew, hm, hx, hsince, hlane, hparked, hdie, hoff, fld_eq, Nat.reducePow]
  rw [if_neg]
  simp [hthrough, hlong]

/-! ### Bins drawn by age and for an idle slice (R116) -/

section Draws
variable {s : State} {b : Bin} (hb : s.bin? b.id = some b) (hdie : s.dieFenced b.place.die = false)
include hb hdie

theorem binAgeDraw_next (hage : b.oldest + s.binAge b ≤ s.dclk b.place.die) :
    exec (.binAgeDraw b.id) s = .next ((s.binSlices b).foldl (fun s k => s.drawSlice b.id k) s) := by
  change execBinAgeDraw b.id s = _
  simp [execBinAgeDraw, hb, hdie, hage]

theorem binIdleDraw_next {slice lane oldest : Nat} (hold : s.binOldest b slice = some oldest) (hfree : s.laneFree b.place slice lane = true)
    (hidle : s.crewQueue b.place slice = []) (hfirst : ∀ d ∈ s.bins, d.place = b.place → ∀ k, s.binOldest d slice = some k → oldest ≤ k) :
    exec (.binIdleDraw b.id slice lane) s = .next (s.drawSlice b.id slice) := by
  have hnone : ((s.bins.filter (fun x => x.place == b.place)).filterMap (fun x => s.binOldest x slice)).any (fun r => decide (r < oldest)) = false := by
    rw [List.any_eq_false]
    intro r hr
    obtain ⟨d, hd, hrd⟩ := List.mem_filterMap.mp hr
    obtain ⟨hin, hplace⟩ := List.mem_filter.mp hd
    simpa using hfirst d hin (eq_of_beq hplace) r hrd
  change execBinIdleDraw b.id slice lane s = _
  simp only [execBinIdleDraw, hb, hold, hdie, hfree, hidle, hnone]
  rfl

end Draws

/-! ### The slice scheduler (R111) -/

section Wins
variable {a b : Crew}

theorem crewWins_of_loss (ha : a.loss = 3) (hb : b.loss ≠ 3) : crewWins a b = true ∧ crewWins b a = false := by
  simp [crewWins, ha, hb]

theorem crewWins_of_gaveWay (ha : a.loss ≠ 3) (hb : b.loss ≠ 3) (hag : a.gaveWay = false) (hbg : b.gaveWay = true) :
    crewWins a b = true ∧ crewWins b a = false := by
  simp [crewWins, ha, hb, hag, hbg]

/-- Steps 1 and 2 of R111 do not part two crews: both have LOSS 3, or neither has and both gave way or neither did. -/
def Crew.EvenWith (a b : Crew) : Prop := (a.loss = 3 ∧ b.loss = 3) ∨ (a.loss ≠ 3 ∧ b.loss ≠ 3 ∧ a.gaveWay = b.gaveWay)

theorem Crew.EvenWith.symm (h : a.EvenWith b) : b.EvenWith a :=
  h.imp And.symm fun ⟨ha, hb, hg⟩ => ⟨hb, ha, hg.symm⟩

/-- Step 3 of R111: the issue that lies further back, then the earlier entry. -/
def Crew.furtherBack (a b : Crew) : Bool :=
  match a.lastIssue, b.lastIssue with
  | none, none => decide (a.entered ≤ b.entered)
  | none, some _ => true
  | some _, none => false
  | some x, some y => if x = y then decide (a.entered ≤ b.entered) else decide (x < y)

theorem crewWins_of_even (h : a.EvenWith b) : crewWins a b = a.furtherBack b := by
  have hloss : ¬((a.loss == 3) != (b.loss == 3)) = true := by
    rcases h with ⟨ha, hb⟩ | ⟨ha, hb, -⟩ <;> simp [ha, hb]
  have hgave : ¬(a.loss != 3 && a.gaveWay != b.gaveWay) = true := by
    rcases h with ⟨ha, -⟩ | ⟨-, -, hg⟩
    · simp [ha]
    · simp [hg]
  rw [crewWins, if_neg hloss, if_neg hgave]
  rfl

theorem Crew.furtherBack_of_never (ha : a.lastIssue = none) {y : Nat} (hb : b.lastIssue = some y) :
    a.furtherBack b = true ∧ b.furtherBack a = false := by
  simp [Crew.furtherBack, ha, hb]

theorem Crew.furtherBack_of_lt {x y : Nat} (ha : a.lastIssue = some x) (hb : b.lastIssue = some y) (h : x < y) :
    a.furtherBack b = true ∧ b.furtherBack a = false := by
  simp only [Crew.furtherBack, ha, hb, if_neg h.ne, if_neg h.ne']
  simp [h, h.le]

theorem Crew.furtherBack_of_entered (hlast : a.lastIssue = b.lastIssue) (h : a.entered < b.entered) :
    a.furtherBack b = true ∧ b.furtherBack a = false := by
  simp only [Crew.furtherBack, hlast]
  cases b.lastIssue <;> simp [h, h.le]

/-- Step 3 parts two crews that steps 1 and 2 do not. -/
theorem crewWins_of_furtherBack (he : a.EvenWith b) (h : a.furtherBack b = true ∧ b.furtherBack a = false) :
    crewWins a b = true ∧ crewWins b a = false := by
  rwa [crewWins_of_even he, crewWins_of_even he.symm]

end Wins

theorem winner_mem {l : List Crew} {w : Crew} (h : winner l = some w) : w ∈ l := by
  induction l with
  | nil => simp [winner] at h
  | cons c rest ih =>
    cases hr : winner rest with
    | none => simp only [winner, hr] at h; simp [Option.some.inj h]
    | some d =>
      simp only [winner, hr] at h
      split at h
      · simp [Option.some.inj h]
      · exact List.mem_cons_of_mem _ (ih (hr.trans h))

/-- A crew that wins over every other of a list is its winner. -/
theorem winner_eq {l : List Crew} {c : Crew} (hd : (l.map (·.id)).Nodup) (hc : c ∈ l)
    (hbest : ∀ d ∈ l, d.id ≠ c.id → crewWins d c = false ∧ crewWins c d = true) : winner l = some c := by
  induction l with
  | nil => exact absurd hc List.not_mem_nil
  | cons x rest ih =>
    obtain ⟨hnot, hrest⟩ := List.nodup_cons.mp hd
    have hne : ∀ y ∈ rest, y.id ≠ x.id := fun y hy h => hnot (List.mem_map.mpr ⟨y, hy, h⟩)
    rcases List.mem_cons.mp hc with rfl | hin
    · cases hr : winner rest with
      | none => simp [winner, hr]
      | some d =>
        have hd := winner_mem hr
        simp [winner, hr, (hbest d (List.mem_cons_of_mem _ hd) (hne d hd)).2]
    · have hr := ih hrest hin fun d hd => hbest d (List.mem_cons_of_mem _ hd)
      simp [winner, hr, (hbest x List.mem_cons_self (hne c hin).symm).1]

/-- The crews of a lane that are ready at a decision point. -/
def State.readyAt (s : State) (p : Place) (slice lane : Nat) : List Crew := (s.activeSet p slice lane).filter s.crewMay

/-- The state after the crews of a lane that are not ready have been passed over. -/
def State.idlePassed (s : State) (p : Place) (slice lane : Nat) : State :=
  ((s.activeSet p slice lane).filter (fun d => !s.crewMay d)).foldl State.passOver s

/-- A decision with a winner: the others that are ready lose once more, and the winner issues next (R111). -/
theorem schedulerDecision_next {s : State} {p : Place} {slice lane : Nat} {w : Crew} (hw : winner (s.readyAt p slice lane) = some w)
    (hfocus : s.ctl.focus = none) (hworks : (s.laneAt p slice lane).failed = false)
    (hthrough : (s.laneAt p slice lane).busyUntil ≤ s.dclk p.die) :
    exec (.schedulerDecision p slice lane) s
      = .next (((s.idlePassed p slice lane).modCrews (s.readyAt p slice lane) (·.decided w.id)).modCtl (fun x => { x with focus := some w.id })) := by
  have hgo : ¬((s.ctl.focus.isSome || (s.laneAt p slice lane).failed || decide (s.dclk p.die < (s.laneAt p slice lane).busyUntil)) = true) := by
    simp [hfocus, hworks, hthrough]
  rw [State.readyAt] at hw
  change execSchedulerDecision p slice lane s = _
  simp only [execSchedulerDecision, List.partition_eq_filter_filter]
  rw [if_neg hgo, hw]
  rfl

theorem Crew.decided_loss_winner (c : Crew) : (c.decided c.id).loss = 0 := by simp [Crew.decided]

theorem Crew.decided_loss_other {c : Crew} {w : Nat} (h : c.id ≠ w) : (c.decided w).loss = min 3 (c.loss + 1) := by simp [Crew.decided, h]

end Sys2Proof.Machine

namespace Sys2Proof.Claims
open Sys2Proof.Machine

/-- Settles O27: each of the three words has the effect that its lemma gives, and masking off changes the
thread and the crew it leaves, nothing else. -/
theorem leavingACrew : Obligations.LeavingACrew := by
  unfold Obligations.LeavingACrew
  refine ⟨⟨fun s i hi hsettled => exec_exit_next hi hsettled, fun s i hi hsettled => exec_ret_next hi hsettled,
    fun s i hi _ => exec_reform_next hi⟩, ?_⟩
  intro s t c ht hc
  refine ⟨?_, fun u hu => ?_, fun hd d hfound => ?_, State.maskOff_only hc⟩
  · rw [State.thread?_maskOff hc, if_pos rfl, ht]
    rfl
  · rw [State.thread?_maskOff hc, if_neg hu]
  · rw [State.crew?_maskOff] at hfound
    rw [State.crew?_leaveCrew hc hd hfound]
    exact ⟨c.not_mem_without t.id, rfl⟩

/-- Settles O28: a vote's value follows its mode, and a ballot's mask is the sum of distinct powers of two. -/
theorem votesAndBallots : Obligations.VotesAndBallots := by
  unfold Obligations.VotesAndBallots
  refine ⟨fun d a m _ => ?_, fun d a m _ => ⟨fun s i hi hfree => exec_ballot_next d a m hi hfree,
    fun s i c k hc hslots => ballotMask_testBit hc hslots i.parts a.toNat k⟩⟩
  intro p s i hi _
  rw [exec_vote_next d a m hi]
  match m.toNat with
  | 0 => simp [voteOf, p]
  | 1 => simp [voteOf, p]
  | n + 2 => simp [voteOf, p, List.not_any_eq_all_not]

/-- Settles O51: each event of crews, bins and lanes has the effect that its lemma gives, and the order of two ready crews is R111's. -/
theorem schedulingEvents : Obligations.SchedulingEvents := by
  unfold Obligations.SchedulingEvents
  refine ⟨?events, ?order⟩
  case order =>
    intro a b
    refine ⟨crewWins_of_loss, crewWins_of_gaveWay, fun heven => ⟨fun hfurther => ?_, fun hlast hentered =>
      crewWins_of_furtherBack heven (Crew.furtherBack_of_entered hlast hentered)⟩⟩
    apply crewWins_of_furtherBack heven
    cases ha : a.lastIssue <;> cases hb : b.lastIssue <;> simp only [ha, hb] at hfurther
    · exact Crew.furtherBack_of_never ha hb
    · exact Crew.furtherBack_of_lt ha hb hfurther
  case events =>
    intro s c m hc hm hdie
    have htail := State.crew?_requeue hc
    rw [State.atTail_eq hm] at htail
    refine ⟨?activate, ?notReady, ?residency, ?decision, ?stray, ?bins⟩
    case activate =>
      intro lane hres hin hhead hfree
      exact ⟨_, crewActivate_next hc hm hdie hres hin hhead hfree, State.crew?_modCrew_found hc (fun _ => rfl)⟩
    case notReady =>
      intro since hsince hlane hnot hlong hwaiting
      exact ⟨_, crewNotReadyTimeout_next hc hm hdie hsince hlane hnot hlong hwaiting, htail⟩
    case residency =>
      intro hlane hlong hwaited hearliest
      exact ⟨_, crewResidencyTimeout_next hc hm hdie hlane hlong hwaited hearliest, htail⟩
    case decision =>
      intro lane ready hready hin passed hd hkept hbest hfocus hworks hthrough
      subst hready
      have hid : ∀ d : Crew, (d.decided c.id).id = d.id := fun _ => rfl
      have hafter : ∀ d ∈ s.readyAt m.place c.slice lane,
          (passed.modCrews (s.readyAt m.place c.slice lane) (·.decided c.id)).crew? d.id = some (d.decided c.id) := fun d hmem =>
        (State.crew?_modCrews hid hd hmem passed).trans (congrArg _ (hkept d hmem))
      refine ⟨_, c.decided c.id, schedulerDecision_next (winner_eq hd hin hbest) hfocus hworks hthrough, rfl, hafter c hin,
        c.decided_loss_winner, fun d hmem hne => ⟨_, hafter d hmem, Crew.decided_loss_other hne⟩, fun k hk => ?_⟩
      exact State.crew?_modCrews_other hid _ hk passed
    case stray =>
      rintro x since hcrew hx hsince hoff hparked ⟨lane, hlane, hthrough⟩ hlong
      exact strayTimeout_next hm hdie hcrew hx hsince hoff hparked hlane hthrough hlong
    case bins =>
      exact fun b hb hfenced => ⟨binAgeDraw_next hb hfenced, fun slice lane oldest hold hfree hidle hfirst =>
        binIdleDraw_next hb hfenced hold hfree hidle hfirst⟩

end Sys2Proof.Claims

/-! SUPPORT. What the part's writes of its own records leave of the state (R137, R140): memory, the rights of fills and the free choices
differ, nothing else. -/
namespace Sys2Proof.Machine

/-! ### Records written at the home (R137, R140, R266) -/

/-- Only memory, words in flight and the count of free choices differ: what a write at the home may touch. -/
def OnlyHome (s s' : State) : Prop :=
  s' = { s with mem := s'.mem, flights := s'.flights, ctl := { s.ctl with fresh := s'.ctl.fresh } }

theorem OnlyHome.refl (s : State) : OnlyHome s s := rfl

theorem OnlyHome.trans {a b c : State} (h : OnlyHome a b) (k : OnlyHome b c) : OnlyHome a c := by
  unfold OnlyHome at *; rw [k, h]

theorem OnlyMem.onlyHome {a b : State} (h : OnlyMem a b) : OnlyHome a b := by
  unfold OnlyMem at h; rw [h]; rfl

section
variable {s s' : State} (h : OnlyHome s s')
include h

theorem OnlyHome.threads : s'.threads = s.threads := (congrArg State.threads (h : s' = _) :)
theorem OnlyHome.teams : s'.teams = s.teams := (congrArg State.teams (h : s' = _) :)
theorem OnlyHome.grids : s'.grids = s.grids := (congrArg State.grids (h : s' = _) :)

end

theorem State.modMem_onlyHome (s : State) (f : MemoryState → MemoryState) : OnlyHome s (s.modMem f) := rfl

theorem State.recall_onlyHome (s : State) (pl : Nat) : OnlyHome s (s.recall pl) :=
  OnlyHome.trans (s.giveUp_spec _).1.onlyHome (State.unholdFills_only _ _)

theorem State.physWrite_onlyHome (s : State) (pa : Nat) (bs : List Byte) : OnlyHome s (s.physWrite pa bs) := by
  unfold State.physWrite
  split <;> exact State.modMem_onlyHome _ _

theorem State.snoop_onlyHome (s : State) (pl : Nat) : OnlyHome s (s.snoop pl).2 := by
  unfold State.snoop
  dsimp only
  repeat' split
  all_goals rfl

theorem State.storeRun_onlyHome (s : State) (p : Page) (va : Nat) (bs : List Byte) : OnlyHome s (s.storeRun p va bs).2 := by
  have hwrite : ∀ (x : State) (f : MemoryState → MemoryState) (vt : State → Nat),
      let y := ((x.recall (lineOf (p.phys va))).physWrite (p.phys va) bs).modMem f
      OnlyHome x (y.noteHome (vt y)) := fun x f vt =>
    (((x.recall_onlyHome _).trans (State.physWrite_onlyHome _ _ _)).trans (State.modMem_onlyHome _ f)).trans (State.modMem_onlyHome _ _)
  unfold State.storeRun
  dsimp only
  split
  · exact .refl s
  · split
    · split
      · exact s.snoop_onlyHome _
      · exact (s.snoop_onlyHome _).trans (hwrite _ _ fun y => y.homeVisibility _)
    · exact hwrite _ _ fun y => y.homeVisibility _

theorem State.recordWrite_onlyHome (s : State) (asid va : Nat) (bs : List Byte) : OnlyHome s (s.recordWrite asid va bs) := by
  unfold State.recordWrite
  refine List.foldlRecOn _ _ (OnlyHome.refl s) fun x hx r _ => hx.trans ?_
  dsimp only
  split
  · exact .refl x
  · split
    · exact State.modMem_onlyHome _ _
    · split
      next heq => exact (heq ▸ x.storeRun_onlyHome _ _ _ : OnlyHome x (_, _).2)
      next heq => exact (heq ▸ x.storeRun_onlyHome _ _ _ : OnlyHome x (_, _).2).trans (State.modMem_onlyHome _ _)

theorem State.storeFrame_onlyHome (s : State) (tid : Nat) : OnlyHome s (s.storeFrame tid) := by
  unfold State.storeFrame
  split
  · exact .refl s
  · split
    · exact s.recordWrite_onlyHome _ _ _
    · exact .refl s

@[simp] theorem State.thread?_storeFrame (s : State) (tid u : Nat) : (s.storeFrame tid).thread? u = s.thread? u := by
  simp only [State.thread?, (s.storeFrame_onlyHome tid).threads]

@[simp] theorem State.storeFrame_teams (s : State) (tid : Nat) : (s.storeFrame tid).teams = s.teams := (s.storeFrame_onlyHome tid).teams
@[simp] theorem State.storeFrame_grids (s : State) (tid : Nat) : (s.storeFrame tid).grids = s.grids := (s.storeFrame_onlyHome tid).grids

end Sys2Proof.Machine

/-! SUPPORT. Checks of words at issue, barriers and convergence registers (spec/05 R156-R159): the conditions under which each check passes,
what an arrival and a release do, then each word where its conditions hold. -/
namespace Sys2Proof.Machine

/-! ### Checks of words at issue (R54, R57, R148) -/

theorem State.waitFor_pass {s : State} {tid : Nat} {p : Flight → Bool} (h : NoneOutstanding s tid p) : s.waitFor tid p = .pass := by
  unfold State.waitFor
  cases ht : s.thread? tid with
  | none => rfl
  | some t =>
    obtain ⟨hfaulted, hposted, hflights⟩ := h t ht
    have hlate : t.faults.any (fun f => t.faultHere f && (p f || f.posted)) = false := by
      rw [List.any_eq_false]
      intro f hf
      have hp : p f = false := hfaulted f (List.mem_append_left _ hf)
      cases hhere : t.faultHere f
      · simp
      · simp [hp, hposted f hf hhere]
    have hnone : (s.flightsOf tid).any p = false := by
      rw [List.any_eq_false]
      intro f hf
      obtain ⟨hin, htids⟩ := List.mem_filter.mp hf
      simp [hflights f hin (by simpa using htids)]
    have hkept : t.faulted.any p = false := by simpa using hfaulted
    dsimp only
    rw [hlate, hnone, hkept]
    rfl

theorem State.accessesDone_pass {s : State} {tid : Nat} (h : NoneOutstanding s tid Flight.isAccess) : s.accessesDone tid = .pass :=
  State.waitFor_pass h

theorem State.slotVerdict_pass {s : State} {tid sb n : Nat} (h : SlotFree s tid sb n) : s.slotVerdict tid sb n = .pass := by
  unfold State.slotVerdict
  cases ht : s.thread? tid with
  | none => rfl
  | some t => exact (Verdict.await_pass _).mpr (decide_eq_true (h t ht))

/-- Of the `q` copy alone nothing poisoned is read. -/
theorem poisonVerdict_pass_q {t : Thread} {q : QCopy} {r : Nat × Nat} (h : Untouched r q.poison) : poisonVerdict t q [] [r] = .pass :=
  poisonVerdict_pass (by simp) (by simpa using h)

theorem verPoison_pass {i : IssueCtx} {t : Thread} (h : i.pfx.verMode = 1 → Untouched (8 * i.pfx.verSel, 3) i.beforeQ.poison) :
    verPoison i t = .pass := by
  unfold verPoison
  split
  next hmode => exact poisonVerdict_pass_q (h hmode)
  next => rfl

/-- With no reason to wait in any participant, a word that reads at issue waits for nothing. -/
theorem waits_eq_nil {α β : Type} (checked : Bool) {ps : List α} {f : α → Option β} (h : ∀ t ∈ ps, f t = none) :
    (if checked then [] else ps.filterMap f) = [] := by
  rw [List.filterMap_eq_nil_iff.mpr h, ite_self]

/-! ### Barriers (R156) -/

theorem fld_zero (v n : Nat) : fld v 0 n = v % 2 ^ n := by rw [fld_eq, Nat.pow_zero, Nat.div_one]

theorem barCount_eq (i : IssueCtx) (d : BitVec 6) : barCount i d = (i.beforeQ.get d.toNat).toNat % 2 ^ 32 := fld_zero _ _

/-- The count of a barrier word is in order, no byte of it is poisoned, and its participants' accesses are done. -/
def BarrierFree (d : BitVec 6) (limit : Nat) (s : State) (i : IssueCtx) : Prop :=
  1 ≤ barCount i d ∧ barCount i d ≤ limit ∧ Untouched (8 * d.toNat, 4) i.beforeQ.poison
    ∧ Each i (fun t => NoneOutstanding s t.id Flight.isAccess)

theorem barVerdict_pass {d : BitVec 6} {limit : Nat} {s : State} {i : IssueCtx} (h : BarrierFree d limit s i) {t : Thread} (ht : t ∈ i.parts) :
    barVerdict s i t d limit = .pass := by
  obtain ⟨hlo, hhi, hpoison, hdone⟩ := h
  simp only [barVerdict, Verdict.andThen_pass, Verdict.require_pass]
  exact ⟨⟨State.accessesDone_pass (hdone t ht), poisonVerdict_pass_q hpoison⟩, by simp [hlo, hhi]⟩

/-- An arrival's mark is the largest of the thread's TM and what it has been reconciled against, as it stands (R147). -/
theorem State.arrivalOf_eq (s : State) (i : IssueCtx) (d : BitVec 6) (t : Thread) :
    s.arrivalOf i d t = { tid := t.id, count := barCount i d, tm := ((s.thread? t.id).getD t).outMark } := by
  unfold State.arrivalOf
  cases s.thread? t.id <;> rfl

/-- What an arrival leaves at barrier n of its thread's team. -/
def State.arriveBar (s : State) (t : Thread) (n : Nat) (x : Arrival) : State :=
  match s.team? t.team with
  | none => s
  | some m =>
    let r := (m.bars.getD n {}).arrive x
    ((s.modTeam m.id (fun m => { m with bars := modAt (fun _ => r.1) n m.bars })).setBcmis t r.2.2).releaseAll r.2.1

/-- What an arrival leaves at barrier n of its grid's teams on its hardware cluster. -/
def State.arriveCbar (s : State) (t : Thread) (n : Nat) (x : Arrival) : State :=
  match s.gridOf t with
  | none => s
  | some g =>
    let r := (g.clusterBarrier (s.placeOf t) n).arrive x
    ((s.modGrid g.event (fun g => g.setClusterBarrier (s.placeOf t) n r.1)).setBcmis t r.2.2).releaseAll r.2.1

/-- What an arrival leaves at barrier n of its grid: it waits on its die to be reported. -/
def State.arriveDbar (s : State) (t : Thread) (n : Nat) (x : Arrival) : State :=
  match s.gridOf t with
  | none => s
  | some g =>
    let b := g.bars.getD n {}
    let b := { b with count := if b.count = 0 then x.count else b.count, dies := b.dies ++ [((s.placeOf t).die, x)] }
    s.modGrid g.event (fun g => { g with bars := modAt (fun _ => b) n g.bars })

section
variable {d : BitVec 6} {s : State} {i : IssueCtx} (n : BitVec 14) (hi : s.ctl.issue = some i)
include hi

theorem exec_bar_next (h : BarrierFree d 1024 s i) :
    exec (.bar d n) s = .next (s.each i.parts (fun s t => s.arriveBar t n.toNat (s.arrivalOf i d t))) := by
  change execBar d n s = _
  exact issueWord_runs _ _ hi fun _ ht => barVerdict_pass h ht

theorem exec_cbar_next (h : BarrierFree d 8192 s i) :
    exec (.cbar d n) s = .next (s.each i.parts (fun s t => s.arriveCbar t n.toNat (s.arrivalOf i d t))) := by
  change execCbar d n s = _
  exact issueWord_runs _ _ hi fun _ ht => barVerdict_pass h ht

theorem exec_dbar_next (h : BarrierFree d 524288 s i) :
    exec (.dbar d n) s = .next (s.each i.parts (fun s t => s.arriveDbar t n.toNat (s.arrivalOf i d t))) := by
  change execDbar d n s = _
  exact issueWord_runs _ _ hi fun _ ht => barVerdict_pass h ht

end

/-! ### An arrival and a release (R156) -/

/-- The count of the generation that an arrival comes to. -/
def Barrier.countWith (b : Barrier) (x : Arrival) : Nat := (b.arrived.head?.getD x).count

theorem Barrier.arrive_eq (b : Barrier) (x : Arrival) :
    b.arrive x = if b.countWith x ≤ b.arrived.length + 1 then ({}, b.arrived ++ [x], decide (x.count ≠ b.countWith x))
      else ({ arrived := b.arrived ++ [x] }, [], decide (x.count ≠ b.countWith x)) := by
  cases harrived : b.arrived with
  | nil => simp [Barrier.arrive, Barrier.countWith, harrived]
  | cons y ys => simp [Barrier.arrive, Barrier.countWith, harrived, bne, beq_eq_decide]

/-- The mark that a release gives: the largest of its arrivals'. -/
def releaseMark (l : List Arrival) : Nat := l.foldl (fun a x => max a x.tm) 0

/-- The mark is one of the arrivals', or 0, and none of them is larger. -/
theorem releaseMark_spec (l : List Arrival) : releaseMark l ∈ 0 :: l.map (·.tm) ∧ ∀ n ∈ 0 :: l.map (·.tm), n ≤ releaseMark l := by
  rw [← List.max?_eq_some_iff, List.max?_cons', releaseMark, List.foldl_map]

theorem le_releaseMark {l : List Arrival} {y : Arrival} (hy : y ∈ l) : y.tm ≤ releaseMark l :=
  (releaseMark_spec l).2 _ (List.mem_cons_of_mem _ (List.mem_map_of_mem hy))

theorem exists_tm_eq_releaseMark {l : List Arrival} (hl : l ≠ []) : ∃ y ∈ l, y.tm = releaseMark l := by
  rcases List.mem_cons.mp (releaseMark_spec l).1 with hzero | hmem
  · obtain ⟨y, hy⟩ := List.exists_mem_of_ne_nil l hl
    exact ⟨y, hy, by have := le_releaseMark hy; omega⟩
  · obtain ⟨y, hy, htm⟩ := List.mem_map.mp hmem
    exact ⟨y, hy, htm⟩

/-- A change made to each thread of a list of numbers. -/
def State.modEach (s : State) (ids : List Nat) (f : Thread → Thread) : State := ids.foldl (fun s u => s.modThread u f) s

/-- A thread is changed as often as its number stands in the list. -/
theorem State.thread?_modEach {f : Thread → Thread} (hf : ∀ t, (f t).id = t.id) (ids : List Nat) (u : Nat) :
    ∀ s : State, (s.modEach ids f).thread? u = (s.thread? u).map f^[ids.count u] := by
  induction ids with
  | nil => simp [State.modEach]
  | cons k ks ih =>
    intro s
    rw [State.modEach, List.foldl_cons, ← State.modEach, ih, State.thread?_modThread _ _ _ _ hf]
    by_cases hu : u = k
    · subst hu
      rw [if_pos rfl, Option.map_map, List.count_cons_self, Function.iterate_succ]
    · rw [if_neg hu, List.count_cons_of_ne (Ne.symm hu)]

theorem State.releaseAll_eq (s : State) (l : List Arrival) :
    s.releaseAll l = s.modEach (l.map (·.tid)) (·.addEdge (releaseMark l)) := by
  rw [State.modEach, List.foldl_map]
  rfl

/-- A release in which no thread stands twice gives each of its threads the edge, and leaves every other thread as it was. -/
theorem State.thread?_releaseAll {l : List Arrival} (hd : (l.map (·.tid)).Nodup) {s : State} {u : Nat} {t : Thread} (ht : s.thread? u = some t) :
    (s.releaseAll l).thread? u = some (if u ∈ l.map (·.tid) then t.addEdge (releaseMark l) else t) := by
  have hid : ∀ x : Thread, (x.addEdge (releaseMark l)).id = x.id := fun _ => rfl
  rw [State.releaseAll_eq, State.thread?_modEach hid, ht, hd.count]
  split <;> rfl

/-! ### Convergence registers (R158, R159) -/

theorem exec_cvdecl_next {s : State} {i : IssueCtx} (d a : BitVec 6) (base : BitVec 8) (hi : s.ctl.issue = some i)
    (hpoison : Untouched (8 * a.toNat, 4) i.beforeQ.poison)
    (hfree : Each i (fun t => (s.cv t d.toNat).signed = 0 ∨ (s.cv t d.toNat).repeats ((i.beforeQ.get a.toNat).setWidth 32) base.toNat = true)) :
    exec (.cvdecl d a base) s = .next (
      let mask := (i.beforeQ.get a.toNat).setWidth 32
      s.each i.parts (fun s t => s.modCv t.team d.toNat (fun c =>
        if c.signed ≠ 0 then c else if mask = 0 then {} else { mask, base := base.toNat, decl := true }))) := by
  change execCvdecl d a base s = _
  simp only [execCvdecl, BitVec.ofNat_toNat, bne_iff_ne, beq_iff_eq]
  refine issueWord_runs _ _ hi fun t ht => ?_
  simp only [Verdict.andThen_pass, Verdict.require_pass]
  exact ⟨poisonVerdict_pass_q hpoison, by simpa using hfree t ht⟩

theorem exec_sign_next {s : State} {i : IssueCtx} (d : BitVec 6) (hi : s.ctl.issue = some i)
    (hfree : Each i (fun t => ∃ k, (s.cv t d.toNat).memberOf t = some k ∧ (s.cv t d.toNat).signed.getLsbD k = false
      ∧ ((s.cv t d.toNat).signed = 0 ∨ (s.cv t d.toNat).word = i.signedWord))) :
    exec (.sign d) s = .next (s.each i.parts (fun s t => s.modCv t.team d.toNat (fun c => match c.memberOf t with
      | none => c
      | some k => { c with word := if c.signed = 0 then i.signedWord else c.word, signed := c.signed ||| BitVec.ofNat 32 (2 ^ k) }))) := by
  change execSign d s = _
  simp only [execSign, beq_iff_eq]
  refine issueWord_runs _ _ hi fun t ht => ?_
  obtain ⟨k, hk, hunsigned, hsame⟩ := hfree t ht
  simp only [hk, hunsigned]
  simpa [Verdict.require_pass] using hsame

end Sys2Proof.Machine

namespace Sys2Proof.Claims
open Sys2Proof.Machine

/-- Settles O37: each word of barriers and convergence registers has the effect that its lemma gives, and a release gives each of its
threads an edge with the largest mark among them. -/
theorem groupWords : Obligations.GroupWords := by
  unfold Obligations.GroupWords
  refine ⟨fun d a n base => ?words, fun b x s => ?arrivals⟩
  case words =>
    intro count ok arrival
    have hcount : ∀ i, barCount i d = count i := fun i => barCount_eq i d
    have hfree : ∀ {limit s i}, ok limit s i → BarrierFree d limit s i := fun {_ _ i} h => by
      rwa [BarrierFree, hcount i]
    have harrival : ∀ s i t, s.arrivalOf i d t = arrival s i t := fun s i t => by
      rw [State.arrivalOf_eq, hcount i]; rfl
    refine ⟨?bar, ?cbar, ?dbar, fun s i hi ⟨hpoison, hfree⟩ => exec_cvdecl_next d a base hi hpoison hfree,
      fun s i hi hfree => exec_sign_next d hi hfree⟩
    case bar =>
      intro s i hi hok
      rw [exec_bar_next n hi (hfree hok)]
      simp only [harrival]
      rfl
    case cbar =>
      intro s i hi hok
      rw [exec_cbar_next n hi (hfree hok)]
      simp only [harrival]
      rfl
    case dbar =>
      intro s i hi hok
      rw [exec_dbar_next n hi (hfree hok)]
      simp only [harrival]
      rfl
  case arrivals =>
    intro count
    have hcount : b.countWith x = count := rfl
    refine ⟨fun hbelow => ?_, fun hreached => ?_, fun l u t hd ht => ⟨releaseMark l, fun y hy => le_releaseMark hy,
      exists_tm_eq_releaseMark, State.thread?_releaseAll hd ht⟩⟩
    · rw [Barrier.arrive_eq, hcount, if_neg (by omega)]
    · rw [Barrier.arrive_eq, hcount, if_pos hreached]

end Sys2Proof.Claims

/-! SUPPORT. Spawning and awaiting (spec/05 R148-R155): each word where its conditions hold, and what beginning to await leaves of the
thread. -/
namespace Sys2Proof.Machine

/-! ### Spawning (R149, R150) -/

/-- What a `spawn` does in a thread: a child made and the predicate set, or, without a record or a place, the routine called inline. -/
def State.spawnOrCall (s : State) (i : IssueCtx) (t : Thread) (entry p : Nat) (arg : W64) : State :=
  match s.spawnChild (spawnFrom i t) t.id entry arg with
  | some s => s.modThread t.id (·.setPred p true)
  | none => s.spawnInline i t entry p arg

section
variable {s : State} {i : IssueCtx} (d a b : BitVec 6) (hi : s.ctl.issue = some i)
include hi

theorem exec_spawn_next (hfree : Each i (fun t => NoneOutstanding s t.id Flight.isAccess ∧ Untouched ((t.view 0).base, 8) (t.pending.map (·.1))
      ∧ OperandsFree t i.beforeQ [.vv a i.pfx.ua, .vv b i.pfx.ub] [] [(0, 0)])) :
    exec (.spawn d a b) s = .next (s.each i.parts (fun s t =>
      s.spawnOrCall i t ((Operand.vv a i.pfx.ua).val t i.beforeQ).toNat d.toNat ((Operand.vv b i.pfx.ub).val t i.beforeQ))) := by
  change execSpawn d a b s = _
  simp only [execSpawn, State.pfx_of hi]
  refine (issueWord_runs _ _ hi fun t ht => ?_).trans rfl
  obtain ⟨hdone, hpending, hoperands⟩ := hfree t ht
  simp only [Verdict.andThen_pass]
  exact ⟨⟨State.accessesDone_pass hdone, pendingVerdict_pass (by simpa using hpending)⟩, operandVerdict_pass hoperands⟩

theorem exec_spawnn_next (hfree : Each i (fun t => NoneOutstanding s t.id Flight.isAccess
      ∧ FieldsFree t i.beforeQ [.vv d false, .vv a i.pfx.ua, .vv b i.pfx.ub]
          [(.vv d false, 0, 2), (.vv a i.pfx.ua, 0, 8), (.vv b i.pfx.ub, 0, 8)])) :
    exec (.spawnn d a b) s = .next (s.each i.parts (fun s t =>
      let r := s.spawnMany (spawnFrom i t) t.id ((Operand.vv a i.pfx.ua).val t i.beforeQ).toNat ((Operand.vv b i.pfx.ub).val t i.beforeQ) 0
        (min (((Operand.vv d false).val t i.beforeQ).toNat % 2 ^ 16) 1024)
      r.2.land64 t.id ((Operand.vv d false).dst i t) (BitVec.ofNat 64 r.1))) := by
  change execSpawnn d a b s = _
  simp only [execSpawnn, State.pfx_of hi, fld_zero]
  refine (issueWord_runs _ _ hi fun t ht => ?_).trans rfl
  obtain ⟨hdone, hfields⟩ := hfree t ht
  simp only [Verdict.andThen_pass]
  exact ⟨State.accessesDone_pass hdone, fieldVerdict_pass hfields⟩

end

/-! ### Awaiting (R152, R153) -/

theorem exec_await_next {s : State} {i : IssueCtx} (hi : s.ctl.issue = some i) :
    exec .await s = .next (s.each i.parts (fun s t => s.beginAwait i t.id 0 none)) := by
  change execAwait s = _
  exact issueWord_runs _ _ hi fun _ _ => rfl

theorem exec_awaitp_next {s : State} {i : IssueCtx} (d a : BitVec 6) (hi : s.ctl.issue = some i)
    (hfree : Each i (fun t => FieldsFree t i.beforeQ [.vv a i.pfx.ua] [(.vv a i.pfx.ua, 0, 2)])) :
    exec (.awaitp d a) s = .next (s.each i.parts (fun s t =>
      s.beginAwait i t.id (((Operand.vv a i.pfx.ua).val t i.beforeQ).toNat % 2 ^ 16) (some d.toNat))) := by
  change execAwaitp d a s = _
  simp only [execAwaitp, State.pfx_of hi, fld_zero]
  exact issueWord_runs _ _ hi fun t ht => fieldVerdict_pass (hfree t ht)

theorem State.thread?_leaveCrew {s : State} {tid : Nat} {c : Crew} (hc : s.crewOf tid = some c) (u : Nat) :
    (s.leaveCrew tid).thread? u = if u = tid then (s.thread? tid).map (·.takeCopy c) else s.thread? u := by
  rw [State.leaveCrew_eq hc]
  exact State.thread?_modThread s tid u (·.takeCopy c) (fun _ => rfl)

/-- An awaiting thread that has been released: its predicate says whether no child is left, and its mark is to be reconciled. -/
def Thread.released (t : Thread) (p : Option Nat) : Thread :=
  let t := { t with frame := { t.frame with state := 1 } }
  let t := match p with | some p => t.setPred p (t.frame.children == 0) | none => t
  t.addEdge t.frame.mark

theorem Thread.released_id (t : Thread) (p : Option Nat) : (t.released p).id = t.id := by cases p <;> rfl

/-- A thread that awaits is released where no more children are left than it waits for. -/
theorem State.thread?_releaseAwait {s : State} {tid n now : Nat} {p : Option Nat} {t : Thread} (ht : s.thread? tid = some t)
    (hstatus : t.status = .awaiting n p now) (hstate : t.frame.state = 2) :
    (s.releaseAwait tid).thread? tid = some (if t.frame.children ≤ n then t.released p else t) := by
  simp only [State.releaseAwait, ht, hstatus, hstate, beq_self_eq_true, Bool.true_and, decide_eq_true_eq]
  split
  · have hmod : (s.modThread tid (·.released p)).thread? tid = some (t.released p) := by
      rw [State.thread?_modThread _ _ _ _ (Thread.released_id · p), if_pos rfl, ht, Option.map_some]
    exact hmod
  · exact ht

/-- A thread that waits from now on, for a packet, until at most n children are left. -/
def Thread.awaiting (t : Thread) (pkt n : Nat) (p : Option Nat) (now : Nat) : Thread :=
  { t.goto pkt 0 with status := .awaiting n p now, frame := { t.frame with state := 2 } }

theorem Thread.awaiting_id (t : Thread) (pkt n : Nat) (p : Option Nat) (now : Nat) : (t.awaiting pkt n p now).id = t.id := rfl

theorem State.thread?_beginAwait {s : State} {t : Thread} {c : Crew} (ht : s.thread? t.id = some t) (hc : s.crewOf t.id = some c)
    (i : IssueCtx) (n : Nat) (p : Option Nat) :
    let waiting := (t.takeCopy c).awaiting (i.pkt + 1) n p (s.localTime (s.placeOf t).die)
    (s.beginAwait i t.id n p).thread? t.id = some (if t.frame.children ≤ n then waiting.released p else waiting) := by
  intro waiting
  simp only [State.beginAwait, ht, State.thread?_storeFrame]
  refine State.thread?_releaseAwait (t := waiting) ?_ rfl rfl
  have hmod : ((s.leaveCrew t.id).modThread t.id (·.awaiting (i.pkt + 1) n p (s.localTime (s.placeOf t).die))).thread? t.id = some waiting := by
    rw [State.thread?_modThread _ _ _ _ (Thread.awaiting_id · _ _ _ _), if_pos rfl, State.thread?_leaveCrew hc, if_pos rfl, ht]
    rfl
  exact hmod

end Sys2Proof.Machine

namespace Sys2Proof.Claims
open Sys2Proof.Machine

/-- Settles O35: each of the four words has the effect that its lemma gives, and a thread that begins to await is released at once where
few enough children are left. -/
theorem spawnAndAwaitWords : Obligations.SpawnAndAwaitWords := by
  unfold Obligations.SpawnAndAwaitWords
  refine ⟨fun d a b => ⟨fun s i hi hfree => exec_spawn_next d a b hi hfree, fun s i hi hfree => exec_spawnn_next d a b hi hfree⟩,
    fun s i hi _ => exec_await_next hi, fun d a s i hi hfree => exec_awaitp_next d a hi hfree, ?_⟩
  intro s i t c n p ht hc waiting
  rw [State.thread?_beginAwait ht hc]
  by_cases hleft : t.frame.children ≤ n
  · rw [if_pos hleft, if_neg (by omega), ← beq_eq_decide]
    rfl
  · rw [if_neg hleft, if_pos (by omega)]
    rfl

end Sys2Proof.Claims

/-! SUPPORT. The words of the engines and `launch` (spec/05 R151; spec/07 R217, R218; spec/14 R374-R386): what a job's place and footprint
depend on, then each word where its conditions hold. -/
namespace Sys2Proof.Machine

theorem exec_pdef_next {s : State} {i : IssueCtx} (d a : BitVec 6) (hi : s.ctl.issue = some i)
    (hfree : Each i (fun t => OperandsFree t i.beforeQ [.vv a i.pfx.ua] [] [(0, 0)]
      ∧ ∃ bs s', s.pdefRead i t ((Operand.vv a i.pfx.ua).val t i.beforeQ).toNat = .record bs s')) :
    exec (.pdef d a) s = .next (s.each i.parts (fun s t => match s.pdefRead i t ((Operand.vv a i.pfx.ua).val t i.beforeQ).toNat with
      | .record bs s => s.modTeam t.team (fun m => { m with pace := modAt (fun _ => some bs) d.toNat m.pace })
      | _ => s)) := by
  change execPdef d a s = _
  simp only [execPdef, hi, State.pfx_of hi]
  rw [waits_eq_nil]
  · refine issueWord_runs _ _ hi fun t ht => ?_
    obtain ⟨hoperands, bs, s', hread⟩ := hfree t ht
    simp only [operandVerdict_pass hoperands, hread, Verdict.pass_andThen]
  · intro t ht
    obtain ⟨-, bs, s', hread⟩ := hfree t ht
    simp [hread]

/-- The slot that a `pace` names in a thread. -/
def paceSlotNamed (i : IssueCtx) (a : BitVec 6) (t : Thread) : Nat := ((Operand.vv a false).val t i.beforeQ).toNat / 2 ^ 40 % 8

theorem fld_head_eq_paceSlotNamed (i : IssueCtx) (a : BitVec 6) (t : Thread) :
    fld ((Operand.vv a false).val t i.beforeQ).toNat 40 3 = paceSlotNamed i a t := fld_eq _ _ _

/-- What a `pace` starts in a thread: a word in flight with its job in the stream unit; without a record in its slot nothing. -/
def State.startStream (s : State) (i : IssueCtx) (d a : BitVec 6) (la : BitVec 4) (sb : BitVec 3) (t : Thread) : State :=
  match s.paceSlot t (paceSlotNamed i a t) with
  | none => s
  | some bs =>
    let p := paceJob i a t bs ((Operand.vv d false).dst i t)
    (s.newId.2.launchFlight i [t.id] la.toNat (some sb.toNat) .eng (.pace p)).acceptJob
      { id := s.ctl.nextId, grid := (s.gridOf t).elim 0 (·.event), team := t.team, die := (s.placeOf t).die, word := 3
        flight := some (s.ctl.nextId + 1), dst := p.dst, step := i.beforeStep
        foot := p.ranges.map (fun x => { level := 4, owner := s.asidOf t, base := x.1, len := x.2.1, write := x.2.2 }) }

theorem exec_pace_next {s : State} {i : IssueCtx} (d a : BitVec 6) (la : BitVec 4) (sb : BitVec 3) (hi : s.ctl.issue = some i)
    (hfree : Each i (fun t => SlotFree s t.id sb.toNat 1 ∧ ∃ bs, s.paceSlot t (paceSlotNamed i a t) = some bs
      ∧ FieldsFree t i.beforeQ [.vv d false, .run a 5] ((.run a 5, 0, 6) :: (.run a 5, 32, 8)
          :: (List.range (⟨bytesToNat bs⟩ : PaceRec).nsrc).map (fun n => (.run a 5, 8 + 8 * n, 8)))
      ∧ (paceJob i a t bs ((Operand.vv d false).dst i t)).verdict = .pass ∧ s.paceRoom t i.parts.length = .pass)) :
    exec (.pace d a la sb) s = .next (s.each i.parts (fun s t => s.startStream i d a la sb t)) := by
  change execPace d a la sb s = _
  simp only [execPace, fld_head_eq_paceSlotNamed]
  refine (issueWord_runs _ _ hi fun t ht => ?_).trans rfl
  obtain ⟨hroom, bs, hrecord, hfields, hjob, hunit⟩ := hfree t ht
  simp only [hrecord, Verdict.andThen_pass]
  exact ⟨⟨State.slotVerdict_pass hroom, fieldVerdict_pass hfields⟩, hjob, hunit⟩

/-! ### Jobs (R373, R374) -/

section
variable {s s' : State} (hteams : s'.teams = s.teams) (hgrids : s'.grids = s.grids)
include hteams hgrids

theorem State.teamOwner_congr : s'.teamOwner = s.teamOwner := by
  funext team level
  simp only [State.teamOwner, State.team?, State.grid?, hteams, hgrids]

/-- A footprint depends on teams and grids alone. -/
theorem State.footprint_congr : s'.footprint = s.footprint := by
  have hrange : s'.jobRange = s.jobRange := by
    funext team r
    simp only [State.jobRange, State.teamAsid, State.teamOwner_congr hteams hgrids]
  funext team c r
  simp only [State.footprint, hrange]

theorem State.gridOf_congr : s'.gridOf = s.gridOf := by
  funext t
  simp only [State.gridOf, State.team?, State.grid?, hteams, hgrids]

omit hgrids in
theorem State.placeOf_congr : s'.placeOf = s.placeOf := by
  funext t
  simp only [State.placeOf, State.team?, hteams]

end

/-- The job under a number for what a `cpy` (n = 0), `cpyq` (1) or `gat` (2) has read in a thread: card c and record r. -/
def State.copyJob (s : State) (id : Nat) (i : IssueCtx) (d : BitVec 6) (t : Thread) (n c r : Nat) : Job :=
  { id, grid := (s.gridOf t).elim 0 (·.event), team := t.team, die := (s.placeOf t).die, word := n, flight := some (id + 1)
    dst := (Operand.vv d false).dst i t, card := c, record := r, step := i.beforeStep, ver := i.pfx.ver.map (fun _ => verOf i)
    foot := s.footprint t.team ⟨c⟩ ⟨r⟩ }

theorem State.copyJob_congr {s s' : State} (hteams : s'.teams = s.teams) (hgrids : s'.grids = s.grids) : s'.copyJob = s.copyJob := by
  funext id i d t n c r
  simp only [State.copyJob, State.gridOf_congr hteams hgrids, State.placeOf_congr hteams, State.footprint_congr hteams hgrids]

/-- What such a word starts in a thread: a word in flight and its job; NRP is set first where a `cpyq` adds to a counter (R146, R388). -/
def State.startCopy (s : State) (i : IssueCtx) (d : BitVec 6) (la : BitVec 4) (sb : BitVec 3) (t : Thread) (n c r : Nat) : State :=
  let u := s.newId.2.launchFlight i [t.id] la.toNat (some sb.toNat) .eng (.job s.ctl.nextId)
  (if n = 1 ∧ bit (⟨c⟩ : Card).tail 2 = true then u.setNrp t.id else u).acceptJob (s.copyJob s.ctl.nextId i d t n c r)

/-- The job is the same whether it is made before its word is in flight and NRP is set, or after. -/
theorem State.startCopy_eq (s : State) (i : IssueCtx) (d : BitVec 6) (la : BitVec 4) (sb : BitVec 3) (t : Thread) (n c r : Nat) :
    s.startCopy i d la sb t n c r =
      let u := s.newId.2.launchFlight i [t.id] la.toNat (some sb.toNat) .eng (.job s.ctl.nextId)
      let v := if (n = 1 && bit (⟨c⟩ : Card).tail 2) then u.setNrp t.id else u
      v.acceptJob (v.copyJob s.ctl.nextId i d t n c r) := by
  have hnrp : ∀ u : State, (u.setNrp t.id).teams = u.teams ∧ (u.setNrp t.id).grids = u.grids := fun u => by simp [State.setNrp]
  simp only [State.startCopy, Bool.and_eq_true, decide_eq_true_eq]
  split
  · rw [State.copyJob_congr (hnrp _).1 (hnrp _).2]
    rfl
  · rfl

theorem copyWord_next {s : State} {i : IssueCtx} (n : Nat) (d a : BitVec 6) (la : BitVec 4) (sb : BitVec 3) (hi : s.ctl.issue = some i)
    (hfree : Each i (fun t => SlotFree s t.id sb.toNat 1 ∧ FieldsFree t i.beforeQ [.vv d false, .vv a i.pfx.ua] [(.vv a i.pfx.ua, 0, 8)]
      ∧ (i.pfx.verMode = 1 → Untouched (8 * i.pfx.verSel, 3) i.beforeQ.poison)
      ∧ ∃ c r s', s.prepJob i t n ((Operand.vv a i.pfx.ua).val t i.beforeQ).toNat = .ready c r s' ∧ s.jobRoom t n c i.parts.length = .pass)) :
    copyWord n d a la sb s = .next (s.each i.parts (fun s t => match s.prepJob i t n ((Operand.vv a i.pfx.ua).val t i.beforeQ).toNat with
      | .ready c r s => s.startCopy i d la sb t n c r
      | _ => s)) := by
  simp only [copyWord, hi, State.pfx_of hi]
  rw [waits_eq_nil]
  · refine (issueWord_runs _ _ hi fun t ht => ?_).trans ?_
    · obtain ⟨hroom, hfields, hver, c, r, s', hready, hqueue⟩ := hfree t ht
      have hfields : partialVerdict i.beforeQ t [.vv d false, .vv a i.pfx.ua] [(.vv a i.pfx.ua, 8)] = .pass := partialVerdict_pass hfields
      simp only [State.slotVerdict_pass hroom, hfields, verPoison_pass hver, hready, hqueue, Verdict.pass_andThen]
    · simp only [State.startCopy_eq]
      rfl
  · intro t ht
    obtain ⟨-, -, -, c, r, s', hready, -⟩ := hfree t ht
    simp [hready]

/-! ### `stage` (R385) -/

theorem exec_stage_next {s : State} {i : IssueCtx} (d : BitVec 6) (k : BitVec 14) (hi : s.ctl.issue = some i)
    (hcount : d.toNat ≠ 63 → Untouched (8 * d.toNat, 2) i.beforeQ.poison)
    (hdone : Each i (fun t => NoneOutstanding s t.id (fun f => f.isAccess || f.isJob))) :
    exec (.stage d k) s = .next (match i.parts with
      | [] => s
      | t :: _ =>
        let n := k.toNat + (if d.toNat = 63 then 0 else (i.beforeQ.get d.toNat).toNat % 2 ^ 16)
        (s.modTeam t.team (fun m => { m with regs := { m.regs with
          sched := BitVec.ofNat 64 (setFld m.regs.sched.toNat 0 16 (max (m.regs.sched.toNat % 2 ^ 16) (min n 65535))) } })).releaseSchedule
            t.team) := by
  change execStage d k s = _
  simp only [execStage, fld_zero]
  refine issueWord_runs _ _ hi fun t ht => ?_
  simp only [Verdict.andThen_pass]
  refine ⟨State.waitFor_pass (hdone t ht), ?_⟩
  split
  next => rfl
  next hd => exact poisonVerdict_pass_q (hcount hd)

/-! ### `launch` (R151) -/

/-- What a `launch` whose record has been read does in a thread: later loads do not see older bytes, the status lands, an accepted record
makes a child grid. -/
def State.launchRead (s : State) (i : IssueCtx) (d : BitVec 6) (t : Thread) (va : Nat) (bs : List Byte) : State :=
  let r := s.launchStatus i t bs
  let s := (s.freshenRange (s.placeOf t).die (s.asidOf t) 0 va 256).land64 t.id ((Operand.vv d false).dst i t) (BitVec.ofNat 64 r.1)
  if r.1 = 0 then s.acceptChild t (bytesToNat bs) r.2 else s

theorem exec_launch_next {s : State} {i : IssueCtx} (d a : BitVec 6) (hi : s.ctl.issue = some i)
    (hfree : Each i (fun t => NoneOutstanding s t.id Flight.isAccess ∧ OperandsFree t i.beforeQ [.vv a i.pfx.ua] [.vv d false] [(0, 0)]
      ∧ (∃ bs, s.launchRecord i t ((Operand.vv a i.pfx.ua).val t i.beforeQ).toNat = .bytes bs)
      ∧ s.launchWait i t ((Operand.vv a i.pfx.ua).val t i.beforeQ).toNat = none)) :
    exec (.launch d a) s = .next (s.each i.parts (fun s t => match s.launchRecord i t ((Operand.vv a i.pfx.ua).val t i.beforeQ).toNat with
      | .bytes bs => s.launchRead i d t ((Operand.vv a i.pfx.ua).val t i.beforeQ).toNat bs
      | _ => s)) := by
  change execLaunch d a s = _
  simp only [execLaunch, hi, State.pfx_of hi]
  rw [waits_eq_nil]
  · refine (issueWord_runs _ _ hi fun t ht => ?_).trans rfl
    obtain ⟨hdone, hoperands, ⟨bs, hread⟩, -⟩ := hfree t ht
    simp only [State.accessesDone_pass hdone, operandVerdict_pass hoperands, hread, Verdict.pass_andThen]
  · intro t ht
    obtain ⟨-, -, -, hwait⟩ := hfree t ht
    simp [hwait]

end Sys2Proof.Machine

namespace Sys2Proof.Claims
open Sys2Proof.Machine

/-- Settles O46: each word of the engines, and `launch`, has the effect that its lemma gives. -/
theorem engineWords : Obligations.EngineWords := by
  unfold Obligations.EngineWords
  intro d a la sb k od oa gridOf head stream copy
  have hcopy : ∀ (n : Nat) (w : Instr), (∀ s, exec w s = copyWord n d a la sb s) → copy n w := fun n w hw s i hi hfree => by
    rw [hw s]
    exact copyWord_next n d a la sb hi hfree
  exact ⟨fun s i hi hfree => exec_pdef_next d a hi hfree, fun s i hi hfree => exec_pace_next d a la sb hi hfree,
    hcopy 0 _ fun _ => rfl, hcopy 1 _ fun _ => rfl, hcopy 2 _ fun _ => rfl,
    fun s i hi ⟨hcount, hdone⟩ => exec_stage_next d k hi hcount hdone, fun s i hi hfree => exec_launch_next d a hi hfree⟩

end Sys2Proof.Claims

/-! SUPPORT. Edges, handlers and scrubbing (spec/05 R147; spec/06 R180, R182; spec/08 R240; spec/09 R263; spec/11 R302): each event where its
condition holds, and which bytes and granules a scrub leaves poisoned. -/
namespace Sys2Proof.Machine

/-! ### Edges and handlers (R147, R302) -/

section
variable {s : State} {t : Thread} {m : Team} (ht : s.thread? t.id = some t) (hm : s.team? t.team = some m)
  (hdie : s.dieFenced m.place.die = false)
include ht hm hdie

theorem edgeReconcile_next {mark : Nat} (hres : m.status = .resident) (hedge : t.edge = some mark) (hreached : mark ≤ s.localTime m.place.die) :
    exec (.edgeReconcile t.id) s = .next (
      let done := (s.selfInvalidate m.place mark).modThread t.id (fun t => { t with edge := none, joined := max t.joined mark })
      match t.status with
      | .awaiting _ _ _ => if t.frame.state = 1 then done.file t.id else done
      | _ => done) := by
  have hgo : ¬((!(s.team? t.team).any (fun m => m.status == .resident) || s.dieFenced m.place.die) = true) := by simp [hm, hres, hdie]
  have hplace : s.placeOf t = m.place := by simp only [State.placeOf, hm]
  change execEdgeReconcile t.id s = _
  simp only [execEdgeReconcile, ht, hplace, hedge, beq_iff_eq]
  exact (if_neg hgo).trans ((if_neg (by omega)).trans rfl)

theorem handlerTimeout_next {x : TrapCtx} (htrap : t.trap = some x) (hrun : t.status ≠ .halted)
    (hlong : x.entered + 100000 ≤ s.localTime m.place.die) (hfirst : s.trappedFirst t x.entered = false) :
    exec (.handlerTimeout t.id) s = .next (s.teamFault t 0x70 0 t.ctx.pkt t.ctx.word 0 false) := by
  have hplace : s.placeOf t = m.place := by simp only [State.placeOf, hm]
  change execHandlerTimeout t.id s = _
  simp only [execHandlerTimeout, ht, htrap, hplace]
  rw [if_neg (by simp [hdie, hrun, hlong, hfirst])]
  rfl

end

/-! ### Marks (R180, R182) -/

theorem mem_insertNat {x a : Nat} {l : List Nat} : x ∈ insertNat a l ↔ x = a ∨ x ∈ l := by
  induction l with
  | nil => simp [insertNat]
  | cons y ys ih =>
    unfold insertNat
    split
    · simp
    · split
      next heq => simp [heq]
      next => rw [List.mem_cons, ih, List.mem_cons, or_left_comm]

theorem mem_foldl_insertNat {x : Nat} (as : List Nat) : ∀ l : List Nat, x ∈ as.foldl (fun l a => insertNat a l) l ↔ x ∈ as ∨ x ∈ l := by
  induction as with
  | nil => simp
  | cons a as ih =>
    intro l
    rw [List.foldl_cons, ih, mem_insertNat, List.mem_cons, or_left_comm, or_assoc]

theorem mem_poisonGranule {b g : Nat} {l : List Nat} : b ∈ poisonGranule g l ↔ b ∈ l ∨ g = b / 8 := by
  have hbytes : b ∈ (List.range 8).map (8 * g + ·) ↔ g = b / 8 := by
    simp only [List.mem_map, List.mem_range]
    exact ⟨fun ⟨k, hk, hb⟩ => by omega, fun hg => ⟨b % 8, by omega, by omega⟩⟩
  rw [poisonGranule, mem_foldl_insertNat, hbytes, or_comm]

/-- Bytes with those of a granule, if one has been found bad. -/
def poisonFound (g : Option Nat) (l : List Nat) : List Nat := g.elim l (poisonGranule · l)

theorem mem_poisonFound {b : Nat} {g : Option Nat} {l : List Nat} : b ∈ poisonFound g l ↔ b ∈ l ∨ g = some (b / 8) := by
  cases g with
  | none => simp [poisonFound]
  | some g => simpa [poisonFound] using mem_poisonGranule

/-! ### REGISTER_SCRUB (R180, R182) -/

/-- A pass touches the service counters alone. -/
theorem State.scrubbed_only (s : State) (die unit corrected : Nat) :
    s.scrubbed die unit corrected = { s with host := (s.scrubbed die unit corrected).host } := by
  unfold State.scrubbed
  dsimp only
  split <;> rfl

@[simp] theorem State.thread?_scrubbed (s : State) (die unit corrected u : Nat) : (s.scrubbed die unit corrected).thread? u = s.thread? u := by
  rw [State.scrubbed_only]; rfl
@[simp] theorem State.crewOf_scrubbed (s : State) (die unit corrected u : Nat) : (s.scrubbed die unit corrected).crewOf u = s.crewOf u := by
  rw [State.scrubbed_only]; rfl
@[simp] theorem State.crew?_scrubbed (s : State) (die unit corrected u : Nat) : (s.scrubbed die unit corrected).crew? u = s.crew? u := by
  rw [State.scrubbed_only]; rfl
@[simp] theorem State.team?_scrubbed (s : State) (die unit corrected u : Nat) : (s.scrubbed die unit corrected).team? u = s.team? u := by
  rw [State.scrubbed_only]; rfl
@[simp] theorem State.scr_scrubbed (s : State) (die unit corrected level owner : Nat) :
    (s.scrubbed die unit corrected).scr level owner = s.scr level owner := by rw [State.scrubbed_only]; rfl
@[simp] theorem State.scrubbed_mem (s : State) (die unit corrected : Nat) : (s.scrubbed die unit corrected).mem = s.mem := by
  rw [State.scrubbed_only]

/-- A thread whose window has lost a granule, if one has been found bad. -/
def Thread.poisonWin (t : Thread) (g : Option Nat) : Thread := { t with winPoison := poisonFound g t.winPoison }

/-- A `q` copy that has lost a granule, if one has been found bad. -/
def QCopy.poisoned (q : QCopy) (g : Option Nat) : QCopy := { q with poison := poisonFound g q.poison }

/-- A granule of a thread's window poisoned, if one has been found bad. -/
def State.poisonWindow (s : State) (tid : Nat) (g : Option Nat) : State :=
  match g with
  | some g => s.modThread tid (fun t => { t with winPoison := poisonGranule g t.winPoison })
  | none => s

theorem State.thread?_poisonWindow {s : State} {t : Thread} (ht : s.thread? t.id = some t) (g : Option Nat) :
    (s.poisonWindow t.id g).thread? t.id = some (t.poisonWin g) := by
  cases g with
  | none => exact ht
  | some g =>
    have hmod : (s.modThread t.id (·.poisonWin (some g))).thread? t.id = some (t.poisonWin (some g)) := by
      rw [State.thread?_modThread _ _ _ _ (fun _ => rfl : ∀ x : Thread, (x.poisonWin (some g)).id = x.id), if_pos rfl, ht, Option.map_some]
    exact hmod

@[simp] theorem State.crewOf_poisonWindow (s : State) (tid u : Nat) (g : Option Nat) : (s.poisonWindow tid g).crewOf u = s.crewOf u := by
  cases g <;> rfl
@[simp] theorem State.crew?_poisonWindow (s : State) (tid u : Nat) (g : Option Nat) : (s.poisonWindow tid g).crew? u = s.crew? u := by
  cases g <;> rfl

/-- A granule of the `q` copy that a thread uses poisoned, if one has been found bad. -/
def State.poisonCopy (s : State) (t : Thread) (g : Option Nat) : State := match g with | some g => s.poisonQ t g | none => s

/-- A thread in no crew uses the copy it carries. -/
theorem State.thread?_poisonCopy_alone {s : State} {t u : Thread} (hu : s.thread? t.id = some u) (hc : s.crewOf t.id = none) (g : Option Nat) :
    (s.poisonCopy t g).thread? t.id = some { u with q := u.q.poisoned g } := by
  cases g with
  | none => exact hu
  | some g =>
    simp only [State.poisonCopy, State.poisonQ, hc]
    rw [State.thread?_modThread, if_pos rfl, hu]
    · rfl
    · exact fun _ => rfl

section
variable {s : State} {t : Thread} {c : Crew} (hof : s.crewOf t.id = some c)
include hof

/-- A thread in a crew uses the crew's copy. -/
theorem State.thread?_poisonCopy_crewed (g : Option Nat) : (s.poisonCopy t g).thread? t.id = s.thread? t.id := by
  cases g with
  | none => rfl
  | some g => simp only [State.poisonCopy, State.poisonQ, hof]; rfl

theorem State.crew?_poisonCopy (hc : s.crew? c.id = some c) (g : Option Nat) :
    (s.poisonCopy t g).crew? c.id = some { c with q := c.q.poisoned g } := by
  cases g with
  | none => exact hc
  | some g =>
    simp only [State.poisonCopy, State.poisonQ, hof]
    rw [State.crew?_modCrew, if_pos rfl, hc]
    · rfl
    · exact fun _ => rfl

end

theorem registerScrub_next {s : State} {t : Thread} {found : RegisterErrors} (ht : s.thread? t.id = some t)
    (hwin : ∀ g, found.granule = some g → 8 * g < t.winSize) (hq : ∀ g, found.q = some g → g < 32) :
    exec (.registerScrub t.id found) s
      = .next (((s.scrubbed (s.placeOf t).die 0 found.corrected).poisonWindow t.id found.granule).poisonCopy t found.q) := by
  have hin : ¬((found.granule.any (fun g => decide (8 * g ≥ t.winSize)) || found.q.any (fun g => decide (g ≥ 32))) = true) := by
    simpa [Option.any_eq_true] using ⟨hwin, hq⟩
  change execRegisterScrub t.id found s = _
  simp only [execRegisterScrub, ht]
  rw [if_neg hin]
  rfl

/-! ### SCRATCH_SCRUB (R240, R349) -/

/-- An allotment with one more poisoned granule. -/
def Scratch.poisonAt (x : Scratch) (g : Nat) : Scratch := { x with poison := insertNat g x.poison }

theorem scratchScrub_counts (s : State) (corrected : Nat) :
    exec (.scratchScrub ⟨corrected, none⟩) s = .next (s.scrubbed 0 2 corrected) := rfl

section
variable {s : State} {x : ScratchGranule} (corrected : Nat)

theorem scratchScrub_allotment (hlevel : x.level < 4) (hin : 8 * x.granule < (s.scr x.level x.owner).size) :
    exec (.scratchScrub ⟨corrected, some x⟩) s = .next ((s.scrubbed (s.scrDie x.level x.owner) 2 corrected).modScr x.level x.owner
      (·.poisonAt x.granule)) := by
  change execScratchScrub ⟨corrected, some x⟩ s = _
  simp only [execScratchScrub, State.scrubSize, if_pos hlevel]
  rw [if_neg (by omega)]
  rfl

theorem scratchScrub_range {m : Team} {h : Handle} (hlevel : 4 ≤ x.level) (hm : s.team? x.owner = some m)
    (hh : m.handle (x.level - 4) = some h) (hin : 8 * x.granule < 128 * recSize h.rec0) :
    exec (.scratchScrub ⟨corrected, some x⟩) s = .next ((s.scrubbed (s.scrDie x.level x.owner) 2 corrected).modHandle x.owner (x.level - 4)
      (fun h => { h with poison := insertNat x.granule h.poison })) := by
  change execScratchScrub ⟨corrected, some x⟩ s = _
  simp only [execScratchScrub, State.scrubSize, if_neg (Nat.not_lt.mpr hlevel), hm, Option.bind_some, hh]
  rw [if_neg (by omega)]

end

/-- The block of an address space after it has changed, one that had not been written among them (R469). -/
theorem State.asidBlock_modAsid (s : State) (a : Nat) {f : Asid → Asid} (hf : ∀ x, (f x).id = x.id) :
    (s.modAsid a f).asidBlock a = f (s.asidBlock a) := by
  cases ha : s.asid? a with
  | some x =>
    have hmod : (s.modAsid a f).asid? a = some (f x) := by
      simp only [State.modAsid, ha, Option.isSome_some, if_true]
      exact (find?_modFirst Asid.id f hf a a s.asids).trans (by rw [if_pos rfl]; exact congrArg (Option.map f) ha)
    simp only [State.asidBlock, hmod, ha, Option.getD_some]
  | none =>
    have hmod : (s.modAsid a f).asid? a = some (f { id := a }) := by
      simp only [State.modAsid, ha, Option.isSome_none, Bool.false_eq_true, if_false]
      rw [State.asid?, List.find?_append, ← State.asid?, ha]
      simp [hf]
    simp only [State.asidBlock, hmod, ha, Option.getD_some, Option.getD_none]

/-- A granule poisoned in an allotment that is there (R222). -/
theorem State.scr_poisonAt {s : State} {level owner n : Nat} (hlevel : level < 4) (hsize : n < (s.scr level owner).size) (g : Nat) :
    ((s.modScr level owner (·.poisonAt g)).scr level owner).poison = insertNat g (s.scr level owner).poison := by
  match level, hlevel with
  | 0, _ =>
    cases hm : s.team? owner with
    | none => simp [State.scr, hm] at hsize
    | some m =>
      have hmod : (s.modScr 0 owner (·.poisonAt g)).team? owner = some { m with scratch := m.scratch.poisonAt g } := by
        rw [State.modScr, State.team?_modTeam, if_pos rfl, hm]
        · rfl
        · exact fun _ => rfl
      simp only [State.scr, hmod, hm]
      rfl
  | 1, _ =>
    cases hc : s.clusters.find? (fun c => c.id == owner) with
    | none => simp [State.scr, hc] at hsize
    | some c =>
      have hmod : (s.modScr 1 owner (·.poisonAt g)).clusters.find? (fun c => c.id == owner) = some { c with mem := c.mem.poisonAt g } := by
        rw [State.modScr, State.modCluster_clusters, find?_modFirst Cluster.id, if_pos rfl, hc]
        · rfl
        · exact fun _ => rfl
      simp only [State.scr, hmod, hc]
      rfl
  | 2, _ =>
    have hmod : (s.modScr 2 owner (·.poisonAt g)).asidBlock owner = { s.asidBlock owner with pk := (s.asidBlock owner).pk.poisonAt g } := by
      rw [State.modScr, State.asidBlock_modAsid]
      exact fun _ => rfl
    simp only [State.scr, hmod]
    rfl
  | 3, _ =>
    cases ht : s.thread? owner with
    | none => simp [State.scr, ht] at hsize
    | some t =>
      have hmod : (s.modScr 3 owner (·.poisonAt g)).thread? owner = some { t with priv := t.priv.poisonAt g } := by
        change (s.modThread owner (fun t => { t with priv := t.priv.poisonAt g })).thread? owner = _
        rw [State.thread?_modThread, if_pos rfl, ht]
        · rfl
        · exact fun _ => rfl
      have hpriv : ∀ {x : State} {u : Thread}, x.thread? owner = some u → x.scr 3 owner = u.priv := fun hu => by simp [State.scr, hu]
      rw [hpriv hmod, hpriv ht]
      rfl

/-- A range of a handle changed (R349). -/
theorem State.team?_modHandle {s : State} {team n : Nat} {m : Team} {h : Handle} (hm : s.team? team = some m) (hh : m.handle n = some h)
    (f : Handle → Handle) : ∃ k, (s.modHandle team n f).team? team = some k ∧ k.handle n = some (f h) := by
  refine ⟨{ m with handles := modAt (fun h => h.map f) n m.handles }, ?_, ?_⟩
  · rw [State.modHandle, State.team?_modTeam, if_pos rfl, hm]
    · rfl
    · exact fun _ => rfl
  · have hget : m.handles[n]? = some (some h) := by
      rw [Team.handle, List.getD_eq_getElem?_getD] at hh
      cases hn : m.handles[n]? with
      | none => simp [hn] at hh
      | some o => simpa [hn] using hh
    simp [Team.handle, modAt_getElem?, hget]

/-! ### CACHE_SCRUB (R263) -/

theorem cacheScrub_finds (s : State) (unit : CacheUnit) (corrected pa : Nat) :
    exec (.cacheScrub ⟨unit, corrected, some pa⟩) s
      = .next ((s.scrubbed (unitCounters unit).1 (unitCounters unit).2 corrected).uncorrectable unit pa) := rfl

theorem cacheScrub_counts (s : State) (unit : CacheUnit) (corrected : Nat) :
    exec (.cacheScrub ⟨unit, corrected, none⟩) s = .next (s.scrubbed (unitCounters unit).1 (unitCounters unit).2 corrected) := rfl

/-- An error in an L1 drops there the lines of the address, which the core's L2 has too. -/
theorem State.mem_uncorrectable_l1 (s : State) (p : Place) (pa : Nat) :
    (s.uncorrectable (.l1 p) pa).mem.l2 = s.mem.l2
    ∧ ∀ x, x ∈ (s.uncorrectable (.l1 p) pa).mem.l1 ↔ x ∈ s.mem.l1 ∧ ¬(x.place = p ∧
        ∃ l ∈ s.mem.l2, l.pa = pa / 128 ∧ l.isAt p.die x.asid x.slot x.line = true) := by
  refine ⟨rfl, fun x => ?_⟩
  simp [State.uncorrectable, lineOf, imp_iff_not_or]

/-- A line of an L2 in which a granule has been found bad: a dirty one has it poisoned. -/
def L2Line.foundBad (l : L2Line) (die pa : Nat) : L2Line :=
  if l.die == die && l.pa == lineOf pa && l.dirty then { l with poison := insertNat (pa % 128 / 8) l.poison } else l

@[simp] theorem L2Line.foundBad_die (l : L2Line) (die pa : Nat) : (l.foundBad die pa).die = l.die := by unfold L2Line.foundBad; split <;> rfl
@[simp] theorem L2Line.foundBad_pa (l : L2Line) (die pa : Nat) : (l.foundBad die pa).pa = l.pa := by unfold L2Line.foundBad; split <;> rfl
@[simp] theorem L2Line.foundBad_dirty (l : L2Line) (die pa : Nat) : (l.foundBad die pa).dirty = l.dirty := by
  unfold L2Line.foundBad; split <;> rfl

theorem L2Line.foundBad_other {l : L2Line} {die pa : Nat} (h : l.die ≠ die ∨ l.pa ≠ pa / 128) : l.foundBad die pa = l :=
  if_neg (by rw [lineOf]; rcases h with h | h <;> simp [h])

theorem L2Line.mem_foundBad_poison {l : L2Line} {die pa : Nat} (hdie : l.die = die) (hpa : l.pa = pa / 128) (hdirty : l.dirty = true) :
    pa % 128 / 8 ∈ (l.foundBad die pa).poison := by
  rw [L2Line.foundBad, if_pos (by simp [hdie, hpa, hdirty, lineOf])]
  exact mem_insertNat.mpr (.inl rfl)

/-- The lines that an L2's error leaves: clean ones of the address are gone from that die. -/
theorem State.uncorrectable_l2 (s : State) (die pa : Nat) :
    (s.uncorrectable (.l2 die) pa).mem.l2
      = (s.mem.l2.map (·.foundBad die pa)).filter (fun l => !(l.die == die && l.pa == lineOf pa && !l.dirty)) := by
  obtain ⟨-, hl2, -⟩ := (s.modMem (fun m => { m with l2 := m.l2.map (·.foundBad die pa) })).giveUp_spec
    (fun l => l.die == die && l.pa == lineOf pa && !l.dirty)
  exact hl2

theorem State.mem_uncorrectable_l2 {s : State} {die pa : Nat} {l : L2Line} :
    l ∈ (s.uncorrectable (.l2 die) pa).mem.l2
      ↔ (∃ k ∈ s.mem.l2, k.foundBad die pa = l) ∧ (l.die = die → l.pa = pa / 128 → l.dirty = true) := by
  simp [State.uncorrectable_l2, lineOf, imp_iff_not_or, or_assoc]

theorem State.mem_uncorrectable_l2_other {s : State} {die pa : Nat} {l : L2Line} (h : l.die ≠ die ∨ l.pa ≠ pa / 128) :
    l ∈ (s.uncorrectable (.l2 die) pa).mem.l2 ↔ l ∈ s.mem.l2 := by
  rw [State.mem_uncorrectable_l2]
  constructor
  · rintro ⟨⟨k, hk, rfl⟩, -⟩
    rw [L2Line.foundBad_die, L2Line.foundBad_pa] at h
    rwa [L2Line.foundBad_other h]
  · exact fun hl => ⟨⟨l, hl, L2Line.foundBad_other h⟩, fun hdie hpa => absurd h (by simp [hdie, hpa])⟩

/-- What stays of an address in the die's L2 is dirty, and its granule is poisoned. -/
theorem State.dirty_of_mem_uncorrectable_l2 {s : State} {die pa : Nat} {l : L2Line} (hl : l ∈ (s.uncorrectable (.l2 die) pa).mem.l2)
    (hdie : l.die = die) (hpa : l.pa = pa / 128) : l.dirty = true ∧ pa % 128 / 8 ∈ l.poison := by
  obtain ⟨⟨k, -, rfl⟩, hdirty⟩ := State.mem_uncorrectable_l2.mp hl
  have hd := hdirty hdie hpa
  rw [L2Line.foundBad_die] at hdie
  rw [L2Line.foundBad_pa] at hpa
  exact ⟨hd, L2Line.mem_foundBad_poison hdie hpa (by simpa using hd)⟩

end Sys2Proof.Machine

/-! SUPPORT. The grid's barrier, queues, rings and completion (spec/05 R156; spec/16 R415-R418, R427): each event where its condition
holds. -/
namespace Sys2Proof.Machine

/-! ### DBAR_DIE_MESSAGE (R156) -/

/-- A grid barrier after a die's message: that die's arrivals have been reported. -/
def GridBarrier.report (b : GridBarrier) (die : Nat) : GridBarrier :=
  { b with reported := b.reported ++ (b.dies.filter (fun x => x.1 == die)).map (·.2), dies := b.dies.filter (fun x => x.1 != die) }

/-- A die that has arrivals to report reports one at least. -/
theorem GridBarrier.report_ne_nil {b : GridBarrier} {die : Nat} (h : ∃ x ∈ b.dies, x.1 = die) : (b.report die).reported ≠ [] := by
  obtain ⟨x, hx, hdie⟩ := h
  have hmem : x.2 ∈ (b.dies.filter (fun x => x.1 == die)).map (·.2) := List.mem_map_of_mem (List.mem_filter.mpr ⟨hx, beq_iff_eq.mpr hdie⟩)
  exact List.ne_nil_of_mem (List.mem_append_right _ hmem)

/-- Settling leaves the arrivals that are still on their dies. -/
theorem GridBarrier.settle_dies (n : Nat) : ∀ b : GridBarrier, (b.settle n).1.dies = b.dies := by
  induction n with
  | zero => exact fun _ => rfl
  | succ n ih =>
    intro b
    unfold GridBarrier.settle
    split
    · exact ih _
    · rfl

/-- A generation without a count, or with fewer arrivals than it, goes on. -/
theorem GridBarrier.settle_waits {b : GridBarrier} (h : b.count = 0 ∨ b.reported.length < b.count) (n : Nat) : b.settle n = (b, []) := by
  cases n with
  | zero => rfl
  | succ n =>
    unfold GridBarrier.settle
    rw [if_neg (by omega)]

/-- A generation that has its count ends with all its arrivals, and none is left. -/
theorem GridBarrier.settle_ends {b : GridBarrier} (h : b.reported.length = b.count) (hne : b.reported ≠ []) :
    ∃ next, b.settle b.reported.length = ({ b with count := next, reported := [] }, [(b.count, b.reported)]) := by
  obtain ⟨n, hn⟩ := Nat.exists_eq_succ_of_ne_zero (mt List.length_eq_zero_iff.mp hne)
  rw [hn, Nat.succ_eq_add_one]
  unfold GridBarrier.settle
  rw [if_pos (by omega)]
  simp only [List.drop_of_length_le h.le, List.take_of_length_le h.le]
  have hwaits : ∀ next, GridBarrier.settle n { b with count := next, reported := [] } = ({ b with count := next, reported := [] }, []) :=
    fun next => GridBarrier.settle_waits (Nat.eq_zero_or_pos next) n
  exact ⟨_, by rw [hwaits]⟩

/-- BCMIS is a team's: threads and grids are as they were. -/
theorem State.countMismatch_keeps (s : State) (new : List Arrival) (gens : List (Nat × List Arrival)) :
    (s.countMismatch new gens).threads = s.threads ∧ (s.countMismatch new gens).grids = s.grids := by
  unfold State.countMismatch
  refine List.foldlRecOn _ _ (motive := fun x : State => x.threads = s.threads ∧ x.grids = s.grids) ⟨rfl, rfl⟩ fun x hx a _ => ?_
  dsimp only
  split
  · unfold State.setBcmis
    split <;> exact hx
  · exact hx

theorem State.modEach_grids (s : State) (ids : List Nat) (f : Thread → Thread) : (s.modEach ids f).grids = s.grids :=
  List.foldlRecOn (motive := fun x : State => x.grids = s.grids) ids _ rfl fun _ hx _ _ => hx

/-- Each thread of a release has an edge no earlier than any mark among them. -/
theorem State.releaseAll_edge {l : List Arrival} {a : Arrival} (ha : a ∈ l) {s : State} {t : Thread} (ht : s.thread? a.tid = some t) :
    ∃ u mark, (s.releaseAll l).thread? a.tid = some u ∧ u.edge = some mark ∧ ∀ y ∈ l, y.tm ≤ mark := by
  have hid : ∀ x : Thread, (x.addEdge (releaseMark l)).id = x.id := fun _ => rfl
  obtain ⟨k, hk⟩ := Nat.exists_eq_succ_of_ne_zero (List.count_pos_iff.mpr (List.mem_map_of_mem (f := (·.tid)) ha)).ne'
  rw [State.releaseAll_eq, State.thread?_modEach hid, ht, hk, Function.iterate_succ']
  exact ⟨_, _, rfl, rfl, fun y hy => (le_releaseMark hy).trans (le_max_left _ _)⟩

/-- An element of a list after it has changed. -/
theorem modAt_getD_same {α : Type} (f : α → α) {n : Nat} {l : List α} (h : n < l.length) (d : α) :
    (modAt f n l).getD n d = f (l.getD n d) := by
  rw [List.getD_eq_getElem?_getD, modAt_getElem?, if_pos rfl, List.getD_eq_getElem?_getD, List.getElem?_eq_getElem h]
  rfl

/-- What a die's message leaves of the barrier: the barrier that goes on, and the generations that it ends. -/
def GridBarrier.message (b : GridBarrier) (die : Nat) : GridBarrier × List (Nat × List Arrival) :=
  (b.report die).settle (b.report die).reported.length

/-- The grid with b as its barrier n. -/
def Grid.withBarrier (n : Nat) (b : GridBarrier) (g : Grid) : Grid :=
  { g with bars := modAt (fun _ => b) n g.bars }

/-- The state after a die's message for barrier n of a grid. -/
def State.dbarReported (s : State) (g : Grid) (n die : Nat) : State :=
  let b := g.bars.getD n {}
  let r := b.message die
  (r.2.map (·.2)).foldl State.releaseAll ((s.modGrid g.event (Grid.withBarrier n r.1)).countMismatch
    ((b.dies.filter (fun x => x.1 == die)).map (·.2)) (r.2 ++ [(r.1.count, r.1.reported)]))

section
variable {s : State} {g : Grid} {n die : Nat} (hg : s.grid? g.event = some g) (hx : ∃ x ∈ (g.bars.getD n {}).dies, x.1 = die)
include hg hx

theorem dbarDieMessage_next (hdie : s.dieFenced die = false) :
    exec (.dbarDieMessage g.event n die) s = .next (s.dbarReported g n die) := by
  obtain ⟨x, hx, hxdie⟩ := hx
  have hmine : ((g.bars.getD n {}).dies.filter (fun x => x.1 == die)).isEmpty = false :=
    List.isEmpty_eq_false_iff_exists_mem.mpr ⟨x, List.mem_filter.mpr ⟨hx, beq_iff_eq.mpr hxdie⟩⟩
  change execDbarDieMessage g.event n die s = _
  simp only [execDbarDieMessage, hg, hmine, hdie, Bool.or_false]
  rfl

theorem State.grid?_dbarReported :
    ∃ h, (s.dbarReported g n die).grid? g.event = some h ∧ h.bars.getD n {} = ((g.bars.getD n {}).message die).1 := by
  have hrange : n < g.bars.length := by
    obtain ⟨x, hx, -⟩ := hx
    by_contra hout
    simp [List.getElem?_eq_none (Nat.not_lt.mp hout)] at hx
  have hgrids : (s.dbarReported g n die).grids = (s.modGrid g.event (Grid.withBarrier n ((g.bars.getD n {}).message die).1)).grids := by
    unfold State.dbarReported
    refine List.foldlRecOn (motive := fun x : State => x.grids = _) _ _ (State.countMismatch_keeps _ _ _).2 fun x hx l _ => ?_
    rw [State.releaseAll_eq, State.modEach_grids, hx]
  refine ⟨Grid.withBarrier n ((g.bars.getD n {}).message die).1 g, ?_, ?_⟩
  · have hmod := State.grid?_modGrid s g.event g.event (Grid.withBarrier n ((g.bars.getD n {}).message die).1) (fun _ => rfl)
    rw [if_pos rfl, hg] at hmod
    rw [State.grid?, hgrids]
    exact hmod
  · exact modAt_getD_same _ hrange _

end

/-- A generation that goes on leaves every thread as it was. -/
theorem State.threads_dbarReported (s : State) {g : Grid} {n die : Nat} {b : GridBarrier} (h : (g.bars.getD n {}).message die = (b, [])) :
    (s.dbarReported g n die).threads = s.threads := by
  simp only [State.dbarReported, h]
  exact (State.countMismatch_keeps _ _ _).1

/-- A generation that ends gives each thread of its arrivals an edge no earlier than any of their marks. -/
theorem State.edge_dbarReported {s : State} {g : Grid} {n die count : Nat} {b : GridBarrier} {all : List Arrival}
    (h : (g.bars.getD n {}).message die = (b, [(count, all)])) {a : Arrival} (ha : a ∈ all) {t : Thread} (ht : s.thread? a.tid = some t) :
    ∃ u mark, (s.dbarReported g n die).thread? a.tid = some u ∧ u.edge = some mark ∧ ∀ y ∈ all, y.tm ≤ mark := by
  simp only [State.dbarReported, h]
  refine State.releaseAll_edge ha (t := t) ?_
  rw [State.thread?, (State.countMismatch_keeps _ _ _).1]
  exact ht

/-! ### Queue descriptors (R415) -/

theorem State.queue_modQueue {s : State} {q : Nat} (hq : q < s.queues.length) (f : Queue → Queue) : (s.modQueue q f).queue q = f (s.queue q) :=
  modAt_getD_same f hq _

theorem State.queue_modQueue_other (s : State) {q k : Nat} (hk : k ≠ q) (f : Queue → Queue) : (s.modQueue q f).queue k = s.queue k := by
  rw [State.queue, State.modQueue_queues, List.getD_eq_getElem?_getD, modAt_getElem?, if_neg hk.symm, ← List.getD_eq_getElem?_getD, State.queue]

/-- A field replaced, as the number's parts above, in and below it. -/
theorem setFld_eq (v lo len x : Nat) : setFld v lo len x = 2 ^ lo * (2 ^ len * (v / 2 ^ lo / 2 ^ len) + x % 2 ^ len) + v % 2 ^ lo := by
  have hv : v = 2 ^ lo * (2 ^ len * (v / 2 ^ lo / 2 ^ len)) + v % 2 ^ lo + v / 2 ^ lo % 2 ^ len * 2 ^ lo := by
    conv_lhs => rw [← Nat.div_add_mod v (2 ^ lo), ← Nat.div_add_mod (v / 2 ^ lo) (2 ^ len)]
    ring
  have hrest : v - v / 2 ^ lo % 2 ^ len * 2 ^ lo = 2 ^ lo * (2 ^ len * (v / 2 ^ lo / 2 ^ len)) + v % 2 ^ lo := Nat.sub_eq_of_eq_add hv
  rw [setFld, fld_eq, hrest]
  ring

/-- A bit outside a field is as it was. -/
theorem setFld_testBit_outside {v lo len x b : Nat} (h : b < lo ∨ lo + len ≤ b) : (setFld v lo len x).testBit b = v.testBit b := by
  rw [setFld_eq, Nat.testBit_two_pow_mul_add _ (Nat.mod_lt v (Nat.two_pow_pos lo))]
  split
  next hlow => rw [Nat.testBit_mod_two_pow, decide_eq_true hlow, Bool.true_and]
  next hhigh =>
    rw [Nat.testBit_two_pow_mul_add _ (Nat.mod_lt x (Nat.two_pow_pos len)), if_neg (by omega), Nat.testBit_div_two_pow, Nat.testBit_div_two_pow]
    congr 1
    omega

/-- A write to an enabled queue's descriptor leaves every bit but EN and STOPPED (R415). -/
theorem descWrite_getLsbD {q : Queue} (hen : q.enabled = true) (v : Nat) {b : Nat} (h0 : b ≠ 0) (h31 : b ≠ 31) :
    (descWrite q v).desc.getLsbD b = q.desc.getLsbD b := by
  simp only [descWrite, hen, if_true, BitVec.getLsbD_ofNat]
  rw [setFld_testBit_outside (by omega), setFld_testBit_outside (by omega), BitVec.testBit_toNat]
  cases hb : q.desc.getLsbD b with
  | false => rw [Bool.and_false]
  | true => rw [decide_eq_true (BitVec.lt_of_getLsbD hb), Bool.true_and]

/-- A queue whose records and child grids count from 0. -/
def Queue.fresh (x : Queue) : Queue := { x with head := 0, childCount := 0 }

/-- The state after a descriptor's write: a queue that becomes enabled counts afresh, its event numbers too. -/
def State.descWritten (s : State) (q v : Nat) : State :=
  let w := s.modQueue q (fun x => descWrite x v)
  if !(s.queue q).enabled && (w.queue q).enabled then
    { w with events := w.events.filter (fun e => e.event / 2 ^ 48 != q) }.modQueue q Queue.fresh
  else w

theorem queueDescriptorWrite_next {s : State} {q : Nat} {v : BitVec 128} (hq : q ≤ 255) (hstage : 6 ≤ s.host.stage) :
    exec (.queueDescriptorWrite q v) s = .next (s.descWritten q v.toNat) := by
  change execQueueDescriptorWrite q v s = _
  simp only [execQueueDescriptorWrite]
  rw [if_neg (by omega), State.descWritten]
  split <;> rfl

theorem State.queue_descWritten_other (s : State) (v : Nat) {q k : Nat} (hk : k ≠ q) : (s.descWritten q v).queue k = s.queue k := by
  unfold State.descWritten
  dsimp only
  split
  · rw [State.queue_modQueue_other _ hk]
    exact s.queue_modQueue_other hk _
  · exact s.queue_modQueue_other hk _

/-- The queue itself has its new descriptor; one that has become enabled counts from 0. -/
theorem State.queue_descWritten {s : State} {q : Nat} (hq : q < s.queues.length) (v : Nat) :
    (s.descWritten q v).queue q = if (s.queue q).enabled = false ∧ (descWrite (s.queue q) v).enabled = true then (descWrite (s.queue q) v).fresh
      else descWrite (s.queue q) v := by
  have hw := State.queue_modQueue hq (fun x => descWrite x v)
  simp only [State.descWritten, Bool.and_eq_true, Bool.not_eq_true', hw]
  split
  · have hq' : q < (s.modQueue q (fun x => descWrite x v)).queues.length := by simpa using hq
    exact (State.queue_modQueue hq' Queue.fresh).trans (congrArg Queue.fresh hw)
  · exact hw

/-! ### Rings (R416, R417) -/

/-- What the check of a record gives its grid (R417, R421). -/
def Grid.checked (g : Grid) (c : RecordCheck) : Grid :=
  let n := newGrid g.event g.queue g.asid g.record c
  { g with unchecked := false, refused := n.refused, schedHeader := n.schedHeader, sched := n.sched, peloton := n.peloton, ranks := n.ranks }

/-- A check that waits for nothing is over. -/
theorem State.checkGrid_next {s : State} {e : Nat} {g : Grid} {c : RecordCheck} (hg : s.grid? e = some g)
    (hc : s.checkRecord (.engine g.engine) g.asid g.rec_ = c) (hdone : ∀ w, c ≠ .wait w) :
    s.checkGrid e = .next ((s.modMem (fun m => { m with refused := m.refused.filter (fun x => x.1 != g.engine) })).modGrid e
      (·.checked c)) := by
  cases c with
  | wait w => exact absurd rfl (hdone w)
  | refused n => simp only [State.checkGrid, hg, hc]; rfl
  | accepted h l b => simp only [State.checkGrid, hg, hc]; rfl

/-- The state in which the next record of a queue has been copied and HEAD has moved on, the snoop of HEAD's line having left s1. -/
def State.ringCopied (s s1 : State) (q : Nat) : State :=
  let d := s.queue q
  let read := ((s1.mailboxStore (d.base + 128) (natToBytes 8 (d.head + 1))).modQueue q (fun x => { x with head := d.head + 1 })).useFresh.newId
  read.2.addGrid { event := s.eventKey (ringEvent q d.head), queue := q, asid := d.asid
                   record := bytesToNat (s.mailboxLoad (d.base + 256 + 256 * (d.head % 2 ^ d.slots)) 256), unchecked := true, engine := read.1 }

/-- A queue has a next record that may be read: no record of it is still unchecked, its ring has one more, fewer than 4,096 of its grids are
open, and no byte to be read or written there is fenced. -/
structure State.RingReady (s : State) (q : Nat) : Prop where
  inTable : q ≤ 255
  stage : 6 ≤ s.host.stage
  checked : ∀ g ∈ s.grids, g.queue = q → g.unchecked = false
  enabled : (s.queue q).enabled = true
  runs : (s.queue q).stopped = false
  more : (s.queue q).head < bytesToNat (s.mailboxLoad (s.queue q).base 8)
  few : (s.grids.filter (fun g => g.queue == q && !bit g.event 47 && g.status != .complete)).length < 4096
  unfenced : ∀ off ∈ [(s.queue q).base, (s.queue q).base + 256 + 256 * ((s.queue q).head % 2 ^ (s.queue q).slots), (s.queue q).base + 128],
    s.mailboxFenced off = false

/-- The next record of a queue is copied, and checked; where its check cannot be made now its grid stands unchecked. -/
theorem ringRecordRead_eq {s s1 : State} {q : Nat} (h : s.RingReady q) (hsnoop : s.mailboxSnoop ((s.queue q).base + 128) = (none, s1)) :
    exec (.ringRecordRead q) s = match (s.ringCopied s1 q).checkGrid (s.eventKey (ringEvent q (s.queue q).head)) with
      | .next s => .next s
      | _ => .next (s.ringCopied s1 q) := by
  have hnone : s.grids.find? (fun g => g.queue == q && g.unchecked) = none := by
    rw [List.find?_eq_none]
    intro g hg
    by_cases hq : g.queue = q
    · simp [hq, h.checked g hg hq]
    · simp [hq]
  have hopen : [(s.queue q).base, (s.queue q).recordAt (s.queue q).head, (s.queue q).base + 128].any s.mailboxFenced = false :=
    List.any_eq_false.mpr fun off hoff => by simpa using h.unfenced off hoff
  change execRingRecordRead q s = _
  simp only [execRingRecordRead, hnone, hsnoop]
  rw [if_neg]
  · rfl
  · have := h.inTable; have := h.stage; have := h.more; have := h.few
    simp [hopen, h.enabled, h.runs]
    omega

/-! ### GRID_COMPLETE (R427) -/

section
variable {s : State} {g : Grid} (hg : s.grid? g.event = some g) (hstatus : g.status = .queued) (hchecked : g.unchecked = false)
  (hsettled : ∀ m ∈ s.teams, m.grid = g.event → m.settling = false) (hover : g.refused ≠ 0 ∨ g.depFailed = true ∨ s.gridDone g = true)

include hstatus hchecked hsettled hover in
theorem State.mayComplete_of : s.mayComplete g = true := by
  have hnone : s.teams.any (fun m => m.grid == g.event && m.settling) = false := by
    simpa [List.any_eq_false] using hsettled
  rw [State.mayComplete, hnone, hstatus, hchecked]
  simpa [or_assoc] using hover

include hg hstatus hchecked hsettled hover

theorem gridComplete_silent (hcompl : g.rec_.compl = 0) : exec (.gridComplete g.event) s = .next (s.finishGrid g s.time.hub) := by
  have hmay : ¬((!s.mayComplete g) = true) := by simp [State.mayComplete_of hstatus hchecked hsettled hover]
  change execGridComplete g.event s = _
  simp only [execGridComplete, hg]
  rw [if_neg hmay, if_pos hcompl]

theorem gridComplete_stored {vt : Nat} {s1 : State} (hcompl : g.rec_.compl ≠ 0) (hstore : s.storeCompletion g s.time.hub = (.ok vt, s1)) :
    exec (.gridComplete g.event) s = .next (s1.finishGrid g s.time.hub) := by
  have hmay : ¬((!s.mayComplete g) = true) := by simp [State.mayComplete_of hstatus hchecked hsettled hover]
  change execGridComplete g.event s = _
  simp only [execGridComplete, hg, hstore]
  rw [if_neg hmay, if_neg hcompl]

end

theorem State.grid?_removeGrid (s : State) (g : Grid) : (s.removeGrid g).grid? g.event = none := by
  rw [State.grid?, List.find?_eq_none]
  intro h hh
  simpa using (List.mem_filter.mp hh).2

theorem State.team_grid_removeGrid {s : State} {g : Grid} {m : Team} (hm : m ∈ (s.removeGrid g).teams) : m.grid ≠ g.event := by
  obtain ⟨hin, hout⟩ := List.mem_filter.mp hm
  intro hgrid
  have hmem : m.id ∈ (s.teams.filter (fun m => m.grid == g.event)).map (·.id) :=
    List.mem_map_of_mem (List.mem_filter.mpr ⟨hin, beq_iff_eq.mpr hgrid⟩)
  simp [hmem] at hout

end Sys2Proof.Machine

/-! SUPPORT. Admission, resumption and swapping of teams (spec/05 R154; spec/11 R308-R310; spec/16 R424, R425, R433): each event where its
condition holds, and what saving a team leaves of teams and threads. -/
namespace Sys2Proof.Machine

/-! ### Admission (R424, R425, R433) -/

section
variable {s : State} {g : Grid} {rest : List Grid} (hranked : s.ranked = g :: rest) (hpre : s.preempted? g.event = none) (hmay : s.mayStart g = true)
include hranked hpre hmay

theorem teamAdmit_held {m : Team} (hheld : s.held? g.event = some m) : exec (.teamAdmit [m.place]) s = .next (s.beginTeam m.id) := by
  change execTeamAdmit [m.place] s = _
  simp only [execTeamAdmit, hranked, State.admitTeams, hpre, hheld, hmay, beq_self_eq_true, Bool.and_self, if_true]

theorem teamAdmit_unit {s' : State} {ps : List Place} (hheld : s.held? g.event = none) (hfits : s.fitsUnit g ps = true)
    (hstart : s.startUnit g ps = some s') : exec (.teamAdmit ps) s = .next s' := by
  change execTeamAdmit ps s = _
  simp only [execTeamAdmit, hranked, State.admitTeams, hpre, hheld, hmay, hfits, hstart, if_true]
  rfl

end

/-! ### Resumption (R310, R425) -/

section
variable {s : State} {m : Team} (hm : s.team? m.id = some m)
include hm

theorem teamResume_next {s' : State} {g : Grid} {ps : List Place} (hg : s.grid? m.grid = some g) (hstatus : m.status = .preempted)
    (hrank : s.outranked m = false) (hfits : s.resumesOn m ps = true) (hon : s.resumeOn m ps = some s') : exec (.teamResume m.id ps) s = .next s' := by
  change execTeamResume m.id ps s = _
  simp only [execTeamResume, hm, hg, hstatus, hrank, hfits, hon]
  rfl

theorem stolenContinuation_next {p : Place} (hstatus : m.status = .swapped)
    (hreleased : ∃ t ∈ s.threads, t.team = m.id ∧ t.resident = true ∧ t.frame.state = 1) (hcluster : oneCluster (p :: s.stayed m) = true)
    (hfits : s.fitsAgain m p = true) (hplaced : (s.restoreTeam m.id p).allPlaced p = true) :
    exec (.stolenContinuation m.id p) s = .next (s.restoreTeam m.id p) := by
  have hany : s.threads.any (fun t => t.team == m.id && t.resident && t.frame.state == 1) = true := by
    obtain ⟨t, ht, hteam, hres, hstate⟩ := hreleased
    exact List.any_eq_true.mpr ⟨t, ht, by simp [hteam, hres, hstate]⟩
  change execStolenContinuation m.id p s = _
  simp only [execStolenContinuation, hm, hstatus, hany, hcluster, hfits, hplaced]
  rfl

end

/-! ### A team that resumes alone: its static cluster has no memory -/

section
variable {s : State} {m : Team} (halone : s.contribution m = 0)
include halone

theorem State.stayed_alone : s.stayed m = [] := by simp [State.stayed, State.clusterMates, halone]

theorem State.resumeUnit_alone : s.resumeUnit m = [m] := by simp [State.resumeUnit, halone]

theorem oneCluster_alone (p : Place) : oneCluster (p :: s.stayed m) = true := by
  rw [State.stayed_alone halone]
  simp [oneCluster, List.eraseDups_cons]

theorem State.resumesOn_alone {p : Place} (hfits : s.fitsAgain m p = true) : s.resumesOn m [p] = true := by
  have hone : oneCluster ([p] ++ s.stayed m) = true := oneCluster_alone halone p
  rw [State.resumesOn, hone, State.resumeUnit_alone halone]
  simp [hfits]

theorem State.resumeOn_alone {p : Place} (hplaced : (s.restoreTeam m.id p).allPlaced p = true) :
    s.resumeOn m [p] = some (s.restoreTeam m.id p) := by
  simp [State.resumeOn, State.resumeUnit_alone halone, hplaced]

end

/-! ### Saving a team (R154, R308) -/

/-- Threads are as they were, and a team found has the status it had. -/
structure KeepsTeams (s s' : State) : Prop where
  threads : s'.threads = s.threads
  status : ∀ u, (s'.team? u).map (·.status) = (s.team? u).map (·.status)

theorem KeepsTeams.refl (s : State) : KeepsTeams s s := ⟨rfl, fun _ => rfl⟩

theorem KeepsTeams.trans {a b c : State} (h : KeepsTeams a b) (k : KeepsTeams b c) : KeepsTeams a c :=
  ⟨k.threads.trans h.threads, fun u => (k.status u).trans (h.status u)⟩

theorem OnlyHome.keepsTeams {s s' : State} (h : OnlyHome s s') : KeepsTeams s s' :=
  ⟨h.threads, fun u => by rw [State.team?, h.teams, State.team?]⟩

/-- A team's change that leaves its number and its status. -/
theorem State.modTeam_keepsTeams (s : State) (tm : Nat) {f : Team → Team} (hid : ∀ m, (f m).id = m.id) (hf : ∀ m, (f m).status = m.status) :
    KeepsTeams s (s.modTeam tm f) := by
  refine ⟨rfl, fun u => ?_⟩
  rw [State.team?_modTeam _ _ _ _ hid]
  split
  next hu =>
    rw [hu]
    cases s.team? tm <;> simp [hf]
  next => rfl

theorem State.saveRun_keepsTeams (s : State) (tm : Nat) (kind : SaveKind) (off : LaunchRecord → Nat → Nat) (bs : List Byte) :
    KeepsTeams s (s.saveRun tm kind off bs) := by
  unfold State.saveRun
  split
  · exact .refl s
  · split
    · exact .refl s
    · dsimp only
      split
      · exact .refl s
      · split
        · exact (s.recordWrite_onlyHome _ _ _).keepsTeams.trans (State.modTeam_keepsTeams _ _ (fun _ => rfl) fun _ => rfl)
        · exact (s.recordWrite_onlyHome _ _ _).keepsTeams

theorem State.saveImages_keepsTeams (s : State) (tm : Nat) : KeepsTeams s (s.saveImages tm) := by
  unfold State.saveImages
  split
  · exact .refl s
  · dsimp only
    refine List.foldlRecOn _ _ (s.saveRun_keepsTeams _ _ _ _) fun x hx t _ => ?_
    exact hx.trans ((x.storeFrame_onlyHome _).keepsTeams.trans (State.saveRun_keepsTeams _ _ _ _ _))

theorem State.saveContribution_keepsTeams (s : State) (tm : Nat) : KeepsTeams s (s.saveContribution tm) := by
  unfold State.saveContribution
  split
  · exact .refl s
  · split
    · exact s.saveRun_keepsTeams _ _ _ _
    · exact .refl s

theorem State.evictCluster_keepsTeams (s : State) (tm : Nat) : KeepsTeams s (s.evictCluster tm) := by
  unfold State.evictCluster
  split
  · exact .refl s
  · split
    · exact .refl s
    · exact List.foldlRecOn _ _ (.refl s) fun x hx t _ => hx.trans (x.saveContribution_keepsTeams t)

/-- Past the leaving of its core, saving a team changes no thread and no team's status. -/
theorem State.saveTeam_keepsTeams (s : State) (tm : Nat) (status : TeamStatus) : KeepsTeams (s.offCore tm status) (s.saveTeam tm status) :=
  (State.saveImages_keepsTeams _ _).trans (State.evictCluster_keepsTeams _ _)

/-- A thread that leaves its core waits for resumption where it was in a crew. -/
def Thread.leftCore (t : Thread) : Thread := { t with status := match t.status with | .crewed => .binned | x => x }

theorem Thread.leftCore_status (t : Thread) : t.leftCore.status ≠ .crewed := by
  unfold Thread.leftCore
  cases t.status <;> simp

/-- A thread of a team that leaves its core leaves its crew and its bin. -/
def State.leaveCore (s : State) (tid : Nat) : State := ((s.leaveCrew tid).leaveBin tid).modThread tid Thread.leftCore

theorem State.leaveCore_teams (s : State) (tid : Nat) : (s.leaveCore tid).teams = s.teams := by
  unfold State.leaveCore State.leaveCrew
  split <;> rfl

/-- The numbers of the threads stay. -/
theorem State.leaveCore_ids (s : State) (tid : Nat) : (s.leaveCore tid).threads.map (·.id) = s.threads.map (·.id) := by
  have hleave : (s.leaveCrew tid).threads.map (·.id) = s.threads.map (·.id) := by
    cases hc : s.crewOf tid with
    | none => simp only [State.leaveCrew, hc]
    | some c =>
      rw [State.leaveCrew_eq hc]
      exact modFirst_map_key (key := Thread.id) _ (f := (·.takeCopy c)) (fun _ => rfl) s.threads
  exact (modFirst_map_key (key := Thread.id) _ (f := Thread.leftCore) (fun _ => rfl) _).trans hleave

/-- A thread found after one has left its core stood before in the same team; it is in a crew only where it was, and did not leave. -/
theorem State.thread?_leaveCore {s : State} {tid u : Nat} {t' : Thread} (h : (s.leaveCore tid).thread? u = some t') :
    ∃ t, s.thread? u = some t ∧ t'.team = t.team ∧ (u = tid ∨ t.status ≠ .crewed → t'.status ≠ .crewed) := by
  have hmod : (s.leaveCore tid).thread? u = if u = tid then ((s.leaveCrew tid).thread? tid).map Thread.leftCore else (s.leaveCrew tid).thread? u :=
    State.thread?_modThread _ _ _ _ fun _ => rfl
  have hleave : ∃ f : Thread → Thread, (∀ t, (f t).team = t.team) ∧
      ∀ v, (s.leaveCrew tid).thread? v = if v = tid then (s.thread? tid).map f else s.thread? v := by
    cases hc : s.crewOf tid with
    | none => exact ⟨id, fun _ => rfl, fun v => by simp only [State.leaveCrew, hc, Option.map_id_fun, id]; split <;> simp [*]⟩
    | some c => exact ⟨(·.takeCopy c), fun _ => rfl, State.thread?_leaveCrew hc⟩
  obtain ⟨f, hteam, hf⟩ := hleave
  rw [hmod, hf, hf, if_pos rfl, Option.map_map] at h
  by_cases hu : u = tid
  · subst hu
    rw [if_pos rfl] at h
    obtain ⟨t, ht, rfl⟩ := Option.map_eq_some_iff.mp h
    exact ⟨t, ht, hteam t, fun _ => Thread.leftCore_status _⟩
  · rw [if_neg hu, if_neg hu] at h
    exact ⟨t', h, rfl, fun hcrewed => hcrewed.resolve_left hu⟩

/-- Several threads leave their core. -/
def State.leaveCores (s : State) (ids : List Nat) : State := ids.foldl State.leaveCore s

theorem State.leaveCores_teams (s : State) (ids : List Nat) : (s.leaveCores ids).teams = s.teams :=
  List.foldlRecOn (motive := fun x : State => x.teams = s.teams) _ _ rfl fun x hx t _ => (x.leaveCore_teams t).trans hx

theorem State.leaveCores_ids (s : State) (ids : List Nat) : (s.leaveCores ids).threads.map (·.id) = s.threads.map (·.id) :=
  List.foldlRecOn (motive := fun x : State => x.threads.map (·.id) = s.threads.map (·.id)) _ _ rfl fun x hx t _ => (x.leaveCore_ids t).trans hx

theorem State.thread?_leaveCores {u : Nat} {t' : Thread} (ids : List Nat) : ∀ {s : State}, (s.leaveCores ids).thread? u = some t' →
    ∃ t, s.thread? u = some t ∧ t'.team = t.team ∧ (u ∈ ids ∨ t.status ≠ .crewed → t'.status ≠ .crewed) := by
  induction ids with
  | nil => exact fun h => ⟨t', h, rfl, fun hc => hc.resolve_left List.not_mem_nil⟩
  | cons k ks ih =>
    intro s h
    obtain ⟨t1, h1, hteam1, hstatus1⟩ := ih h
    obtain ⟨t, ht, hteam, hstatus⟩ := State.thread?_leaveCore h1
    refine ⟨t, ht, hteam1.trans hteam, fun hc => hstatus1 ?_⟩
    rw [List.mem_cons, or_assoc, or_left_comm] at hc
    exact hc.imp_right hstatus

section
variable {s : State} {m : Team} (hm : s.team? m.id = some m) (status : TeamStatus)
include hm

theorem State.offCore_eq : ∃ f : Team → Team, (∀ x, (f x).id = x.id ∧ (f x).status = status)
    ∧ s.offCore m.id status = (s.leaveCores ((s.threads.filter (fun t => t.team == m.id)).map (·.id))).modTeam m.id f := by
  refine ⟨_, fun x => ?_, by rw [State.offCore, hm]; rfl⟩
  exact ⟨rfl, rfl⟩

/-- A team that has been saved has its new status. -/
theorem State.status_saveTeam : ∃ n, (s.saveTeam m.id status).team? m.id = some n ∧ n.status = status := by
  obtain ⟨f, hf, hoff⟩ := State.offCore_eq hm status
  have hfound : (s.offCore m.id status).team? m.id = some (f m) := by
    rw [hoff, State.team?_modTeam _ _ _ _ fun x => (hf x).1, if_pos rfl, State.team?, State.leaveCores_teams, ← State.team?, hm, Option.map_some]
  have hkept := (s.saveTeam_keepsTeams m.id status).status m.id
  rw [hfound, Option.map_some, (hf m).2] at hkept
  exact Option.map_eq_some_iff.mp hkept

/-- No thread of a team that has been saved is in a crew. -/
theorem State.not_crewed_saveTeam (hd : (s.threads.map (·.id)).Nodup) {t : Thread} (ht : t ∈ (s.saveTeam m.id status).threads)
    (hteam : t.team = m.id) : t.status ≠ .crewed := by
  obtain ⟨f, -, hoff⟩ := State.offCore_eq hm status
  rw [(s.saveTeam_keepsTeams m.id status).threads, hoff, State.modTeam_threads] at ht
  have hfound := find?_key_of_mem (key := Thread.id) (by rwa [← State.leaveCores_ids] at hd) ht
  obtain ⟨u, hu, hsame, hstatus⟩ := State.thread?_leaveCores _ hfound
  refine hstatus (.inl ?_)
  have hid : u.id = t.id := by simpa using List.find?_some hu
  rw [← hid]
  exact List.mem_map_of_mem (List.mem_filter.mpr ⟨List.mem_of_find?_eq_some hu, beq_iff_eq.mpr (hsame.symm.trans hteam)⟩)

theorem teamSwap_next (hres : m.status = .resident) (hdie : s.dieFenced m.place.die = false) (hmay : s.maySwap m = true)
    (hwaits : s.waitsForRoom m.place = true) : exec (.teamSwap m.id) s = .next (s.saveTeam m.id .swapped) := by
  change execTeamSwap m.id s = _
  simp only [execTeamSwap, hm, hres, hdie, hmay, hwaits]
  rfl

end

end Sys2Proof.Machine

namespace Sys2Proof.Claims
open Sys2Proof.Machine

/-- Settles O52: each event of threads, scrubbing, barriers, queues, grids and teams has, where its condition holds, the effect that its
lemma gives. -/
theorem threadAndGridEvents : Obligations.ThreadAndGridEvents := by
  unfold Obligations.ThreadAndGridEvents
  refine ⟨?threads, ?registers, ?scratch, ?caches, fun s unit corrected => ?passes, ?barrier, ?descriptor, ?ring, ?complete, ?admission, ?resume,
    fun s s' m g ps hm hg hstatus hrank hfits hon => teamResume_next hm hg hstatus hrank hfits hon, ?swap⟩
  case threads =>
    intro s t m ht hm hdie p
    exact ⟨fun mark hres hedge hreached => edgeReconcile_next ht hm hdie hres hedge hreached,
      fun x htrap hrun hlong hfirst => handlerTimeout_next ht hm hdie htrap hrun hlong hfirst⟩
  case registers =>
    intro s t corrected granule q ht hwin hq
    have hwindow := State.thread?_poisonWindow (s := s.scrubbed (s.placeOf t).die 0 corrected) (by simpa using ht) granule
    have hnext := registerScrub_next (found := ⟨corrected, granule, q⟩) ht hwin hq
    cases hof : s.crewOf t.id with
    | none =>
      refine ⟨_, _, hnext, State.thread?_poisonCopy_alone hwindow (by simpa using hof) q, fun b => mem_poisonFound,
        fun _ b => mem_poisonFound, ?_⟩
      exact fun c hc => absurd hc (by simp)
    | some c =>
      refine ⟨_, _, hnext, (State.thread?_poisonCopy_crewed (by simpa using hof) q).trans hwindow, fun b => mem_poisonFound,
        fun hnone => absurd hnone (by simp), ?_⟩
      rintro _ ⟨⟩ hc
      exact ⟨_, State.crew?_poisonCopy (by simpa using hof) (by simpa using hc) q, fun b => mem_poisonFound⟩
  case scratch =>
    intro s corrected
    refine ⟨scratchScrub_counts s corrected, fun x hlevel hin => ⟨_, scratchScrub_allotment corrected hlevel hin, fun k => ?_⟩,
      fun x m h hlevel hm hh hin => ?_⟩
    · rw [State.scr_poisonAt (n := 8 * x.granule) hlevel (by simpa using hin), State.scr_scrubbed, mem_insertNat]
    · obtain ⟨k, hk, hrange⟩ := State.team?_modHandle (s := s.scrubbed (s.scrDie x.level x.owner) 2 corrected) (by simpa using hm) hh
        (fun h => { h with poison := insertNat x.granule h.poison })
      exact ⟨_, k, scratchScrub_range corrected hlevel hm hh hin, hk, hrange⟩
  case caches =>
    intro s unit corrected pa
    refine ⟨_, cacheScrub_finds s unit corrected pa, ?_⟩
    generalize hx : s.scrubbed (unitCounters unit).1 (unitCounters unit).2 corrected = x
    have hmem : x.mem = s.mem := hx ▸ s.scrubbed_mem _ _ _
    rw [← hmem]
    match unit with
    | .l1 p => exact x.mem_uncorrectable_l1 p pa
    | .l2 die => exact ⟨fun l hl => State.mem_uncorrectable_l2_other hl, fun l hl hdie hpa => State.dirty_of_mem_uncorrectable_l2 hl hdie hpa⟩
    | .hub => exact ⟨mem_insertNat.mpr (.inl rfl), rfl, rfl⟩
    | .stack _ => exact ⟨mem_insertNat.mpr (.inl rfl), rfl, rfl⟩
  case passes =>
    rw [cacheScrub_counts]
    cases unit <;> rfl
  case barrier =>
    intro s g n die hg hx hdie b all
    obtain ⟨h, hh, hbar⟩ := State.grid?_dbarReported hg hx
    refine ⟨_, h, dbarDieMessage_next hg hx hdie, hh, ?_, fun hwaits => ?_, fun hends => ?_⟩
    · rw [hbar]
      exact GridBarrier.settle_dies _ _
    · have hmessage : b.message die = (b.report die, []) := GridBarrier.settle_waits hwaits _
      rw [hbar, hmessage]
      exact ⟨rfl, rfl, s.threads_dbarReported hmessage⟩
    · obtain ⟨next, hmessage⟩ := GridBarrier.settle_ends (b := b.report die) hends (GridBarrier.report_ne_nil hx)
      have hmessage : b.message die = _ := hmessage
      rw [hbar, hmessage]
      exact ⟨rfl, fun a ha t ht => State.edge_dbarReported hmessage ha ht⟩
  case descriptor =>
    intro s q v hq hstage hlen
    have hin : q < s.queues.length := by omega
    refine ⟨_, queueDescriptorWrite_next hq hstage, fun k hk => s.queue_descWritten_other _ hk, ?_, fun hen b h0 h31 => ?_, fun hoff hen => ?_⟩
    · rw [State.queue_descWritten hin]
      split <;> rfl
    · rw [State.queue_descWritten hin, if_neg (by simp [hen]), descWrite_getLsbD hen _ h0 h31]
    · rw [State.queue_descWritten hin] at hen ⊢
      by_cases hopens : (s.queue q).enabled = false ∧ (descWrite (s.queue q) v.toNat).enabled = true
      · rw [if_pos hopens]
        exact ⟨rfl, rfl⟩
      · rw [if_neg hopens] at hen
        exact absurd ⟨hoff, hen⟩ hopens
  case ring =>
    intro s q hq hstage hlen d open_ record event hchecked hen hruns hmore hfew hunfenced s1 hsnoop read copied
    have hnext := ringRecordRead_eq ⟨hq, hstage, hchecked, hen, hruns, hmore, hfew, hunfenced⟩ hsnoop
    have hcopied : s.ringCopied s1 q = copied := rfl
    rw [hcopied] at hnext
    refine ⟨?_, ?_⟩
    · rw [hnext]
      split <;> exact ⟨_, rfl⟩
    · intro g hg hrecord hasid checked
      have hcheck : ∀ c, copied.checkRecord (.engine g.engine) d.asid ⟨record⟩ = c → (∀ w, c ≠ .wait w) → checked (·.checked c) := by
        intro c hc hdone
        have hgrid := State.checkGrid_next hg (c := c) (by rw [hasid, Grid.rec_, hrecord]; exact hc) hdone
        rw [hgrid] at hnext
        exact hnext
      exact ⟨fun n hn => hcheck _ hn (by simp), fun h l b hn => hcheck _ hn (by simp)⟩
  case complete =>
    intro s g hg hstatus hchecked hsettled hover
    exact ⟨fun hsilent => gridComplete_silent hg hstatus hchecked hsettled hover hsilent,
      fun vt s1 hcompl hstore => gridComplete_stored hg hstatus hchecked hsettled hover hcompl hstore, s.grid?_removeGrid g,
      fun m hm => State.team_grid_removeGrid hm⟩
  case admission =>
    intro s s' g rest ps hranked hpre hmay
    exact ⟨fun m hheld => teamAdmit_held hranked hpre hmay hheld, fun hheld hfits hstart => teamAdmit_unit hranked hpre hmay hheld hfits hstart⟩
  case resume =>
    intro s m g p hm hg halone hfits hplaced
    exact ⟨fun hstatus hrank => teamResume_next hm hg hstatus hrank (State.resumesOn_alone halone hfits) (State.resumeOn_alone halone hplaced),
      fun hstatus hreleased => stolenContinuation_next hm hstatus hreleased (oneCluster_alone halone p) hfits hplaced⟩
  case swap =>
    intro s m hm hres hdie hmay hwaits
    exact ⟨teamSwap_next hm hres hdie hmay hwaits, State.status_saveTeam hm .swapped,
      fun hd t ht hteam => State.not_crewed_saveTeam hm .swapped hd ht hteam⟩

end Sys2Proof.Claims

/-! SUPPORT. Canonical byte memories compared byte by byte (spec/06 R161, spec/08 R222, spec/09 R247), fields, counts and signed numbers
as bit vectors (spec/00 R8), words that raise a cause, and the checks of `vwset` and of element-wise words (spec/06 R164, R181, R186). -/
namespace Sys2Proof.Machine

/-! ### Byte memory -/

/-- Canonical memories that read alike are equal: the first entries decide where the memories differ. -/
theorem Mem.ext_of_wfFrom {lo : Nat} {m k : Mem} (hm : Mem.wfFrom lo m = true) (hk : Mem.wfFrom lo k = true)
    (h : ∀ x, k.read x = m.read x) : k = m := by
  induction m generalizing lo k with
  | nil =>
    cases k with
    | nil => rfl
    | cons c ks =>
      simp only [Mem.wfFrom, Bool.and_eq_true, decide_eq_true_eq] at hk
      obtain ⟨⟨-, hlisted⟩, -⟩ := hk
      exact absurd (by simpa [Mem.read] using h c.1) hlisted
  | cons c ms ih =>
    obtain ⟨a, b⟩ := c
    simp only [Mem.wfFrom, Bool.and_eq_true, decide_eq_true_eq] at hm
    obtain ⟨⟨-, hb⟩, hms⟩ := hm
    cases k with
    | nil => exact absurd (by simpa [Mem.read] using (h a).symm) hb
    | cons d ks =>
      obtain ⟨a', b'⟩ := d
      simp only [Mem.wfFrom, Bool.and_eq_true, decide_eq_true_eq] at hk
      obtain ⟨⟨-, hb'⟩, hks⟩ := hk
      have hhead : a' = a := by
        rcases Nat.lt_trichotomy a' a with hlt | heq | hgt
        · exact absurd (by simpa [Mem.read, hlt] using h a') hb'
        · exact heq
        · exact absurd (by simpa [Mem.read, hgt] using (h a).symm) hb
      subst hhead
      have hbyte : b' = b := by simpa [Mem.read] using h a'
      have htail : ks = ms := by
        refine ih hms hks fun x => ?_
        by_cases hx : x < a' + 1
        · rw [Mem.read_below hks hx, Mem.read_below hms hx]
        · have hx' := h x
          rwa [Mem.read, Mem.read, if_neg (by omega), if_neg (by omega), if_neg (by omega), if_neg (by omega)] at hx'
      rw [hbyte, htail]

theorem Mem.ext_of_wf {m k : Mem} (hm : m.wf = true) (hk : k.wf = true) (h : ∀ x, k.read x = m.read x) : k = m :=
  Mem.ext_of_wfFrom hm hk h

/-! ### Numbers as bit vectors -/

theorem ofSigned_eq (n : Nat) (v : Int) : ofSigned n v = (BitVec.ofInt n v).toNat := by
  rw [BitVec.toNat_ofInt, ofSigned]

theorem toSigned_toNat {n : Nat} (x : BitVec n) : toSigned n x.toNat = x.toInt := by
  rw [toSigned, Nat.mod_eq_of_lt x.isLt, BitVec.toInt_eq_toNat_cond]
  cases n with
  | zero => simp [BitVec.eq_nil x]
  | succ n =>
    simp only [Nat.add_sub_cancel, Nat.pow_succ']
    split_ifs <;> omega

theorem toSigned_eq (n v : Nat) : toSigned n v = (BitVec.ofNat n v).toInt := by
  rw [← toSigned_toNat, BitVec.toNat_ofNat, toSigned, toSigned, Nat.mod_mod]

theorem sext64_toNat {n : Nat} (x : BitVec n) : sext64 n x.toNat = x.signExtend 64 := by
  rw [sext64, toSigned_toNat, ofSigned_eq, BitVec.ofNat_toNat, BitVec.setWidth_eq, BitVec.signExtend]

theorem fld_toNat {w : Nat} (x : BitVec w) (lo n : Nat) : fld x.toNat lo n = (x.extractLsb' lo n).toNat := by
  rw [BitVec.extractLsb'_toNat, fld]

/-- A shift that keeps the sign is a division of the signed value (R187). -/
theorem ofSigned_div_two_pow {w : Nat} (x : BitVec w) (n : Nat) : ofSigned w (x.toInt / (2 ^ n : Nat)) = (x.sshiftRight n).toNat := by
  rw [ofSigned_eq, BitVec.sshiftRight, Int.shiftRight_eq_div_pow]

/-- Inside the field, the bits put in (R191). -/
theorem setFld_testBit_inside {v lo len x k : Nat} (hlo : lo ≤ k) (hhi : k < lo + len) :
    (setFld v lo len x).testBit k = x.testBit (k - lo) := by
  rw [setFld_eq, Nat.testBit_two_pow_mul_add _ (Nat.mod_lt _ (Nat.two_pow_pos lo)), if_neg hlo.not_gt,
    Nat.testBit_two_pow_mul_add _ (Nat.mod_lt _ (Nat.two_pow_pos len)), if_pos (by omega), Nat.testBit_mod_two_pow,
    decide_eq_true (by omega), Bool.true_and]

theorem setFld_zero (v lo x : Nat) : setFld v lo 0 x = v :=
  Nat.eq_of_testBit_eq fun _ => setFld_testBit_outside (by omega)

theorem setPredBits_getLsbD (v : BitVec 8) {p : Nat} (hp : p < 8) (b : Bool) (k : Nat) :
    (setPredBits v p b).getLsbD k = if k = p then b else v.getLsbD k := by
  have hbit : (BitVec.ofNat 8 (2 ^ p)).getLsbD k = decide (p = k) := by
    rw [BitVec.getLsbD_ofNat, Nat.testBit_two_pow]
    by_cases h : p = k
    · simp [← h, hp]
    · simp [h]
  unfold setPredBits
  generalize BitVec.ofNat 8 (2 ^ p) = one at hbit
  cases b
  · rw [if_neg Bool.false_ne_true, BitVec.getLsbD_and, BitVec.getLsbD_not, hbit]
    by_cases h : k = p
    · simp [h]
    · simpa [h, Ne.symm h] using BitVec.lt_of_getLsbD
  · rw [if_pos rfl, BitVec.getLsbD_or, hbit]
    by_cases h : k = p
    · simp [h]
    · simp [h, Ne.symm h]

/-- The bits shifted out of a number of w bits lie below those kept: their sum is their union. -/
theorem rotate_add_eq_or {w r v : Nat} (hr : r ≤ w) (hv : v < 2 ^ w) :
    v * 2 ^ r % 2 ^ w + v / 2 ^ (w - r) = v * 2 ^ r % 2 ^ w ||| v / 2 ^ (w - r) := by
  have hw : 2 ^ w = 2 ^ r * 2 ^ (w - r) := by rw [← Nat.pow_add, Nat.add_sub_cancel' hr]
  have hlow : v / 2 ^ (w - r) < 2 ^ r := Nat.div_lt_of_lt_mul (by rwa [Nat.mul_comm, ← hw])
  rw [hw, Nat.mul_comm v, Nat.mul_mod_mul_left, Nat.two_pow_add_eq_or_of_lt hlow]

theorem popcount_eq_countP (w : Nat) : ∀ v : Nat, popcount w v = (List.range w).countP v.testBit := by
  induction w with
  | zero => exact fun _ => rfl
  | succ w ih =>
    intro v
    have hshift : (List.range w).countP (v / 2).testBit = (List.range w).countP (v.testBit ∘ Nat.succ) :=
      List.countP_congr fun k _ => by rw [Function.comp_apply, Nat.testBit_succ]
    have hlow : v % 2 = if v.testBit 0 = true then 1 else 0 := by
      simp only [Nat.testBit_zero, decide_eq_true_eq]
      split <;> omega
    rw [popcount, ih, List.range_succ_eq_map, List.countP_cons, List.countP_map, hshift, hlow, Nat.add_comm]

/-- From the highest bit down, the zeros met before the first one: all, or those above the highest one. -/
theorem length_takeWhile_not_testBit (v : Nat) : ∀ w : Nat, v < 2 ^ w →
    ((List.range w).reverse.takeWhile (fun k => !v.testBit k)).length = clzElem w v := by
  intro w
  induction w with
  | zero => intro h; simp [clzElem]
  | succ w ih =>
    intro h
    rw [List.range_succ, List.reverse_append, List.reverse_singleton, List.singleton_append, List.takeWhile_cons]
    cases hbit : v.testBit w with
    | true =>
      have hge := Nat.ge_two_pow_of_testBit hbit
      have hne : v ≠ 0 := by have := Nat.two_pow_pos w; omega
      have hlog : Nat.log2 v = w := (Nat.log2_eq_iff hne).mpr ⟨hge, h⟩
      simp [clzElem, hne, hlog]
    | false =>
      have hlt : v < 2 ^ w := Nat.lt_pow_two_of_testBit v fun k hk => by
        rcases hk.eq_or_lt with rfl | hgt
        · exact hbit
        · exact Nat.testBit_lt_two_pow (h.trans_le (Nat.pow_le_pow_right Nat.two_pos hgt))
      rw [Bool.not_false, if_pos rfl, List.length_cons, ih hlt, clzElem, clzElem]
      split
      · rfl
      · have := (Nat.log2_lt ‹v ≠ 0›).mpr hlt
        omega

theorem find?_range'_getD (p : Nat → Bool) (n : Nat) : ∀ s : Nat,
    ((List.range' s n).find? p).getD (s + n) = s + ((List.range' s n).takeWhile (fun k => !p k)).length := by
  induction n with
  | zero => simp
  | succ n ih =>
    intro s
    rw [List.range'_succ, List.find?_cons, List.takeWhile_cons]
    cases hp : p s with
    | true => simp
    | false =>
      have h := ih (s + 1)
      rw [Nat.add_assoc, Nat.add_comm 1 n] at h
      simp only [Bool.not_false, if_true, List.length_cons, h]
      omega

theorem reverseBits_lt (n : Nat) : ∀ v : Nat, reverseBits n v < 2 ^ n := by
  induction n with
  | zero => simp [reverseBits]
  | succ n ih =>
    intro v
    have := ih (v / 2)
    have : v % 2 * 2 ^ n ≤ 1 * 2 ^ n := Nat.mul_le_mul_right _ (by omega)
    rw [reverseBits, Nat.pow_succ]
    omega

theorem testBit_reverseBits (n : Nat) : ∀ v k : Nat, (reverseBits n v).testBit k = (decide (k < n) && v.testBit (n - 1 - k)) := by
  induction n with
  | zero => simp [reverseBits]
  | succ n ih =>
    intro v k
    rw [reverseBits, Nat.mul_comm, Nat.testBit_two_pow_mul_add _ (reverseBits_lt n _), ih]
    rcases Nat.lt_trichotomy k n with hlt | rfl | hgt
    · rw [if_pos hlt, decide_eq_true hlt, decide_eq_true (Nat.lt_succ_of_lt hlt), Nat.testBit_div_two]
      congr 2
      omega
    · simp [Nat.testBit_zero]
    · rw [if_neg hgt.not_gt, decide_eq_false (by omega), Bool.false_and]
      exact Nat.testBit_lt_two_pow ((Nat.mod_lt _ Nat.two_pos).trans_le (Nat.le_self_pow (by omega) 2))

/-! ### Lists of numbers -/

theorem minNat?_eq_some {l : List Nat} {o : Nat} : minNat? l = some o ↔ o ∈ l ∧ ∀ x ∈ l, o ≤ x := by
  have hmin : minNat? l = l.min? := by cases l <;> rfl
  rw [hmin, List.min?_eq_some_iff]

theorem modAt_const {α : Type} (x : α) : ∀ (n : Nat) (l : List α), modAt (fun _ => x) n l = l.set n x
  | _, [] => by simp [modAt]
  | 0, y :: ys => rfl
  | n + 1, y :: ys => by rw [modAt, modAt_const x n ys, List.set_cons_succ]

/-! ### A word that raises (R46, R298) -/

/-- The cause that a participant's check comes to. -/
def raisedBy (i : IssueCtx) (p : Pipe) (v : IssueCtx → Thread → Verdict) (t : Thread) : Option Raised :=
  match v i t with
  | .trap c x => some { tid := t.id, cause := c, val := x, word := i.word, pipe := p.code }
  | _ => none

theorem raisedBy_eq_some {i : IssueCtx} {p : Pipe} {v : IssueCtx → Thread → Verdict} {t : Thread} {x : Raised} :
    raisedBy i p v t = some x ↔ ∃ c y, v i t = .trap c y ∧ x = { tid := t.id, cause := c, val := y, word := i.word, pipe := p.code } := by
  unfold raisedBy
  cases v i t <;> simp [eq_comm]

/-- A check that neither holds the word nor meets a fault pending. -/
def Verdict.Decided (v : Verdict) : Prop := v ≠ .hold ∧ v ≠ .late

theorem Verdict.andThen_decided {a b : Verdict} (ha : a.Decided) (hb : b.Decided) : (a.andThen b).Decided := by
  cases a with
  | pass => exact hb
  | hold => exact ha
  | trap c x => exact ha
  | late => exact ha

/-- Where every participant's check is decided and one raises a cause, the traps of all that do are taken (R46, R298). -/
theorem issueWord_raises {s : State} {i : IssueCtx} {p : Pipe} {v : IssueCtx → Thread → Verdict}
    (e : IssueCtx → List Thread → State → State) (hi : s.ctl.issue = some i) (hc : i.checked = false) (hd : ∀ t ∈ i.parts, (v i t).Decided) {xs : List Raised}
    (hxs : i.parts.filterMap (raisedBy i p v) = xs) (hne : xs ≠ []) :
    issueWord s p v e = .next ((s.takeTraps xs i.active i.pkt i.entry).modIssue (fun i => { i with status := .raised xs })) := by
  have hlate : (i.parts.map (fun t => (t.id, v i t))).filter (fun x => x.2 == Verdict.late) = [] := by
    simp only [List.filter_eq_nil_iff, List.mem_map]
    rintro x ⟨t, ht, rfl⟩
    simpa using (hd t ht).2
  have hhold : (i.parts.map (fun t => (t.id, v i t))).any (fun x => x.2 == Verdict.hold) = false := by
    simp only [List.any_eq_false, List.mem_map]
    rintro x ⟨t, ht, rfl⟩
    simpa using (hd t ht).1
  unfold issueWord
  rw [hi]
  dsimp only
  rw [hc, hlate, hhold]
  generalize hraised : List.filterMap _ (i.parts.map fun t => (t.id, v i t)) = raised
  have hsame : raised = xs := by
    rw [← hraised, ← hxs, List.filterMap_map]
    rfl
  subst hsame
  cases raised with
  | nil => exact absurd rfl hne
  | cons x xs => rfl

theorem IssueCtx.src_id {i : IssueCtx} {a : Nat} {t : Thread} (h : i.src a = some t) : t.id = a := by
  simpa using List.find?_some h

/-- A participant is the thread that its number names. -/
theorem IssueCtx.src_of_mem_parts {i : IssueCtx} {t : Thread} (h : t ∈ i.parts) : i.src t.id = some t := by
  obtain ⟨a, -, ha⟩ := List.mem_filterMap.mp (List.mem_filter.mp h).1
  rwa [IssueCtx.src_id ha]

theorem IssueCtx.parts_id_inj {i : IssueCtx} {t u : Thread} (ht : t ∈ i.parts) (hu : u ∈ i.parts) (h : t.id = u.id) : t = u :=
  Option.some.inj <| by rw [← IssueCtx.src_of_mem_parts ht, h, IssueCtx.src_of_mem_parts hu]

/-! ### `vwset` (R186) -/

/-- Base and stride of the view that `vwset` makes. -/
def viewTarget (o : Operand) (view : Nat) (mode : BitVec 1) (step : BitVec 7) (q : QCopy) (t : Thread) : Int × Int :=
  if mode = 0 then ((((o.val t q).extractLsb' 0 12).toNat : Int), (((o.val t q).extractLsb' 16 12).toNat : Int))
  else (((t.view view).base : Int) + step.toInt * viewE view, ((t.view view).stride : Int))

/-- What `vwset` asks of a thread: its register free, the view it makes valid (R165, R186). -/
def vwsetVerdict (o : Operand) (view : Nat) (mode : BitVec 1) (step : BitVec 7) (i : IssueCtx) (t : Thread) : Verdict :=
  (if mode = 0 then partialVerdict i.beforeQ t [o] [(o, 4)] else .pass).andThen
    (.require (viewOk view t.winSize (viewTarget o view mode step i.beforeQ t).1 (viewTarget o view mode step i.beforeQ t).2)
      Cause.viewRange 0)

/-- A thread with one view set to a base and stride (R186). -/
def Thread.setView (view : Nat) (n : Int × Int) (live : Thread) : Thread :=
  { live with views := live.views.set view ⟨n.1.toNat, n.2.toNat⟩ }

theorem execVwset_eq (view a : BitVec 6) (mode : BitVec 1) (step : BitVec 7) (s : State) :
    execVwset view a mode step s = issueWord s .alu (vwsetVerdict (.vv a s.pfx.ua) view.toNat mode step)
      (fun i ps s' => s'.modThreads ps (fun t => Thread.setView view.toNat (viewTarget (.vv a s.pfx.ua) view.toNat mode step i.beforeQ t))) := by
  have hbase : toSigned 7 step.toNat = step.toInt := toSigned_toNat step
  unfold execVwset
  simp only [hbase, modAt_const, fld_toNat]
  rfl

theorem viewOk_iff (view size : Nat) (base stride : Int) : viewOk view size base stride = true
    ↔ 0 ≤ base ∧ base < size ∧ base % (viewE view : Int) = 0 ∧ stride % (viewE view : Int) = 0
      ∧ (viewE view : Int) ≤ stride ∧ stride ≤ size := by
  simp [viewOk, and_assoc]

/-- Where the register of `vwset` is free, the check is that of the view alone. -/
theorem vwsetVerdict_of_free {o : Operand} {view : Nat} {mode : BitVec 1} {step : BitVec 7} {i : IssueCtx} {t : Thread}
    (h : mode = 0 → FieldsFree t i.beforeQ [o] [(o, 0, 4)]) : vwsetVerdict o view mode step i t
      = .require (viewOk view t.winSize (viewTarget o view mode step i.beforeQ t).1 (viewTarget o view mode step i.beforeQ t).2)
          Cause.viewRange 0 := by
  rw [vwsetVerdict]
  split
  · rw [partialVerdict_pass (h ‹_›), Verdict.pass_andThen]
  · rw [Verdict.pass_andThen]

/-- The view that `vwset` makes in a thread is valid there (R165, R186). -/
def ViewValid (o : Operand) (view : Nat) (mode : BitVec 1) (step : BitVec 7) (i : IssueCtx) (t : Thread) : Prop :=
  let n := viewTarget o view mode step i.beforeQ t
  let e : Int := viewE view
  0 ≤ n.1 ∧ n.1 < t.winSize ∧ n.1 % e = 0 ∧ n.2 % e = 0 ∧ e ≤ n.2 ∧ n.2 ≤ t.winSize

section
variable {s : State} {i : IssueCtx} (view a : BitVec 6) (mode : BitVec 1) (step : BitVec 7) (hi : s.ctl.issue = some i)
  (hfree : mode = 0 → Each i (fun t => FieldsFree t i.beforeQ [.vv a i.pfx.ua] [(.vv a i.pfx.ua, 0, 4)]))
include hfree

theorem vwsetVerdict_pass_iff {t : Thread} (ht : t ∈ i.parts) :
    vwsetVerdict (.vv a i.pfx.ua) view.toNat mode step i t = .pass ↔ ViewValid (.vv a i.pfx.ua) view.toNat mode step i t := by
  rw [vwsetVerdict_of_free fun h => hfree h t ht, Verdict.require_pass, viewOk_iff, ViewValid]

theorem vwsetVerdict_fails {t : Thread} (ht : t ∈ i.parts) (h : ¬ViewValid (.vv a i.pfx.ua) view.toNat mode step i t) :
    vwsetVerdict (.vv a i.pfx.ua) view.toNat mode step i t = .trap Cause.viewRange 0 := by
  rw [ViewValid, ← viewOk_iff, Bool.not_eq_true] at h
  rw [vwsetVerdict_of_free fun h => hfree h t ht, h]
  rfl

include hi

theorem execVwset_sets (hvalid : Each i (ViewValid (.vv a i.pfx.ua) view.toNat mode step i)) : execVwset view a mode step s
    = .next (s.modThreads i.parts (fun t => Thread.setView view.toNat (viewTarget (.vv a i.pfx.ua) view.toNat mode step i.beforeQ t))) := by
  rw [execVwset_eq, State.pfx_of hi,
    issueWord_runs .alu _ hi fun t ht => (vwsetVerdict_pass_iff view a mode step hfree ht).mpr (hvalid t ht)]

theorem execVwset_raises (hc : i.checked = false) (hbad : ∃ t ∈ i.parts, ¬ViewValid (.vv a i.pfx.ua) view.toNat mode step i t) :
    ∃ xs, execVwset view a mode step s
        = .next ((s.takeTraps xs i.active i.pkt i.entry).modIssue (fun i => { i with status := .raised xs }))
      ∧ ∀ t ∈ i.parts, (¬ViewValid (.vv a i.pfx.ua) view.toNat mode step i t ↔ ∃ x ∈ xs, x.tid = t.id ∧ x.cause = Cause.viewRange) := by
  have hfails := fun t ht => vwsetVerdict_fails view a mode step hfree (t := t) ht
  have hpasses := fun t ht => vwsetVerdict_pass_iff view a mode step hfree (t := t) ht
  rw [execVwset_eq, State.pfx_of hi]
  generalize vwsetVerdict (.vv a i.pfx.ua) view.toNat mode step = v at *
  have hraised : ∀ t ∈ i.parts, ¬ViewValid (.vv a i.pfx.ua) view.toNat mode step i t →
      ∃ x ∈ i.parts.filterMap (raisedBy i .alu v), x.tid = t.id ∧ x.cause = Cause.viewRange := fun t ht hn =>
    ⟨_, List.mem_filterMap.mpr ⟨t, ht, raisedBy_eq_some.mpr ⟨_, _, hfails t ht hn, rfl⟩⟩, rfl, rfl⟩
  refine ⟨_, issueWord_raises _ hi hc (fun t ht => ?_) rfl ?_, fun t ht => ⟨hraised t ht, ?_⟩⟩
  · by_cases hn : ViewValid (.vv a i.pfx.ua) view.toNat mode step i t
    · rw [(hpasses t ht).mpr hn]
      exact ⟨nofun, nofun⟩
    · rw [hfails t ht hn]
      exact ⟨nofun, nofun⟩
  · obtain ⟨t, ht, hn⟩ := hbad
    obtain ⟨x, hx, -⟩ := hraised t ht hn
    exact List.ne_nil_of_mem hx
  · rintro ⟨x, hx, htid, -⟩ hn
    obtain ⟨u, hu, hux⟩ := List.mem_filterMap.mp hx
    obtain ⟨c, y, htrap, rfl⟩ := raisedBy_eq_some.mp hux
    rw [IssueCtx.parts_id_inj hu ht htid, (hpasses t ht).mpr hn] at htrap
    exact absurd htrap nofun

end

/-! ### Checks of an element-wise word (R164, R181, R345) -/

theorem rangeVerdict_decided (t : Thread) (rs : List (Nat × Nat)) : (rangeVerdict t rs).Decided := by
  unfold rangeVerdict
  split <;> exact ⟨nofun, nofun⟩

theorem LaneState.verdict_decided (l : LaneState) : l.verdict.Decided := by
  unfold LaneState.verdict
  split
  · exact ⟨nofun, nofun⟩
  · split <;> exact ⟨nofun, nofun⟩

/-- The byte at offset x is named by one of the ranges. -/
def NamedIn (rs : List (Nat × Nat)) (x : Nat) : Prop := ∃ r ∈ rs, r.1 ≤ x ∧ x < r.1 + r.2

/-- Of ranges that are not empty, the lowest byte named at or above a size (R164, R303). -/
theorem lowestBeyond_eq {size o : Nat} {rs : List (Nat × Nat)} (hpos : ∀ r ∈ rs, 0 < r.2) (hn : NamedIn rs o) (ho : size ≤ o)
    (hleast : ∀ x, NamedIn rs x → size ≤ x → o ≤ x) : lowestBeyond size rs = some o := by
  have hbeyond : ∀ r ∈ rs, size < r.1 + r.2 → o ≤ max size r.1 := fun r hr h =>
    hleast _ ⟨r, hr, le_max_right _ _, by have := hpos r hr; omega⟩ (le_max_left _ _)
  rw [lowestBeyond, minNat?_eq_some]
  simp only [List.mem_map, List.mem_filter, decide_eq_true_eq]
  constructor
  · obtain ⟨r, hr, hlo, hhi⟩ := hn
    have := hbeyond r hr (by omega)
    exact ⟨r, ⟨hr, by omega⟩, by omega⟩
  · rintro x ⟨r, ⟨hr, h⟩, rfl⟩
    exact hbeyond r hr h

theorem namedRanges_pos {t : Thread} {os : List Operand} {steps : List (Nat × Nat)} (h : ∀ a ∈ os, 0 < a.len) :
    ∀ r ∈ namedRanges t os steps, 0 < r.2 := by
  intro r hr
  obtain ⟨a, ha, hr⟩ := List.mem_flatMap.mp hr
  obtain ⟨ij, -, rfl⟩ := List.mem_map.mp hr
  exact h a (List.mem_filter.mp ha).1

section
variable {w : LaneWord} {x : Pfx} {q : QCopy} {t : Thread}
  (hfree : ∀ r ∈ namedRanges t w.operands (blockSteps x), Untouched r (t.pending.map (·.1)))
include hfree

theorem LaneWord.verdict_of_unpending :
    w.verdict x q t = (rangeVerdict t (namedRanges t w.operands (blockSteps x))).andThen (w.go x t q).verdict := by
  rw [LaneWord.verdict, pendingVerdict_pass hfree, Verdict.pass_andThen]

theorem LaneWord.verdict_decided : (w.verdict x q t).Decided := by
  rw [LaneWord.verdict_of_unpending hfree]
  exact Verdict.andThen_decided (rangeVerdict_decided _ _) (LaneState.verdict_decided _)

variable (hpos : ∀ a ∈ w.operands, 0 < a.len)
include hpos

theorem LaneWord.verdict_windowRange {o : Nat} (hn : NamedIn (namedRanges t w.operands (blockSteps x)) o) (ho : t.winSize ≤ o)
    (hleast : ∀ y, NamedIn (namedRanges t w.operands (blockSteps x)) y → t.winSize ≤ y → o ≤ y) :
    w.verdict x q t = .trap Cause.windowRange o := by
  rw [LaneWord.verdict_of_unpending hfree, rangeVerdict, lowestBeyond_eq (namedRanges_pos hpos) hn ho hleast]
  rfl

theorem LaneWord.verdict_regPoison {o : Nat} (hin : ∀ y, NamedIn (namedRanges t w.operands (blockSteps x)) y → y < t.winSize)
    (ho : minNat? (w.go x t q).bad = some o ∨ (w.go x t q).bad = [] ∧ minNat? (w.go x t q).badQ = some o) :
    w.verdict x q t = .trap Cause.regPoison o := by
  have hrange : rangeVerdict t (namedRanges t w.operands (blockSteps x)) = .pass := rangeVerdict_pass fun r hr => by
    have := namedRanges_pos hpos r hr
    have := hin (r.1 + r.2 - 1) ⟨r, hr, by omega, by omega⟩
    omega
  rw [LaneWord.verdict_of_unpending hfree, hrange, Verdict.pass_andThen, LaneState.verdict]
  rcases ho with h | ⟨hnil, h⟩
  · rw [h]
  · rw [hnil, minNat?_nil, h]

end

/-! ### An element-wise word that raises (R46, R108) -/

theorem runLane_raises {s : State} {i : IssueCtx} {w : LaneWord} {t : Thread} {c o : Nat} (p : Pipe) (hi : s.ctl.issue = some i)
    (hc : i.checked = false) (hd : ∀ u ∈ i.parts, (w.verdict i.pfx i.beforeQ u).Decided) (ht : t ∈ i.parts)
    (hv : w.verdict i.pfx i.beforeQ t = .trap c o) :
    ∃ xs, runLane s p w = .next ((s.takeTraps xs i.active i.pkt i.entry).modIssue (fun i => { i with status := .raised xs }))
      ∧ ({ tid := t.id, cause := c, val := o, word := i.word, pipe := p.code } : Raised) ∈ xs ∧ ∀ x ∈ xs, ∃ u ∈ i.parts, x.tid = u.id := by
  have hmem : ({ tid := t.id, cause := c, val := o, word := i.word, pipe := p.code } : Raised)
      ∈ i.parts.filterMap (raisedBy i p (fun i t => w.verdict i.pfx i.beforeQ t)) :=
    List.mem_filterMap.mpr ⟨t, ht, raisedBy_eq_some.mpr ⟨c, o, hv, rfl⟩⟩
  refine ⟨_, issueWord_raises _ hi hc hd rfl (List.ne_nil_of_mem hmem), hmem, fun x hx => ?_⟩
  obtain ⟨u, hu, hux⟩ := List.mem_filterMap.mp hx
  obtain ⟨_, _, -, rfl⟩ := raisedBy_eq_some.mp hux
  exact ⟨u, hu, rfl⟩

/-- A cause that the first active member meets in a uniform word is every participant's (R108, log 31). -/
theorem runLaneUniform_raises {s : State} {i : IssueCtx} {w : LaneWord} {t : Thread} {c o : Nat} (p : Pipe) (hi : s.ctl.issue = some i)
    (hc : i.checked = false) (hne : i.parts ≠ []) (ht : (i.active.filterMap i.src).head? = some t)
    (hv : w.verdict i.pfx i.beforeQ t = .trap c o) :
    let xs := i.parts.map fun u => ({ tid := u.id, cause := c, val := o, word := i.word, pipe := p.code } : Raised)
    runLaneUniform s p w = .next ((s.takeTraps xs i.active i.pkt i.entry).modIssue (fun i => { i with status := .raised xs })) := by
  obtain ⟨rest, hactive⟩ := List.head?_eq_some_iff.mp ht
  unfold runLaneUniform issueUniform
  refine issueWord_raises _ hi hc (fun u _ => ?_) ?_ (by simpa using hne)
  · simp only [hactive, hv]
    exact ⟨nofun, nofun⟩
  · rw [← List.filterMap_eq_map]
    refine List.filterMap_congr fun u _ => raisedBy_eq_some.mpr ⟨c, o, ?_, rfl⟩
    simp only [hactive, hv]

/-! ### Poisoned bytes met (R181, R182) -/

/-- The poisoned bytes met so far, in the window or in the q copy. -/
def LaneState.met (l : LaneState) (inQ : Bool) : List Nat := if inQ then l.badQ else l.bad

/-- The poisoned bytes of the window or of the q copy. -/
def LaneState.poison (l : LaneState) (inQ : Bool) : List Nat := if inQ then l.q.poison else l.t.winPoison

/-- With this mask an operand reads byte n at a step, of the window or of the q copy. -/
def ReadsByte (t : Thread) (ij : Nat × Nat) (inQ : Bool) (n : Nat) (o : Option Operand) (mask : Nat) : Prop :=
  ∃ p k, o = some p ∧ p.isQ = inQ ∧ k < p.len ∧ mask.testBit k = true ∧ n = p.off t ij.1 ij.2 + k

theorem mem_maskedOffsets {off n mask x : Nat} : x ∈ maskedOffsets off n mask ↔ ∃ k < n, mask.testBit k = true ∧ x = off + k := by
  simp only [maskedOffsets, List.mem_map, List.mem_filter, List.mem_range, bit_eq, and_assoc]
  exact exists_congr fun k => by rw [Nat.add_comm k, @eq_comm _ x]

theorem LaneState.meets_met (l : LaneState) (p : Operand) (mask i j : Nat) (inQ : Bool) :
    (l.meets (some p) mask i j).met inQ = if p.isQ = inQ then l.met inQ ++ l.badOf (some p) mask i j else l.met inQ := by
  unfold LaneState.meets LaneState.met
  cases inQ <;> cases hq : p.isQ <;> simp [hq]

theorem LaneState.mem_met_meets (l : LaneState) (o : Option Operand) (mask : Nat) (ij : Nat × Nat) (inQ : Bool) (n : Nat) :
    n ∈ (l.meets o mask ij.1 ij.2).met inQ ↔ n ∈ l.met inQ ∨ (ReadsByte l.t ij inQ n o mask ∧ n ∈ l.poison inQ) := by
  cases o with
  | none => simp [LaneState.meets, ReadsByte]
  | some p =>
    have hbad : n ∈ l.badOf (some p) mask ij.1 ij.2
        ↔ (∃ k < p.len, mask.testBit k = true ∧ n = p.off l.t ij.1 ij.2 + k) ∧ n ∈ l.poison p.isQ := by
      rw [LaneState.badOf, List.mem_filter, mem_maskedOffsets, List.contains_iff_mem, LaneState.poison]
    have hreads : ReadsByte l.t ij inQ n (some p) mask
        ↔ p.isQ = inQ ∧ ∃ k < p.len, mask.testBit k = true ∧ n = p.off l.t ij.1 ij.2 + k := by
      simp [ReadsByte]
    rw [hreads, LaneState.meets_met]
    by_cases hq : p.isQ = inQ
    · rw [if_pos hq, List.mem_append, hbad, hq, eq_self_iff_true, true_and]
    · rw [if_neg hq]
      simp only [hq, false_and, or_false]

@[simp] theorem LaneState.meets_poison (l : LaneState) (o : Option Operand) (mask i j : Nat) (inQ : Bool) :
    (l.meets o mask i j).poison inQ = l.poison inQ := by
  rw [LaneState.poison, LaneState.meets_q, LaneState.meets_t, LaneState.poison]

/-- What a step of a word reads. -/
def LaneWord.input (w : LaneWord) (l : LaneState) (ij : Nat × Nat) : LaneIn :=
  { d := l.get w.d ij.1 ij.2, a := l.get w.a ij.1 ij.2, b := l.get w.b ij.1 ij.2
    preds := l.t.ctx.preds, icarry := l.t.icarry, seed := l.t.ctx.srseed }

/-- The three operands of a word, each with the bytes of it that a step reads. -/
def LaneWord.readsAt (w : LaneWord) (l : LaneState) (ij : Nat × Nat) : List (Option Operand × Nat) :=
  let m := w.reads (w.input l ij)
  [(w.d, m.1), (w.a, m.2.1), (w.b, m.2.2)]

/-- A step meets what its operands read, and nothing by what it writes. -/
theorem LaneWord.step_met (w : LaneWord) (l : LaneState) (ij : Nat × Nat) (inQ : Bool) :
    (w.step l ij).met inQ = ((w.readsAt l ij).foldl (fun l x => l.meets x.1 x.2 ij.1 ij.2) l).met inQ := by
  have hboth : (w.step l ij).bad = ((w.readsAt l ij).foldl (fun l x => l.meets x.1 x.2 ij.1 ij.2) l).bad
      ∧ (w.step l ij).badQ = ((w.readsAt l ij).foldl (fun l x => l.meets x.1 x.2 ij.1 ij.2) l).badQ := by
    unfold LaneWord.step LaneWord.readsAt LaneWord.input
    dsimp only [List.foldl]
    split <;> split <;> simp [LaneState.puts_bad, LaneState.puts_badQ]
  rw [LaneState.met, LaneState.met, hboth.1, hboth.2]

theorem LaneWord.mem_step_met (w : LaneWord) (l : LaneState) (ij : Nat × Nat) (inQ : Bool) (n : Nat) :
    n ∈ (w.step l ij).met inQ ↔ n ∈ l.met inQ ∨ ((∃ x ∈ w.readsAt l ij, ReadsByte l.t ij inQ n x.1 x.2) ∧ n ∈ l.poison inQ) := by
  rw [LaneWord.step_met]
  unfold LaneWord.readsAt
  simp only [List.foldl, LaneState.mem_met_meets, LaneState.meets_poison, LaneState.meets_t, List.mem_cons, List.not_mem_nil,
    or_false, exists_eq_or_imp, exists_eq_left]
  tauto

theorem exists_readsByte_iff {t : Thread} {ij : Nat × Nat} {inQ : Bool} {n : Nat} {xs : List (Option Operand × Nat)} :
    (∃ x ∈ xs, ReadsByte t ij inQ n x.1 x.2) ↔ ∃ o x k, (some o, x) ∈ xs ∧ o.isQ = inQ
      ∧ k < o.len ∧ x.testBit k = true ∧ n = o.off t ij.1 ij.2 + k := by
  constructor
  · rintro ⟨⟨_, x⟩, hx, o, k, rfl, h⟩
    exact ⟨o, x, k, hx, h⟩
  · rintro ⟨o, x, k, hx, h⟩
    exact ⟨(some o, x), hx, o, k, rfl, h⟩

end Sys2Proof.Machine

/-! SUPPORT. The words of the register space (spec/06 R184-R195): each function of an element as its rule says it of bit vectors, and each
word made of such functions. -/
namespace Sys2Proof.Claims
open Sys2Proof.Machine

/-! ### Elements (R35, R187) -/

theorem elem_toNat (w e v : Nat) : elem w e v = (element w e v).toNat := by
  rw [elem, element, fld_eq, BitVec.toNat_ofNat]

/-- Elements agree modulo their width: so do the values they make. -/
theorem eachElem_eq_elementwise {w : Nat} {f : Nat → Nat} {F : Nat → BitVec w} (h : ∀ e, f e % 2 ^ w = (F e).toNat) :
    eachElem w f = elementwise w F := by
  rw [eachElem, elementwise]
  simp only [h]

/-- f gives as a number what F gives as a w-bit value. -/
def Computes1 (w : Nat) (f : Nat → Nat) (F : BitVec w → BitVec w) : Prop := ∀ x, f x.toNat % 2 ^ w = (F x).toNat

/-- The same for a function of two values. -/
def Computes2 (w : Nat) (f : Nat → Nat → Nat) (F : BitVec w → BitVec w → BitVec w) : Prop :=
  ∀ x y, f x.toNat y.toNat % 2 ^ w = (F x y).toNat

/-- Words that differ in nothing but how their function is written are equal. -/
theorem laneWord_run_congr {d a b : Option Operand} {reads : LaneIn → Nat × Nat × Nat} {run run' : LaneIn → LaneOut}
    (h : ∀ y, run y = run' y) : ({ d, a, b, reads, run } : LaneWord) = { d, a, b, reads, run := run' } := by
  rw [funext h]

/-- A step that writes elements which agree modulo their width writes the same. -/
theorem writes_elements_congr {w : Nat} {f : Nat → Nat} {F : Nat → BitVec w} (h : ∀ e, f e % 2 ^ w = (F e).toNat) :
    ({ d := some (eachElem w f) } : LaneOut) = { d := some (elementwise w F) } := by
  rw [eachElem_eq_elementwise h]

/-- A byte of a w-bit value counts as read where one of its bits changes the result: the numbers and the values agree. -/
theorem dependBytes_eq_dependsOn {f : Nat → Nat → Nat → Nat} {w : Nat} {F : BitVec w → BitVec w → BitVec w} (h : Computes2 w (f w) F)
    (y : BitVec w) : dependBytes f w y.toNat = dependsOn (fun u => F u y) := by
  have hbyte : ∀ k ∈ List.range (w / 8), ((List.range 8).any fun j => f w (2 ^ (8 * k + j)) y.toNat % 2 ^ w != f w 0 y.toNat % 2 ^ w)
      = (List.range 8).any fun j => F (BitVec.ofNat w (2 ^ (8 * k + j))) y != F 0 y := by
    intro k hk
    rw [List.mem_range] at hk
    rw [Bool.eq_iff_iff, List.any_eq_true, List.any_eq_true]
    refine exists_congr fun j => and_congr_right fun hj => ?_
    rw [List.mem_range] at hj
    have hbit : (BitVec.ofNat w (2 ^ (8 * k + j))).toNat = 2 ^ (8 * k + j) := by
      rw [BitVec.toNat_ofNat, Nat.mod_eq_of_lt (Nat.pow_lt_pow_right (by omega) (by omega))]
    have h1 := h (BitVec.ofNat w (2 ^ (8 * k + j))) y
    have h0 := h 0 y
    rw [hbit] at h1
    rw [show (0 : BitVec w).toNat = 0 from BitVec.toNat_zero] at h0
    rw [h1, h0, bne_iff_ne, bne_iff_ne, ne_eq, ne_eq, BitVec.toNat_inj]
  rw [dependBytes, dependsOn, List.filter_congr hbyte, List.sum_eq_foldl, List.foldl_map]

theorem intBinary_eq_wordOf {f : Nat → Nat → Nat → Nat} {F : (w : Nat) → BitVec w → BitVec w → BitVec w}
    (h : ∀ w, Computes2 w (f w) (F w)) (x : Pfx) (d a b : BitVec 6) (m : BitVec 2) :
    intBinary x d a b m f = wordOf x d a b m false (fun w u v _ => F w u v) :=
  laneWord_run_congr fun _ => writes_elements_congr fun e => by rw [elem_toNat, elem_toNat, h]

theorem intUnary_eq_wordOf1 {f : Nat → Nat → Nat} {F : (w : Nat) → BitVec w → BitVec w} (h : ∀ w, Computes1 w (f w) (F w))
    (x : Pfx) (d a : BitVec 6) (m : BitVec 2) : intUnary x d a m f = wordOf1 x d a m F :=
  laneWord_run_congr fun _ => writes_elements_congr fun e => by rw [elem_toNat, h]

theorem intShift_eq_wordShift {f : Nat → Nat → Nat → Nat} {F : (w : Nat) → BitVec w → BitVec w → BitVec w}
    (h : ∀ w, Computes2 w (f w) (F w)) (x : Pfx) (d a b : BitVec 6) (m : BitVec 2) (bytes : Nat) :
    intShift x d a b m (2 ^ bytes - 1) f = wordShift x d a b m bytes F := by
  simp only [intShift, wordShift, intBinary_eq_wordOf h, elem_toNat, dependBytes_eq_dependsOn (h _)]

theorem intImm_eq_wordImm {f : Nat → Nat → Nat → Nat} {F : W64 → W64 → W64} (h : Computes2 64 (f 64) F) (x : Pfx) (d a : BitVec 6)
    (y : W64) : intImm x d a y.toNat f = wordImm x d a y F := by
  rw [intImm, wordImm, dependBytes_eq_dependsOn h]
  exact laneWord_run_congr fun _ => writes_elements_congr fun e => by rw [elem_toNat, h]

/-! ### Functions of one element (R187) -/

/-- A function whose results need no reduction computes what gives the same number. -/
theorem Computes2.of_eq {w : Nat} {f : Nat → Nat → Nat} {F : BitVec w → BitVec w → BitVec w}
    (h : ∀ x y, f x.toNat y.toNat = (F x y).toNat) : Computes2 w f F := fun x y => by
  rw [h, Nat.mod_eq_of_lt (F x y).isLt]

theorem Computes1.of_eq {w : Nat} {f : Nat → Nat} {F : BitVec w → BitVec w} (h : ∀ x, f x.toNat = (F x).toNat) : Computes1 w f F :=
  fun x => by rw [h, Nat.mod_eq_of_lt (F x).isLt]

theorem addElem_computes (w : Nat) : Computes2 w (addElem w) (fun x y => x + y) :=
  .of_eq fun x y => (BitVec.toNat_add x y).symm

theorem subElem_computes (w : Nat) : Computes2 w (subElem w) (fun x y => x - y) :=
  .of_eq fun x y => by rw [subElem, BitVec.toNat_sub, Nat.add_comm]

theorem mulElem_computes (w : Nat) : Computes2 w (mulElem w) (fun x y => x * y) :=
  .of_eq fun x y => (BitVec.toNat_mul x y).symm

theorem mulhSignedElem_computes (w : Nat) :
    Computes2 w (mulhSignedElem w) (fun x y => BitVec.ofInt w (x.toInt * y.toInt / 2 ^ w)) :=
  .of_eq fun x y => by
    rw [mulhSignedElem, toSigned_toNat, toSigned_toNat, ofSigned_eq, Nat.cast_pow, Nat.cast_ofNat]

theorem mulhUnsignedElem_computes (w : Nat) :
    Computes2 w (mulhUnsignedElem w) (fun x y => BitVec.ofNat w (x.toNat * y.toNat / 2 ^ w)) :=
  fun x y => (BitVec.toNat_ofNat (x.toNat * y.toNat / 2 ^ w) w).symm

theorem andElem_computes (w : Nat) : Computes2 w (andElem w) (fun x y => x &&& y) := .of_eq fun x y => (BitVec.toNat_and x y).symm

theorem orElem_computes (w : Nat) : Computes2 w (orElem w) (fun x y => x ||| y) := .of_eq fun x y => (BitVec.toNat_or x y).symm

theorem xorElem_computes (w : Nat) : Computes2 w (xorElem w) (fun x y => x ^^^ y) := .of_eq fun x y => (BitVec.toNat_xor x y).symm

theorem andnElem_computes (w : Nat) : Computes2 w (andnElem w) (fun x y => x &&& ~~~y) :=
  .of_eq fun x y => by rw [andnElem, BitVec.toNat_and, BitVec.toNat_not]

theorem shlElem_computes (w : Nat) : Computes2 w (shlElem w) (fun x y => if w ≤ y.toNat then 0 else x <<< y.toNat) :=
  .of_eq fun x y => by
    rw [shlElem]
    split
    · rfl
    · rw [BitVec.toNat_shiftLeft, Nat.shiftLeft_eq]

theorem shrElem_computes (w : Nat) : Computes2 w (shrElem w) (fun x y => if w ≤ y.toNat then 0 else x >>> y.toNat) :=
  .of_eq fun x y => by
    rw [shrElem]
    split
    · rfl
    · rw [BitVec.toNat_ushiftRight, Nat.shiftRight_eq_div_pow]

theorem sarElem_computes (w : Nat) : Computes2 w (sarElem w) (fun x y => x.sshiftRight (min y.toNat (w - 1))) :=
  .of_eq fun x y => by rw [sarElem, toSigned_toNat, ofSigned_div_two_pow]

theorem rolElem_computes (w : Nat) : Computes2 w (rolElem w) (fun x y => x.rotateLeft (y.toNat % w)) :=
  .of_eq fun x y => by
    have hr : y.toNat % w ≤ w := by
      rcases Nat.eq_zero_or_pos w with rfl | hpos
      · simp [BitVec.eq_nil y]
      · exact (Nat.mod_lt _ hpos).le
    rw [rolElem, BitVec.toNat_rotateLeft, Nat.mod_mod, Nat.shiftLeft_eq, Nat.shiftRight_eq_div_pow, rotate_add_eq_or hr x.isLt]

theorem minSignedElem_computes (w : Nat) : Computes2 w (minSignedElem w) (fun x y => if x.slt y then x else y) :=
  .of_eq fun x y => by
    rw [minSignedElem, toSigned_toNat, toSigned_toNat]
    rcases lt_trichotomy x.toInt y.toInt with hlt | heq | hgt
    · simp [BitVec.slt, hlt, hlt.not_gt]
    · simp [BitVec.slt, BitVec.toInt_inj.mp heq]
    · simp [BitVec.slt, hgt, hgt.not_gt]

theorem maxSignedElem_computes (w : Nat) : Computes2 w (maxSignedElem w) (fun x y => if x.slt y then y else x) :=
  .of_eq fun x y => by
    rw [maxSignedElem, toSigned_toNat, toSigned_toNat]
    simp only [BitVec.slt, decide_eq_true_eq, apply_ite BitVec.toNat]

theorem min_computes (w : Nat) : Computes2 w (fun x y => min x y) (fun x y => if x.ult y then x else y) :=
  .of_eq fun x y => by
    simp only [apply_ite BitVec.toNat, BitVec.ult, decide_eq_true_eq]
    split <;> omega

theorem max_computes (w : Nat) : Computes2 w (fun x y => max x y) (fun x y => if x.ult y then y else x) :=
  .of_eq fun x y => by
    simp only [apply_ite BitVec.toNat, BitVec.ult, decide_eq_true_eq]
    split <;> omega

theorem absElem_computes (w : Nat) : Computes1 w (absElem w) (fun x => if x.msb then -x else x) :=
  .of_eq fun x => by
    rw [absElem, toSigned_toNat, BitVec.msb_eq_toInt]
    simp only [decide_eq_true_eq]
    split
    · exact (BitVec.toNat_neg x).symm
    · rfl

theorem negElem_computes (w : Nat) : Computes1 w (negElem w) (fun x => -x) := .of_eq fun x => (BitVec.toNat_neg x).symm

theorem notElem_computes (w : Nat) : Computes1 w (notElem_ w) (fun x => ~~~x) := .of_eq fun _ => BitVec.toNat_not.symm

theorem popcElem_computes (w : Nat) : Computes1 w (popcElem w) ones := fun x => by
  rw [popcElem, popcount_eq_countP, ones, BitVec.toNat_ofNat]
  rfl

theorem clzElem_computes (w : Nat) : Computes1 w (clzElem w) leadingZeros := fun x => by
  rw [← length_takeWhile_not_testBit _ _ x.isLt, leadingZeros, BitVec.toNat_ofNat]
  rfl

theorem ctzElem_computes (w : Nat) : Computes1 w (ctzElem w) trailingZeros := fun x => by
  have h := find?_range'_getD (bit x.toNat) w 0
  rw [Nat.zero_add, Nat.zero_add, ← List.range_eq_range'] at h
  rw [ctzElem, h, trailingZeros, BitVec.toNat_ofNat]
  simp only [bit_getLsbD]

theorem brevElem_computes (w : Nat) : Computes1 w (brevElem w) (fun x => x.reverse) :=
  .of_eq fun x => Nat.eq_of_testBit_eq fun k => by
    rw [brevElem, testBit_reverseBits, BitVec.testBit_toNat, BitVec.testBit_toNat, BitVec.getLsbD_reverse, BitVec.getMsbD]

/-! ### Words of one function (R187) -/

/-- A meaning that runs an element-wise word under the modifiers completes with that word's effect. -/
theorem completes_of_word {r : State → Result} {w : Pfx → LaneWord} (h : ∀ s, r s = runLaneWord s .alu (w s.pfx)) : LaneCompletes r w := by
  rw [funext h]
  exact runLaneWord_completes .alu w

section
variable {f : Nat → Nat → Nat → Nat} {F : (w : Nat) → BitVec w → BitVec w → BitVec w} (h : ∀ w, Computes2 w (f w) (F w))
  (d a b : BitVec 6) (m : BitVec 2)
include h

theorem intBinary_completes : LaneCompletes (fun s => runLaneWord s .alu (intBinary s.pfx d a b m f))
    (fun x => wordOf x d a b m false (fun w u v _ => F w u v)) :=
  completes_of_word fun s => congrArg (runLaneWord s .alu) (intBinary_eq_wordOf h s.pfx d a b m)

theorem intShift_completes (bytes : Nat) : LaneCompletes (fun s => runLaneWord s .alu (intShift s.pfx d a b m (2 ^ bytes - 1) f))
    (fun x => wordShift x d a b m bytes F) :=
  completes_of_word fun s => congrArg (runLaneWord s .alu) (intShift_eq_wordShift h s.pfx d a b m bytes)

end

theorem intUnary_completes {f : Nat → Nat → Nat} {F : (w : Nat) → BitVec w → BitVec w} (h : ∀ w, Computes1 w (f w) (F w))
    (d a : BitVec 6) (m : BitVec 2) :
    LaneCompletes (fun s => runLaneWord s .alu (intUnary s.pfx d a m f)) (fun x => wordOf1 x d a m F) :=
  completes_of_word fun s => congrArg (runLaneWord s .alu) (intUnary_eq_wordOf1 h s.pfx d a m)

/-! ### Words that also read d, and carry chains (R187, R188, R190) -/

theorem sum_bits_eq_sum_filter (g : Nat → Bool) (l : List Nat) :
    (l.map (fun e => (g e).toNat * 2 ^ e)).sum = ((l.filter g).map (2 ^ ·)).sum := by
  induction l with
  | nil => rfl
  | cons e l ih => cases he : g e <;> simp [he, ih]

theorem byteOf_getLsbD (g : Nat → Bool) (k : Nat) : (byteOf g).getLsbD k = (decide (k < 8) && g k) := by
  rw [byteOf, sum_bits_eq_sum_filter, BitVec.getLsbD_ofNat, Bool.eq_iff_iff, Bool.and_eq_true,
    testBit_sum_two_pow (List.nodup_range.filter g), List.mem_filter, List.mem_range]
  simp

section
variable (w : Nat) (f : Nat → Nat → Nat → Int) (a b : Nat) (c : BitVec 8)

/-- Element e of a carry chain, before it is cut to its width (R188). -/
def chainAt (e : Nat) : Int := f (element w e a).toNat (element w e b).toNat (c.getLsbD e).toNat

/-- Carries after n elements: one for each, and the old bits above. -/
def chainCarries (n : Nat) : BitVec 8 :=
  byteOf fun e => if e < n then decide (chainAt w f a b c e < 0 ∨ 2 ^ w ≤ chainAt w f a b c e) else c.getLsbD e

theorem chainCarries_succ {n : Nat} (hn : n < 8) : chainCarries w f a b c (n + 1)
    = setPredBits (chainCarries w f a b c n) n (decide (chainAt w f a b c n < 0) || decide (((2 ^ w : Nat) : Int) ≤ chainAt w f a b c n)) := by
  refine BitVec.eq_of_getLsbD_eq fun k hk => ?_
  rw [setPredBits_getLsbD _ hn, chainCarries, chainCarries, byteOf_getLsbD, byteOf_getLsbD]
  rcases Nat.lt_trichotomy k n with hlt | rfl | hgt
  · simp [hlt, hlt.ne, Nat.lt_succ_of_lt hlt]
  · simp [hk]
  · simp [hgt.ne', hgt.not_gt, (show ¬k < n + 1 by omega)]

theorem chain_eq (hw : 64 / w ≤ 8) : chain w f a b c
    = ((List.range (64 / w)).map (fun e => (BitVec.ofInt w (chainAt w f a b c e)).toNat), chainCarries w f a b c (64 / w)) := by
  unfold chain
  simp only [elem_toNat, ofSigned_eq]
  generalize 64 / w = n at hw
  induction n with
  | zero =>
    refine Prod.ext rfl (BitVec.eq_of_getLsbD_eq fun k hk => ?_)
    rw [chainCarries, byteOf_getLsbD, decide_eq_true hk]
    rfl
  | succ n ih =>
    rw [List.range_succ, List.foldl_append, ih (by omega), List.map_append, chainCarries_succ _ _ _ _ _ (by omega)]
    rfl

end

theorem elements_widthOf_le (m : BitVec 2) : 64 / widthOf m ≤ 8 := by
  revert m
  decide

/-- The carry chain of f, as R188 says it. -/
def wordChain (x : Pfx) (d a b : BitVec 6) (m : BitVec 2) (f : Nat → Nat → Nat → Int) : LaneWord :=
  { d := some (opD x d), a := some (opA x a), b := some (opB x b), reads := fun _ => (0, 0xFF, 0xFF)
    run := fun y =>
      { d := some (elementwise (widthOf m) (fun e => BitVec.ofInt (widthOf m) (chainAt (widthOf m) f y.a y.b y.icarry e)))
        icarry := some (chainCarries (widthOf m) f y.a y.b y.icarry (64 / widthOf m)) } }

theorem chainWord_eq_wordChain (x : Pfx) (d a b : BitVec 6) (m : BitVec 2) (f : Nat → Nat → Nat → Int) :
    chainWord x d a b m f = wordChain x d a b m f :=
  laneWord_run_congr fun y => by rw [chain_eq _ _ _ _ _ (elements_widthOf_le m), elementwise]

theorem chainWord_completes (f : Nat → Nat → Nat → Int) (d a b : BitVec 6) (m : BitVec 2) :
    LaneCompletes (fun s => runLaneWord s .alu (chainWord s.pfx d a b m f)) (fun x => wordChain x d a b m f) :=
  completes_of_word fun s => congrArg (runLaneWord s .alu) (chainWord_eq_wordChain s.pfx d a b m f)

theorem execMad_completes (d a b : BitVec 6) (m : BitVec 2) :
    LaneCompletes (execMad d a b m) (fun x => wordOf x d a b m true (fun _ u v z => u * v + z)) :=
  completes_of_word fun s => congrArg (runLaneWord s .alu) <| laneWord_run_congr fun _ => writes_elements_congr fun e => by
    rw [BitVec.toNat_add, BitVec.toNat_mul, elem_toNat, elem_toNat, elem_toNat, Nat.mod_add_mod]

theorem execSel_completes (d a b : BitVec 6) (m : BitVec 2) :
    LaneCompletes (execSel d a b m) (fun x => wordOf x d a b 0 true (fun _ u v z => (u &&& z) ||| (v &&& ~~~z))) :=
  completes_of_word fun s => congrArg (runLaneWord s .alu) <| laneWord_run_congr fun _ => writes_elements_congr fun e => by
    rw [elem_toNat, elem_toNat, elem_toNat, ← BitVec.toNat_not, ← BitVec.toNat_and, ← BitVec.toNat_and, ← BitVec.toNat_or,
      Nat.mod_eq_of_lt (BitVec.isLt _)]
    rfl

/-! ### Values of one element, and immediates (R50, R185, R192, R193) -/

theorem elementwise_64 (F : Nat → W64) : elementwise 64 F = (F 0).toNat := by
  simpa [elementwise, pack, List.range_succ] using (F 0).isLt

theorem element_low (w v : Nat) : element w 0 v = BitVec.ofNat w v := by
  rw [element, Nat.mul_zero, Nat.pow_zero, Nat.div_one]

theorem lea_value (a b k : Nat) :
    (a + b * 2 ^ k) % 2 ^ 64 = elementwise 64 (fun e => element 64 e a + element 64 e b <<< k) := by
  rw [elementwise_64, element_low, element_low, BitVec.toNat_add, BitVec.toNat_shiftLeft, Nat.shiftLeft_eq, BitVec.toNat_ofNat,
    BitVec.toNat_ofNat, Nat.mod_mul_mod, Nat.add_mod]

theorem movh_value (v : Nat) (imm : BitVec 14) :
    (v * 16384 + imm.toNat) % 2 ^ 64 = (BitVec.ofNat 64 v <<< 14 ||| imm.setWidth 64).toNat := by
  have hshift : (BitVec.ofNat 64 v <<< 14).toNat = 2 ^ 14 * (v % 2 ^ 50) := by
    rw [BitVec.toNat_shiftLeft, BitVec.toNat_ofNat, Nat.shiftLeft_eq]
    omega
  rw [BitVec.toNat_or, hshift, BitVec.toNat_setWidth_of_le (by decide), ← Nat.two_pow_add_eq_or_of_lt imm.isLt]
  have := imm.isLt
  omega

theorem immx_lt (x : Pfx) : x.immx < 2 ^ 13 := by
  unfold Pfx.immx
  split
  · rw [BitVec.toNat_and]
    exact Nat.and_lt_two_pow _ (by decide)
  · decide

/-- IMMX above an immediate of n bits, as one value of 13 + n bits (R50). -/
theorem immx_append_toNat (x : Pfx) {n : Nat} (imm : BitVec n) :
    (BitVec.ofNat 13 x.immx ++ imm).toNat = x.immx * 2 ^ n + imm.toNat := by
  rw [BitVec.toNat_append, BitVec.toNat_ofNat, Nat.mod_eq_of_lt (immx_lt x), Nat.shiftLeft_eq, Nat.mul_comm,
    Nat.two_pow_add_eq_or_of_lt imm.isLt]

theorem movi_value (x : Pfx) (imm : BitVec 14) :
    (if x.immx = 0 then sext64 14 imm.toNat else sext64 27 (x.immx * 16384 + imm.toNat))
      = if x.immx = 0 then imm.signExtend 64 else (BitVec.ofNat 13 x.immx ++ imm : BitVec 27).signExtend 64 := by
  rw [← sext64_toNat, ← sext64_toNat, immx_append_toNat]
  rfl

theorem imm8s_eq_immediate (x : Pfx) (imm : BitVec 8) : imm8s x imm = (immediate x true imm).toNat := by
  rw [imm8s, immediate, ← apply_ite BitVec.toNat, if_pos rfl, if_pos rfl, ← sext64_toNat, ← sext64_toNat, immx_append_toNat]
  rfl

theorem imm8u_eq_immediate (x : Pfx) (imm : BitVec 8) : imm8u x imm = (immediate x false imm).toNat := by
  rw [imm8u, immediate, if_neg Bool.false_ne_true, if_neg Bool.false_ne_true, apply_ite BitVec.toNat,
    BitVec.toNat_setWidth_of_le (by decide), BitVec.toNat_setWidth_of_le (by decide), immx_append_toNat]
  rfl

/-! ### Comparisons (R189, R193) -/

/-- The integer that a comparison takes a value for. -/
def asInt (signed : Bool) {w : Nat} (x : BitVec w) : Int := if signed then x.toInt else x.toNat

theorem asInt_inj {signed : Bool} {w : Nat} {x y : BitVec w} : asInt signed x = asInt signed y ↔ x = y := by
  cases signed
  · simp [asInt, BitVec.toNat_inj]
  · simp [asInt, BitVec.toInt_inj]

theorem asInt_lt (signed : Bool) {w : Nat} (x y : BitVec w) :
    decide (asInt signed x < asInt signed y) = if signed then x.slt y else x.ult y := by
  cases signed
  · simp [asInt, BitVec.ult]
  · simp [asInt, BitVec.slt]

theorem lowElem_eq_asInt (signed : Bool) (w v : Nat) : lowElem signed w v = asInt signed (element w 0 v) := by
  rw [lowElem, asInt, element_low, toSigned_eq, BitVec.toNat_ofNat]

/-- Each of the six conditions is equality, the order, or the negation of one (R189). -/
theorem condHolds_eq_condition (signed : Bool) (c : BitVec 3) {w : Nat} (x y : BitVec w) :
    condHolds c.toNat (asInt signed x) (asInt signed y) = condition signed c x y := by
  simp only [condition, ← asInt_lt]
  generalize c.toNat = k
  match k with
  | 0 => exact decide_eq_decide.mpr asInt_inj
  | 1 => exact (decide_eq_decide.mpr asInt_inj.not).trans decide_not
  | 2 => rfl
  | 3 => simp [condHolds, ← decide_not]
  | 4 => rfl
  | k + 5 => simp [condHolds, ← decide_not]

theorem cmpWord_eq_wordTest (x : Pfx) (signed : Bool) (p cond : BitVec 3) (a b : BitVec 6) (m : BitVec 2) :
    cmpWord x signed p cond a b m = wordTest x p a b m (fun _ u v => condition signed cond u v) :=
  laneWord_run_congr fun y => by rw [lowElem_eq_asInt, lowElem_eq_asInt, condHolds_eq_condition]

theorem cmpWord_completes (signed : Bool) (p cond : BitVec 3) (a b : BitVec 6) (m : BitVec 2) :
    LaneCompletes (fun s => runLaneWord s .alu (cmpWord s.pfx signed p cond a b m))
      (fun x => wordTest x p a b m (fun _ u v => condition signed cond u v)) :=
  completes_of_word fun s => congrArg (runLaneWord s .alu) (cmpWord_eq_wordTest s.pfx signed p cond a b m)

theorem cmpImmWord_completes (signed : Bool) (p cond : BitVec 3) (a : BitVec 6) (imm : BitVec 8) :
    LaneCompletes (fun s => runLaneWord s .alu (cmpImmWord s.pfx signed p cond a imm)) (fun x =>
      { a := some (opA x a), reads := fun _ => (0, 0xFF, 0)
        run := fun y => { p := some (p.toNat, condition signed cond (element 64 0 y.a) (immediate x signed imm)) } }) :=
  completes_of_word fun s => congrArg (runLaneWord s .alu) <| laneWord_run_congr fun y => by
    have himm : (if signed = true then imm8s s.pfx imm else imm8u s.pfx imm) = (immediate s.pfx signed imm).toNat := by
      cases signed
      · exact imm8u_eq_immediate s.pfx imm
      · exact imm8s_eq_immediate s.pfx imm
    rw [himm, lowElem_eq_asInt, lowElem_eq_asInt, condHolds_eq_condition, element_low 64 (immediate s.pfx signed imm).toNat,
      BitVec.ofNat_toNat, BitVec.setWidth_eq]

/-! ### Immediate forms (R193) -/

section
variable {f : Nat → Nat → Nat → Nat} {F : W64 → W64 → W64} (d a : BitVec 6) (imm : BitVec 8)

theorem intImm_completes (h : Computes2 64 (f 64) F) :
    LaneCompletes (fun s => runLaneWord s .alu (intImm s.pfx d a (imm8s s.pfx imm) f)) (fun x => wordImm x d a (immediate x true imm) F) :=
  completes_of_word fun s => congrArg (runLaneWord s .alu) (by rw [imm8s_eq_immediate, intImm_eq_wordImm h])

/-- A shift whose function agrees with F for counts below 64 completes with F for such a count. -/
theorem shiftImm_completes {G : W64 → W64 → W64} (h : Computes2 64 (f 64) G) (hG : ∀ u, G u (imm.setWidth 64) = F u (imm.setWidth 64)) :
    LaneCompletes (fun s => runLaneWord s .alu (intImm s.pfx d a imm.toNat f)) (fun x => wordImm x d a (imm.setWidth 64) F) :=
  completes_of_word fun s => congrArg (runLaneWord s .alu) (by
    have himm : imm.toNat = (imm.setWidth 64).toNat := (BitVec.toNat_setWidth_of_le (by decide)).symm
    rw [himm, intImm_eq_wordImm h]
    simp only [wordImm, hG])

end

/-! ### Predicates (R194, R195) -/

/-- A bit of one is a truth value: to invert by it is to take its exclusive or. -/
theorem bne_beq_one (x : Bool) (n : BitVec 1) : (x != (n == 1)) = xor x (n.getLsbD 0) := by
  revert x n
  decide

theorem predWord_completes (d : BitVec 3) (na : BitVec 1) (a : BitVec 3) (nb : BitVec 1) (b : BitVec 3) (f : Bool → Bool → Bool) :
    LaneCompletes (fun s => runLaneWord s .alu (predWord d na a nb b f)) (fun _ => wordPred d na a nb b f) :=
  completes_of_word fun s => congrArg (runLaneWord s .alu) <| laneWord_run_congr fun y => by rw [bne_beq_one, bne_beq_one]

/-! ### Bit fields (R191) -/

theorem bfx_value (signed : Bool) {w : Nat} (u : BitVec w) (pos len : Nat) :
    (if len = 0 then 0 else if signed then ofSigned w (toSigned len (fld u.toNat pos len)) else fld u.toNat pos len) % 2 ^ w
      = (if len = 0 then 0 else if signed then (u.extractLsb' pos len).signExtend w else (u.extractLsb' pos len).setWidth w).toNat := by
  rw [fld_toNat, toSigned_toNat, ofSigned_eq]
  split
  · simp
  · cases signed
    · exact (BitVec.toNat_setWidth w _).symm
    · exact Nat.mod_eq_of_lt (BitVec.isLt _)

theorem bfxWord_completes (signed : Bool) (d a b : BitVec 6) (m : BitVec 2) :
    LaneCompletes (fun s => runLaneWord s .alu (bfxWord s.pfx signed d a b m)) (fun x =>
      let w := widthOf m
      let field := fun (y : LaneIn) => fieldOf w y.b
      { d := some (opD x d), a := some (opA x a), b := some (opB x b), reads := fun y => (0, fieldBytes w (field y).1 (field y).2, 3)
        run := fun y => { d := some (elementwise w (fun e =>
          let f := (element w e y.a).extractLsb' (field y).1 (field y).2
          if (field y).2 = 0 then 0 else if signed then f.signExtend w else f.setWidth w)) } }) :=
  completes_of_word fun s => congrArg (runLaneWord s .alu) <| laneWord_run_congr fun y => writes_elements_congr fun e => by
    rw [elem_toNat]
    exact bfx_value signed (element (widthOf m) e y.a) (fieldOf (widthOf m) y.b).1 (fieldOf (widthOf m) y.b).2

/-- The bits of a field of len bits from pos. -/
def fieldMask (w pos len : Nat) : BitVec w := (BitVec.allOnes w >>> (w - len)) <<< pos

theorem fieldMask_getLsbD {w pos len k : Nat} (hlen : len ≤ w) (hk : k < w) :
    (fieldMask w pos len).getLsbD k = decide (pos ≤ k ∧ k < pos + len) := by
  rw [fieldMask, BitVec.getLsbD_shiftLeft, BitVec.getLsbD_ushiftRight, BitVec.getLsbD_allOnes, Bool.eq_iff_iff]
  simp only [Bool.and_eq_true, Bool.not_eq_true', decide_eq_true_eq, decide_eq_false_iff_not]
  omega

theorem setFld_eq_masked {w pos len : Nat} (hlen : len ≤ w) (u v : BitVec w) :
    setFld u.toNat pos len v.toNat % 2 ^ w = ((u &&& ~~~fieldMask w pos len) ||| ((v <<< pos) &&& fieldMask w pos len)).toNat := by
  refine Nat.eq_of_testBit_eq fun k => ?_
  rw [Nat.testBit_mod_two_pow, BitVec.testBit_toNat]
  by_cases hk : k < w
  · rw [BitVec.getLsbD_or, BitVec.getLsbD_and, BitVec.getLsbD_and, BitVec.getLsbD_not, BitVec.getLsbD_shiftLeft,
      fieldMask_getLsbD hlen hk, decide_eq_true hk, Bool.true_and]
    by_cases hin : pos ≤ k ∧ k < pos + len
    · simp [setFld_testBit_inside hin.1 hin.2, hin, BitVec.getLsbD]
    · rw [setFld_testBit_outside (by omega), decide_eq_false hin]
      simp [BitVec.getLsbD]
  · rw [decide_eq_false hk, Bool.false_and, BitVec.getLsbD_of_ge _ _ (not_lt.mp hk)]

theorem bfi_value {w pos len : Nat} (hlen : len ≤ w) (u v : BitVec w) :
    (if len = 0 then u.toNat else setFld u.toNat pos len v.toNat) % 2 ^ w
      = ((u &&& ~~~fieldMask w pos len) ||| ((v <<< pos) &&& fieldMask w pos len)).toNat := by
  rw [← setFld_eq_masked hlen]
  split
  next h => rw [h, setFld_zero]
  next => rfl

theorem fieldOf_length_le (w b : Nat) : (fieldOf w b).2 ≤ w := by
  rw [fieldOf]
  dsimp only
  split <;> omega

theorem execBfi_completes (d a b : BitVec 6) (m : BitVec 2) : LaneCompletes (execBfi d a b m) (fun x =>
    let w := widthOf m
    let field := fun (y : LaneIn) => fieldOf w y.b
    { d := some (opD x d), a := some (opA x a), b := some (opB x b)
      reads := fun y => (fieldBytes w (field y).1 (field y).2 - fieldWhole w (field y).1 (field y).2, fieldBytes w 0 (field y).2, 3)
      run := fun y =>
        let mask := fieldMask w (field y).1 (field y).2
        { d := some (elementwise w (fun e => (element w e y.d &&& ~~~mask) ||| ((element w e y.a <<< (field y).1) &&& mask)))
          dMask := fieldBytes w (field y).1 (field y).2 } }) :=
  completes_of_word fun s => congrArg (runLaneWord s .alu) <| laneWord_run_congr fun y =>
    congrArg (fun v => ({ d := some v, dMask := _ } : LaneOut)) <| eachElem_eq_elementwise fun e => by
      rw [elem_toNat, elem_toNat]
      exact bfi_value (fieldOf_length_le (widthOf m) y.b) (element (widthOf m) e y.d) (element (widthOf m) e y.a)

/-! ### The statements -/

/-- Settles O5: each function of the model computes, as numbers, what its rule says of elements as bit vectors. -/
theorem integerBinary : Obligations.IntegerBinary := by
  unfold Obligations.IntegerBinary
  intro d a b m
  exact ⟨intBinary_completes addElem_computes d a b m, intBinary_completes subElem_computes d a b m,
    intBinary_completes mulElem_computes d a b m, intBinary_completes mulhSignedElem_computes d a b m,
    intBinary_completes mulhUnsignedElem_computes d a b m, intBinary_completes andElem_computes d a b m,
    intBinary_completes orElem_computes d a b m, intBinary_completes xorElem_computes d a b m,
    intBinary_completes andnElem_computes d a b m, intShift_completes shlElem_computes d a b m 8,
    intShift_completes shrElem_computes d a b m 8, intShift_completes sarElem_computes d a b m 8,
    intShift_completes rolElem_computes d a b m 1, intBinary_completes minSignedElem_computes d a b m,
    intBinary_completes min_computes d a b m, intBinary_completes maxSignedElem_computes d a b m,
    intBinary_completes max_computes d a b m⟩

/-- Settles O6: as O5, for the functions of one operand. -/
theorem integerUnary : Obligations.IntegerUnary := by
  unfold Obligations.IntegerUnary
  intro d a m
  exact ⟨intUnary_completes notElem_computes d a m, intUnary_completes absElem_computes d a m,
    intUnary_completes negElem_computes d a m, intUnary_completes popcElem_computes d a m,
    intUnary_completes clzElem_computes d a m, intUnary_completes ctzElem_computes d a m,
    intUnary_completes brevElem_computes d a m⟩

/-- Settles O7: `mad` and `sel` element by element; the carries of a chain by induction on how many elements have been added. -/
theorem integerWithState : Obligations.IntegerWithState := by
  unfold Obligations.IntegerWithState
  intro d a b m
  exact ⟨execMad_completes d a b m, execSel_completes d a b m, chainWord_completes _ d a b m, chainWord_completes _ d a b m⟩

/-- Settles O8: `mov` is said as the model says it; of the others, each value written is the one its rule gives. -/
theorem movesAndAddresses : Obligations.MovesAndAddresses := by
  unfold Obligations.MovesAndAddresses
  intro d a b m imm
  refine ⟨completes_of_word fun _ => rfl, ?movi, ?movh, ?lea⟩
  case movi =>
    exact completes_of_word fun s => congrArg (runLaneWord s .alu) <| laneWord_run_congr fun _ => by rw [movi_value]
  case movh =>
    exact completes_of_word fun s => congrArg (runLaneWord s .alu) <| laneWord_run_congr fun y => by rw [movh_value]
  case lea =>
    exact completes_of_word fun s => congrArg (runLaneWord s .alu) <| laneWord_run_congr fun y => by rw [lea_value]; rfl

/-- Settles O9: a field taken is an extract of the element, and a field put in is the element outside the mask and a within it. -/
theorem bitFields : Obligations.BitFields := by
  unfold Obligations.BitFields
  intro d a b m
  exact ⟨bfxWord_completes true d a b m, bfxWord_completes false d a b m, execBfi_completes d a b m⟩

/-- Settles O10: the immediate is the one of R193, and a count below 64 is taken as it stands by all three shifts. -/
theorem immediateForms : Obligations.ImmediateForms := by
  unfold Obligations.ImmediateForms
  intro d a p cond imm
  refine ⟨intImm_completes d a imm (addElem_computes 64), intImm_completes d a imm (andElem_computes 64),
    intImm_completes d a imm (orElem_computes 64), intImm_completes d a imm (xorElem_computes 64),
    intImm_completes d a imm (mulElem_computes 64), ?shifts, cmpImmWord_completes true p cond a imm, cmpImmWord_completes false p cond a imm⟩
  intro h
  have hlt : (imm.setWidth 64).toNat < 64 := by rwa [BitVec.toNat_setWidth_of_le (by decide)]
  exact ⟨shiftImm_completes d a imm (shlElem_computes 64) fun _ => if_neg hlt.not_ge,
    shiftImm_completes d a imm (shrElem_computes 64) fun _ => if_neg hlt.not_ge,
    shiftImm_completes d a imm (sarElem_computes 64) fun u => by rw [Nat.min_eq_left (Nat.le_sub_one_of_lt hlt)]⟩

/-- Settles O11: the conditions on the integers compared are those on the elements; a predicate is inverted by exclusive or. -/
theorem predicateWords : Obligations.PredicateWords := by
  unfold Obligations.PredicateWords
  refine ⟨fun p cond a b m _ => ?cmp, fun d na a nb b => ?pred, fun d a => ?pmov⟩
  case cmp =>
    exact ⟨cmpWord_completes true p cond a b m, cmpWord_completes false p cond a b m⟩
  case pred =>
    exact ⟨predWord_completes d na a nb b and, predWord_completes d na a nb b or, predWord_completes d na a nb b xor⟩
  case pmov =>
    exact ⟨completes_of_word fun _ => rfl, completes_of_word fun _ => rfl, completes_of_word fun _ => rfl⟩

/-- Settles O12: with its register free, the check of `vwset` fails in exactly the threads in which the view would be invalid. -/
theorem viewSetting : Obligations.ViewSetting := by
  unfold Obligations.ViewSetting
  intro view a mode step _
  exact ⟨fun s i hi hok => execVwset_sets view a mode step hi hok.1 hok.2,
    fun s i hi hc hfree hbad => execVwset_raises view a mode step hi hfree hc hbad⟩

/-- Settles O29: what a participant's check comes to decides the cause, and a step meets what its operands read. -/
theorem operandFaults : Obligations.OperandFaults := by
  unfold Obligations.OperandFaults
  refine ⟨?raises, fun w l ij n => ?steps⟩
  case raises =>
    intro s i w pipe t o hi hc hpos ht hpend named least read raises
    have hfree := hpend t (.inl rfl)
    have hraises : ∀ c, w.verdict i.pfx i.beforeQ t = .trap c o → raises c := by
      intro c hv
      have hpfx := State.pfx_of hi
      unfold raises
      cases hud : i.pfx.ud with
      | false =>
        rw [hud, if_neg Bool.false_ne_true] at ht
        have hd : ∀ u ∈ i.parts, (w.verdict i.pfx i.beforeQ u).Decided := fun u hu =>
          LaneWord.verdict_decided (hpend u (.inr ⟨hu, hud⟩))
        obtain ⟨xs, hrun, hxs⟩ := runLane_raises pipe hi hc hd ht hv
        rw [runLaneWord, hpfx, hud, if_neg Bool.false_ne_true]
        exact ⟨xs, hrun, hxs⟩
      | true =>
        rw [hud, if_pos rfl] at ht
        rw [runLaneWord, hpfx, hud, if_pos rfl]
        exact ⟨_, runLaneUniform_raises pipe hi hc ht.2 ht.1 hv, rfl⟩
    refine ⟨fun hn ho hleast => hraises _ (LaneWord.verdict_windowRange hfree hpos hn ho hleast), fun hin hbad => ?_⟩
    refine hraises _ (LaneWord.verdict_regPoison hfree hpos hin ?_)
    rwa [minNat?_eq_some, minNat?_eq_some]
  case steps =>
    have hstep := fun inQ => w.mem_step_met l ij inQ n
    simp only [exists_readsByte_iff] at hstep
    exact ⟨hstep false, hstep true⟩

/-- Settles O41: a write's own lemmas say what it leaves, and two canonical memories that read alike have the same entries. -/
theorem bytesWrittenReadBack : Obligations.BytesWrittenReadBack := by
  unfold Obligations.BytesWrittenReadBack
  intro m a bs hm
  refine ⟨Mem.wf_writeN a bs hm, Mem.readN_writeN a bs hm, fun x hx => ?_, fun k hk h => Mem.ext_of_wf hm hk h⟩
  exact Mem.read_writeN_outside a x bs hm (by omega)

end Sys2Proof.Claims

/-! SUPPORT. Scratchpads, atomics and cache operations (spec/08 R225-R244; spec/09 R272, R275): what an atomic stores, which lines the cache
and presence operations leave, then each word where its conditions hold. -/
namespace Sys2Proof.Machine

/-! ### Atomics (R242, R272) -/

theorem toSigned_lt_iff_slt {w : Nat} (u v : BitVec w) : toSigned w u.toNat < toSigned w v.toNat ↔ u.slt v = true := by
  rw [toSigned_toNat, toSigned_toNat, BitVec.slt_iff_toInt_lt]

theorem min_toNat_eq_ite {w : Nat} (u v : BitVec w) : min u.toNat v.toNat = if v.ult u then v.toNat else u.toNat := by
  simp only [BitVec.ult_iff_lt, BitVec.lt_def]
  split <;> omega

theorem max_toNat_eq_ite {w : Nat} (u v : BitVec w) : max u.toNat v.toNat = if u.ult v then v.toNat else u.toNat := by
  simp only [BitVec.ult_iff_lt, BitVec.lt_def]
  split <;> omega

section
variable {k : Nat} (hint : isFloatFmt (orDefault k 15) = false) (u v : BitVec (fmtBits (orDefault k 15))) (y : Nat)
include hint

theorem atomResult_add_int : atomResult .add k u.toNat v.toNat y = (u + v).toNat := by
  simp [atomResult, hint]

theorem atomResult_min_int : atomResult .min k u.toNat v.toNat y
    = (if isSignedFmt (orDefault k 15) then (if v.slt u then v else u) else (if v.ult u then v else u)).toNat := by
  simp [atomResult, hint, toSigned_lt_iff_slt, min_toNat_eq_ite, apply_ite BitVec.toNat]

theorem atomResult_max_int : atomResult .max k u.toNat v.toNat y
    = (if isSignedFmt (orDefault k 15) then (if u.slt v then v else u) else (if u.ult v then v else u)).toNat := by
  simp [atomResult, hint, toSigned_lt_iff_slt, max_toNat_eq_ite, apply_ite BitVec.toNat]

end

/-! ### Lines that the cache operations leave (R275) -/

@[simp] theorem State.unholdRange_mem (s : State) (r : LineRange) (p : MemAcc → Bool) : (s.unholdRange r p).mem = s.mem := rfl

theorem State.dropL1_l1 (s : State) (p : Place) (r : LineRange) :
    (s.dropL1 p r).mem.l1 = s.mem.l1.filter (fun l => !(l.place == p && r.has l.asid l.line)) := rfl

theorem State.dropL2_l2 (s : State) (p : Place) (r : LineRange) :
    (s.dropL2 p r).mem.l2 = s.mem.l2.filter (fun l => !(l.die == p.die && r.has l.asid l.line)) := by
  rw [State.dropL2, State.unholdRange_mem, (State.giveUp_spec _ _).2.1]
  rfl

theorem State.dropAll_l2 (s : State) (r : LineRange) : (s.dropAll r).mem.l2 = s.mem.l2.filter (fun l => !r.has l.asid l.line) := by
  rw [State.dropAll, State.unholdRange_mem, (State.giveUp_spec _ _).2.1]

/-- A change to directory entries leaves the lines in the L2s. -/
theorem State.setDirs_l2 (f : State → L2Line → DirEntry) (ls : List L2Line) (s : State) :
    (ls.foldl (fun s l => s.setDir (f s l)) s).mem.l2 = s.mem.l2 :=
  List.foldlRecOn ls _ (motive := fun x : State => x.mem.l2 = s.mem.l2) rfl fun _ hx _ _ => hx

theorem L2Line.cleaned_not_dirty (l : L2Line) : l.cleaned.dirty = false := by
  cases hstate : l.state <;> simp [L2Line.cleaned, L2Line.dirty, hstate]

/-- `cwb` keeps every line: the die's dirty ones in the range cleaned, the others as they were. -/
theorem State.cleanL2_l2 (s : State) (p : Place) (r : LineRange) :
    (s.cleanL2 p r).mem.l2 = s.mem.l2.map (fun l => if l.die == p.die && r.has l.asid l.line && l.dirty then l.cleaned else l) := by
  simp only [State.cleanL2, State.modMem, State.setDirs_l2, (State.writeBacks_only _ _).2.2]

section
variable (s : State) (p : Place) (r : LineRange)

theorem State.mem_dropL1_l1 (l : L1Line) : l ∈ (s.dropL1 p r).mem.l1 ↔ l ∈ s.mem.l1 ∧ ¬(l.place = p ∧ r.has l.asid l.line = true) := by
  simp [State.dropL1_l1, imp_iff_not_or]

theorem State.mem_dropL2_l2 (l : L2Line) : l ∈ (s.dropL2 p r).mem.l2 ↔ l ∈ s.mem.l2 ∧ ¬(l.die = p.die ∧ r.has l.asid l.line = true) := by
  simp [State.dropL2_l2, imp_iff_not_or]

theorem State.mem_dropAll_l2 (l : L2Line) : l ∈ (s.dropAll r).mem.l2 ↔ l ∈ s.mem.l2 ∧ r.has l.asid l.line = false := by
  simp [State.dropAll_l2]

theorem State.not_dirty_of_mem_cleanL2 {l : L2Line} (hl : l ∈ (s.cleanL2 p r).mem.l2) (hdie : l.die = p.die)
    (hin : r.has l.asid l.line = true) : l.dirty = false := by
  rw [State.cleanL2_l2] at hl
  obtain ⟨x, -, hx⟩ := List.mem_map.mp hl
  split at hx <;> subst hx
  next => exact x.cleaned_not_dirty
  next hkept => simpa [hdie, hin] using hkept

end

/-! ### Presence (R233, R234) -/

theorem Scratch.mem_absent_present_true {x : Scratch} {ls : List Nat} {l : Nat} :
    l ∈ (x.present ls true).absent ↔ l ∈ x.absent ∧ l ∉ ls := by
  simp [Scratch.present]

theorem Scratch.mem_absent_present_false {x : Scratch} {ls : List Nat} {l : Nat} :
    l ∈ (x.present ls false).absent ↔ l ∈ x.absent ∨ l ∈ ls := by
  rw [or_comm]
  exact mem_foldl_insertNat ls x.absent

theorem State.lineAbsent_iff (s : State) (l : ScrLine) : s.lineAbsent l = true ↔ l.line ∈ (s.scr l.level l.owner).absent :=
  List.contains_iff_mem

/-- A crew that is still parked has an absent line to wait for: one without would have been freed (R234). -/
theorem State.exists_absent_of_mem_unpark {s : State} {c : Crew} (hc : c ∈ s.unpark.crews) (hparked : c.parked ≠ []) :
    ∃ l ∈ c.parked, l.line ∈ (s.scr l.level l.owner).absent := by
  obtain ⟨x, -, hx⟩ := List.mem_map.mp hc
  split at hx <;> subst hx
  next hkept =>
    have hany : x.parked.any s.lineAbsent = true := by simpa [hparked] using hkept
    simpa only [List.any_eq_true, State.lineAbsent_iff] using hany
  next => exact absurd rfl hparked

/-! ### Loads, stores and atomics of the scratchpads (R225, R226, R234, R240-R242) -/

/-- A wait that is asked for only under a condition. -/
theorem State.waitFor_pass_if {s : State} {tid : Nat} {p : Flight → Bool} {c : Prop} [Decidable c] (h : c → NoneOutstanding s tid p) :
    (if c then s.waitFor tid p else .pass) = .pass := by
  split
  next hc => exact State.waitFor_pass (h hc)
  next => rfl

/-- The access of a scratchpad word is in order in a thread: operands free, aligned, inside the allotment, its lines present and, where
the word reads, no byte poisoned. -/
def ScrWord.AccessFree (w : ScrWord) (s : State) (i : IssueCtx) (t : Thread) : Prop :=
  let x := w.target i t
  let pad := s.scr x.level (s.scrOwner t x.level)
  FieldsFree t i.beforeQ [w.d, w.a] (w.reads.map (fun r => (r.1, 0, r.2)))
  ∧ x.off % w.size = 0 ∧ x.off + w.size ≤ pad.size ∧ (w.level = none → x.level ≠ 3)
  ∧ (x.level ≠ 3 → ∀ k ∈ linesOf x.off w.size, k ∉ pad.absent) ∧ (w.op ≠ .store → pad.bad x.off w.size = false)

theorem ScrWord.mem_parts_of_accessors {w : ScrWord} {ps : List Thread} {t : Thread} (ht : t ∈ w.accessors ps) : t ∈ ps := by
  unfold ScrWord.accessors at ht
  split at ht
  · exact List.mem_of_mem_take ht
  · exact ht

theorem ScrWord.target_level {w : ScrWord} {l : Nat} (hl : w.level = some l) (i : IssueCtx) (t : Thread) : (w.target i t).level = l := by
  simp only [ScrWord.target, hl]

/-- Level 3 is a level of `ldl` and `stl` alone (R242). -/
theorem ScrWord.level_allowed {w : ScrWord} {i : IssueCtx} {t : Thread} (h : w.level = none → (w.target i t).level ≠ 3) :
    (w.level == some 3 || (w.target i t).level != 3) = true := by
  cases hl : w.level with
  | none => simpa using h hl
  | some l =>
    rw [ScrWord.target_level hl]
    by_cases h3 : l = 3 <;> simp [h3]

theorem State.scrVerdict_pass {s : State} {t : Thread} {x : ScrTarget} {size : Nat} {own : Bool} (halign : x.off % size = 0)
    (hlevel : (own || x.level != 3) = true) (hrange : x.off + size ≤ (s.scr x.level (s.scrOwner t x.level)).size) :
    s.scrVerdict t x size own = .pass := by
  simp [State.scrVerdict, Verdict.andThen_pass, Verdict.require_pass, halign, hlevel, hrange]

section
variable {w : ScrWord} {s : State} {i : IssueCtx} (hfree : ∀ t ∈ w.accessors i.parts, w.AccessFree s i t)
include hfree

theorem ScrWord.lines_present : (w.lines s i i.parts).any s.lineAbsent = false := by
  rw [List.any_eq_false]
  intro l hl
  obtain ⟨t, ht, hlt⟩ := List.mem_flatMap.mp hl
  obtain ⟨-, -, -, -, hpresent, -⟩ := hfree t ht
  dsimp only at hlt
  split at hlt
  next => exact absurd hlt List.not_mem_nil
  next hlevel =>
    obtain ⟨k, hk, rfl⟩ := List.mem_map.mp hlt
    rw [State.lineAbsent_iff]
    exact hpresent hlevel k hk

/-- A word whose accesses are all in order completes: each access enters flight, with the word's passes. -/
theorem scratchWord_next (hi : s.ctl.issue = some i) (hslot : Each i (fun t => SlotFree s t.id w.sb 1)) :
    scratchWord w s = .next (s.launchEach i (w.accessors i.parts) (if w.d.isQ then fun _ => i.parts.map (·.id) else own) w.la
      (some w.sb) .lsu (fun t => .scr (w.access i (w.passes s i i.parts) t))) := by
  simp only [scratchWord, hi, ScrWord.lines_present hfree, Bool.and_false, Bool.false_eq_true, if_false]
  refine (issueWord_runs _ _ hi fun t ht => ?checks).trans ?effect
  case checks =>
    have hroom := State.slotVerdict_pass (hslot t ht)
    split
    next => exact hroom
    next haccess =>
      obtain ⟨u, hu, hut⟩ : ∃ u ∈ w.accessors i.parts, u.id = t.id := by simpa using haccess
      obtain rfl : u = t := IssueCtx.parts_id_inj (ScrWord.mem_parts_of_accessors hu) ht hut
      obtain ⟨hfields, halign, hrange, hlevel, -, hclean⟩ := hfree u hu
      rw [hroom, partialVerdict_pass hfields, State.scrVerdict_pass halign (ScrWord.level_allowed hlevel) hrange]
      by_cases hstore : w.op = .store
      · simp [hstore]
      · simp [hstore, hclean hstore, Verdict.require]
  case effect =>
    cases hq : w.d.isQ <;> rfl

end

end Sys2Proof.Machine

namespace Sys2Proof.Claims
open Sys2Proof.Machine

/-! ### Cache and presence words (R243, R244, R275) -/

/-- The bytes that register b gives to a cache operation in a thread. -/
def lengthIn (b : BitVec 6) (i : IssueCtx) (t : Thread) : Nat := ((Operand.vv b i.pfx.ub).val t i.beforeQ).toNat % 2 ^ 48

/-- A cache operation may issue: its writes are done where it waits for them, its operands are free, its range lies in the address space. -/
def CacheFree (a b : BitVec 6) (wait : Bool) (s : State) (i : IssueCtx) : Prop := Each i (fun t =>
  (wait = true → NoneOutstanding s t.id Flight.isWrite)
  ∧ FieldsFree t i.beforeQ [.vv a i.pfx.ua, .vv b i.pfx.ub] [(.vv a i.pfx.ua, 0, 8), (.vv b i.pfx.ub, 0, 6)]
  ∧ addressIn a i t < 2 ^ 52 ∧ inRange (addressIn a i t) (lengthIn b i t) = true)

theorem cacheWord_next {s : State} {i : IssueCtx} {a b : BitVec 6} {wait : Bool} (effect : Place → LineRange → State → State)
    (hi : s.ctl.issue = some i) (hfree : CacheFree a b wait s i) : cacheWord s a b wait effect = .next (s.each i.parts (fun s t =>
      effect (s.placeOf t) (lineRange (s.asidOf t) (addressIn a i t) (lengthIn b i t)) s)) := by
  simp only [cacheWord, State.pfx_of hi, fld_zero]
  refine (issueWord_runs _ _ hi fun t ht => ?_).trans rfl
  obtain ⟨hdone, hfields, haddr, hrange⟩ := hfree t ht
  rw [addressIn] at haddr hrange
  rw [lengthIn] at hrange
  simp only [Verdict.andThen_pass, Verdict.require_pass, Bool.and_eq_true, decide_eq_true_eq]
  exact ⟨⟨State.waitFor_pass_if hdone, partialVerdict_pass hfields⟩, haddr, hrange⟩

/-- The lines that a `spres` names in a thread. -/
def linesNamed (a : BitVec 6) (count : BitVec 8) (i : IssueCtx) (t : Thread) : List Nat :=
  (List.range (count.toNat + 1)).map (fun k => k + addressIn a i t % 2 ^ 32 / 128)

theorem exec_spres_next {s : State} {i : IssueCtx} (set : BitVec 1) (a : BitVec 6) (count : BitVec 8) (hi : s.ctl.issue = some i)
    (hfree : Each i (fun t =>
      let off := addressIn a i t % 2 ^ 32
      let level := addressIn a i t / 2 ^ 32 % 4
      (set = 1 → NoneOutstanding s t.id Flight.isScrWrite) ∧ FieldsFree t i.beforeQ [.vv a i.pfx.ua] [(.vv a i.pfx.ua, 0, 5)]
      ∧ off % 128 = 0 ∧ level ≠ 3 ∧ off + 128 * (count.toNat + 1) ≤ (s.scr level (s.scrOwner t level)).size)) :
    exec (.spres set a count) s = .next (s.each i.parts (fun s t =>
      let level := addressIn a i t / 2 ^ 32 % 4
      s.setPresence level (s.scrOwner t level) (linesNamed a count i t) (set == 1))) := by
  change execSpres set a count s = _
  have hlevel : ∀ v, fld v 32 2 = v / 2 ^ 32 % 4 := fun v => fld_eq v 32 2
  simp only [execSpres, State.pfx_of hi, fld_zero, hlevel]
  refine (issueWord_runs _ _ hi fun t ht => ?_).trans rfl
  obtain ⟨hdone, hfields, halign, hnot3, hrange⟩ := hfree t ht
  rw [addressIn] at halign hnot3 hrange
  simp only [Verdict.andThen_pass, Verdict.require_pass, Bool.and_eq_true, bne_iff_ne, beq_iff_eq, decide_eq_true_eq]
  exact ⟨⟨⟨State.waitFor_pass_if hdone, partialVerdict_pass hfields⟩, halign⟩, hnot3, hrange⟩

/-! ### The statements -/

/-- Settles O40: the operands are the numbers of bit vectors of the type's width, on which each operation is the bit vectors' own. -/
theorem atomicResults : Obligations.AtomicResults := by
  unfold Obligations.AtomicResults
  intro k old x y w u v hold hx
  have hu : u.toNat = old := Nat.mod_eq_of_lt hold
  have hv : v.toNat = x := Nat.mod_eq_of_lt hx
  clear_value u v
  subst hu hv
  exact ⟨fun hint => ⟨atomResult_add_int hint u v y, atomResult_min_int hint u v y, atomResult_max_int hint u v y⟩,
    (BitVec.toNat_and u v).symm, (BitVec.toNat_or u v).symm, (BitVec.toNat_xor u v).symm, rfl, rfl⟩

/-- Settles O42: each word has the effect that its lemma gives, and each effect leaves the lines that its lemma names. -/
theorem cacheAndPresenceWords : Obligations.CacheAndPresenceWords := by
  unfold Obligations.CacheAndPresenceWords
  refine ⟨fun a b => ?cache, fun set a count => ?presence⟩
  case cache =>
    intro oa ob len ok on
    have hword : ∀ wait f w, (∀ s, exec w s = cacheWord s a b wait (fun p r s => f s p r)) → Completes w (ok wait) (on f) :=
      fun wait f w hw s i hi hfree => by
        rw [hw]
        exact cacheWord_next _ hi hfree
    exact ⟨hword false State.dropL1 _ fun _ => rfl, hword false State.dropL2 _ fun _ => rfl, hword true State.cleanL2 _ fun _ => rfl,
      hword true (fun s _ r => s.dropAll r) _ fun _ => rfl, hword true (fun s _ r => s.dropAll r) _ fun _ => rfl,
      fun s p r => ⟨s.mem_dropL1_l1 p r, s.mem_dropL2_l2 p r, fun _ => s.not_dirty_of_mem_cleanL2 p r, s.mem_dropAll_l2 r⟩⟩
  case presence =>
    refine ⟨fun s i hi hfree => exec_spres_next set a count hi hfree, fun s i hi hdone => ?swf,
      fun _ _ _ => ⟨Scratch.mem_absent_present_true, Scratch.mem_absent_present_false⟩,
      fun _ _ hc hparked => State.exists_absent_of_mem_unpark hc hparked⟩
    case swf =>
      change execSwf s = _
      exact issueWord_runs _ _ hi fun t ht => State.waitFor_pass (hdone t ht)

/-- Settles O43: a load, store or atomic is a scratchpad word, and such a word completes where its accesses are in order. -/
theorem scratchWords : Obligations.ScratchWords := by
  unfold Obligations.ScratchWords
  intro d a la sb m two completes move atom
  have hmove : ∀ op level w, (∀ s, exec w s = scrMove s op level d a la sb m) → move op level w :=
    fun op level w hw s i hi ⟨hslot, hfree⟩ => by
      rw [hw, scrMove, State.pfx_of hi]
      exact scratchWord_next hfree hi hslot
  have hatom : ∀ op w, (∀ s, exec w s = scrAtomic s op d a la sb m) → atom op (if op == .cas then 2 else 1) w :=
    fun op w hw s i hi ⟨hslot, hfree⟩ => by
      rw [hw, scrAtomic, State.pfx_of hi]
      exact scratchWord_next hfree hi hslot
  exact ⟨hmove .load 3 _ fun _ => rfl, hmove .store 3 _ fun _ => rfl, hmove .load 0 _ fun _ => rfl, hmove .store 0 _ fun _ => rfl,
    hmove .load 1 _ fun _ => rfl, hmove .store 1 _ fun _ => rfl, hmove .load 2 _ fun _ => rfl, hmove .store 2 _ fun _ => rfl,
    hatom .add _ fun _ => rfl, hatom .min _ fun _ => rfl, hatom .max _ fun _ => rfl, hatom .and _ fun _ => rfl,
    hatom .or _ fun _ => rfl, hatom .xor _ fun _ => rfl, hatom .xchg _ fun _ => rfl, hatom .cas _ fun _ => rfl⟩

end Sys2Proof.Claims

/-! SUPPORT. Faults of the addresses of memory words (spec/09 R245, R268; spec/11 R303): what the check of an address raises, and what a word
with one participant leaves where its check raises a cause. -/
namespace Sys2Proof.Machine

/-! ### The check of an address (R245, R268) -/

theorem addressVerdict_out_of_range {va span align : Nat} (h : inRange va span = false) :
    addressVerdict va span align = .trap Cause.addrRange va := by
  simp [addressVerdict, Verdict.require, Verdict.andThen, h]

theorem addressVerdict_misaligned {va span align : Nat} (hrange : inRange va span = true) (halign : va % align ≠ 0) :
    addressVerdict va span align = .trap Cause.misaligned va := by
  simp [addressVerdict, Verdict.require, Verdict.andThen, hrange, halign]

/-- Fewer fields are free where more are. -/
theorem FieldsFree.mono_reads {t : Thread} {q : QCopy} {named : List Operand} {reads reads' : List (Operand × Nat × Nat)}
    (h : FieldsFree t q named reads) (hsub : ∀ x ∈ reads', x ∈ reads) : FieldsFree t q named reads' :=
  let ⟨hranges, hwin, hq⟩ := h
  ⟨hranges, fun x hx => hwin x (hsub x hx), fun x hx => hq x (hsub x hx)⟩

/-- With its operands free and no version of a `q` register named, a memory word is checked by its address alone. -/
theorem MemWord.verdict_eq_address {w : MemWord} {i : IssueCtx} {t : Thread} (hver : i.pfx.verMode = 0)
    (hfields : FieldsFree t i.beforeQ (w.a :: w.d.toList) ((w.a, 0, 8) :: w.sources.map (fun o => (o, 0, w.dRead)))) :
    w.verdict i t = addressVerdict (w.va i t) w.span w.align := by
  have hpartial : partialVerdict i.beforeQ t (w.a :: w.d.toList) ((w.a, 8) :: w.sources.map (fun o => (o, w.dRead))) = .pass :=
    partialVerdict_pass (by simpa [Function.comp_def] using hfields)
  rw [MemWord.verdict, hpartial, verPoison_pass (by simp [hver]), Verdict.pass_andThen, Verdict.pass_andThen]

/-- A word whose one participant's check raises a cause takes that trap (R46, R298). -/
theorem issueWord_raises_one {s : State} {i : IssueCtx} {p : Pipe} {v : IssueCtx → Thread → Verdict} {t : Thread} {c x : Nat}
    (e : IssueCtx → List Thread → State → State) (hi : s.ctl.issue = some i) (hc : i.checked = false) (hparts : i.parts = [t])
    (hv : v i t = .trap c x) {r : Raised} (hr : r = { tid := t.id, cause := c, val := x, word := i.word, pipe := p.code }) :
    issueWord s p v e = .next ((s.takeTraps [r] i.active i.pkt i.entry).modIssue (fun i => { i with status := .raised [r] })) := by
  refine issueWord_raises e hi hc (fun u hu => ?_) ?_ (List.cons_ne_nil r [])
  · obtain rfl : u = t := by simpa [hparts] using hu
    simp [hv, Verdict.Decided]
  · rw [hparts, List.filterMap_cons_some (raisedBy_eq_some.mpr ⟨c, x, hv, hr⟩), List.filterMap_nil]

/-- A memory word whose one participant's check raises a cause takes that trap: nothing enters flight (R46, R298). -/
theorem memWord_raises {w : MemWord} {s : State} {i : IssueCtx} {t : Thread} {c x : Nat} (hi : s.ctl.issue = some i)
    (hc : i.checked = false) (hparts : i.parts = [t]) (hslot : ∀ n, w.sb = some n → SlotFree s t.id n 1) (hv : w.verdict i t = .trap c x)
    {r : Raised} (hr : r = { tid := t.id, cause := c, val := x, word := i.word, pipe := w.pipe.code }) :
    memWord w s = .next ((s.takeTraps [r] i.active i.pkt i.entry).modIssue (fun i => { i with status := .raised [r] })) := by
  have haccess : w.accessors i.parts = [t] := by
    rw [MemWord.accessors, hparts]
    split <;> rfl
  rw [memWord]
  refine issueWord_raises_one _ hi hc hparts ?_ hr
  rw [haccess]
  cases hsb : w.sb with
  | none => simp [hv]
  | some n => simp [hv, State.slotVerdict_pass (hslot n hsb)]

end Sys2Proof.Machine

namespace Sys2Proof.Claims
open Sys2Proof.Machine

/-- Settles O39: a load and a store are memory words checked by their address alone, of as many bytes as they move. -/
theorem addressFaults : Obligations.AddressFaults := by
  unfold Obligations.AddressFaults
  intro d a la sb m s i t hi hc hparts hud hver hslot n o hfields traps
  have hraises : ∀ c, addressVerdict (addressIn a i t) n n = .trap c (addressIn a i t) → traps c := by
    intro c hv w hw
    have hsb : ∀ k, some sb.toNat = some k → SlotFree s t.id k 1 := fun k hk => Option.some.inj hk ▸ hslot
    rcases List.mem_pair.mp hw with rfl | rfl
    case inl =>
      change execLd d a la sb m s = _
      rw [execLd, State.pfx_of hi, hud]
      refine memWord_raises hi hc hparts hsb ?_ rfl
      exact (MemWord.verdict_eq_address hver (hfields.mono_reads (by simp [MemWord.sources]))).trans hv
    case inr =>
      change execSt d a la sb m s = _
      rw [execSt, State.pfx_of hi]
      refine memWord_raises hi hc hparts hsb ?_ rfl
      refine (MemWord.verdict_eq_address hver (hfields.mono_reads fun x hx => ?_)).trans hv
      simp only [MemWord.sources] at hx
      split at hx <;> simp_all [o, n, moveBytes]
  exact ⟨fun hout => hraises _ (addressVerdict_out_of_range hout), fun hin hmis => hraises _ (addressVerdict_misaligned hin hmis)⟩

end Sys2Proof.Claims

/-! SUPPORT. Accesses on their way (spec/09 R253-R269; spec/11 R296; spec/12 R321-R333): what staging a word in flight leaves, what an access
made whole and alone in its line comes to, then each event where its condition holds. -/
namespace Sys2Proof.Machine

/-! ### Words in flight staged and completed -/

theorem State.flight?_stage {s : State} {f : Flight} (hf : s.flight? f.id = some f) (st : FlightStage) :
    (s.stage f.id st).flight? f.id = some { f with stage := st } := by
  refine (State.flight?_modFlight s f.id f.id (fun x => { x with stage := st }) fun _ => rfl).trans ?_
  rw [if_pos rfl, hf, Option.map_some]

/-- What a change leaves of the elements that it does not touch. -/
theorem filter_not_modFirst {α : Type} (p : α → Bool) {g : α → α} (hg : ∀ x, p (g x) = p x) (l : List α) :
    (modFirst p g l).filter (fun x => !p x) = l.filter (fun x => !p x) := by
  induction l with
  | nil => rfl
  | cons x xs ih =>
    unfold modFirst
    split
    next hx => simp [hg, hx]
    next hx => rw [List.filter_cons, List.filter_cons, ih]

theorem State.modEach_modFlight (s : State) (k : Nat) (g : Flight → Flight) (ids : List Nat) (f : Thread → Thread) :
    (s.modFlight k g).modEach ids f = (s.modEach ids f).modFlight k g :=
  List.foldl_hom (fun s : State => s.modFlight k g) (l := ids) (init := s) fun _ _ => rfl

/-- A word in flight that completes leaves nothing of a change made to it. -/
theorem State.completeFlight_modFlight (s : State) (f : Flight) {g : Flight → Flight} (hg : ∀ x, (g x).id = x.id) :
    (s.modFlight f.id g).completeFlight f = s.completeFlight f := by
  have hdrop : ∀ s : State, (s.modFlight f.id g).dropFlight f.id = s.dropFlight f.id := fun s => by
    have hflights := filter_not_modFirst (fun x : Flight => x.id == f.id) (g := g) (fun x => by rw [hg]) s.flights
    exact congrArg (fun fs => { s with flights := fs }) hflights
  unfold State.completeFlight
  cases f.sb with
  | none => exact hdrop s
  | some sb => exact (congrArg (·.dropFlight f.id) (s.modEach_modFlight f.id g f.tids _)).trans (hdrop _)

/-- What lands does not depend on the words in flight. -/
theorem State.landLoad_modFlight (s : State) (k : Nat) (g : Flight → Flight) (f : Flight) (dst : Dst) (bs : List Byte) (x : VerSel)
    (pred : Option Bool) : (s.modFlight k g).landLoad f dst bs x pred = (s.landLoad f dst bs x pred).modFlight k g := by
  have hland : ∀ t, (s.modFlight k g).land t dst bs = (s.land t dst bs).modFlight k g := fun t => by cases dst <;> rfl
  unfold State.landLoad
  cases hids : f.tids with
  | nil => cases pred <;> rfl
  | cons t ts =>
    dsimp only
    rw [hland]
    cases pred with
    | none => rfl
    | some b => exact State.modEach_modFlight _ _ _ (t :: ts) _

/-- A load that is staged and lands at once leaves what it leaves without the stage. -/
theorem State.finishLoad_stage (s : State) (f : Flight) (a : MemAcc) (st : FlightStage) (bs : List Byte) (pred : Option Bool) :
    (s.stage f.id st).finishLoad f a bs pred = s.finishLoad f a bs pred := by
  unfold State.finishLoad State.stage
  dsimp only
  rw [State.landLoad_modFlight]
  exact State.completeFlight_modFlight _ _ fun _ => rfl

theorem State.eachAccess_single (s : State) {f : Flight} {a : MemAcc} (hkind : f.kind = .mem a) (g : State → Flight → MemAcc → State) :
    s.eachAccess [f] g = g s f a := by
  simp only [State.eachAccess, List.foldl_cons, List.foldl_nil, hkind]

theorem MemAcc.want_load {a : MemAcc} (hop : a.op = .load) : a.want = .read := by rw [MemAcc.want, hop]

theorem MemAcc.want_store {a : MemAcc} (hop : a.op = .store) : a.want = .write := by rw [MemAcc.want, hop]

/-! ### An access made whole (R283) -/

section Whole
variable {a : MemAcc} (hwhole : a.half = none)
include hwhole

theorem State.accessPage_whole (s : State) : s.accessPage a = s.translate a.asid a.va a.want := by
  simp [State.accessPage, hwhole]

theorem State.accessPage?_whole (s : State) : s.accessPage? a = s.page? a.asid a.va := by
  simp [State.accessPage?, hwhole]

/-- A fault at the home is the access's own, at its address (R252). -/
theorem State.accFault_whole (s : State) (f : Flight) (c : Nat) (hpf : ∀ l1, a.op ≠ .pf l1) :
    s.accFault f a c = s.modFlight f.id (fun x => { x with stage := .faulted c a.va, kind := .mem a }) := by
  have haddr : a.addr = a.va := by simp [MemAcc.addr, hwhole]
  have hsame : { a with half := a.half.map fun h => { h with page := none } } = a := by
    cases a
    simp_all
  unfold State.accFault
  split
  next l1 hop => exact absurd hop (hpf l1)
  next => rw [haddr, hsame]

end Whole

theorem State.parts_whole (s : State) {a : MemAcc} (hsize : a.size ≠ 16) : s.parts a = (none, s) := by
  simp [State.parts, hsize]

theorem State.takeBytes_whole (s : State) {f : Flight} {a : MemAcc} {line : Mem} {poison : Marks} (pred : Option Bool) (hsize : a.size ≠ 16)
    (hclean : lowestMarked poison (a.va % 128) a.size = none) :
    s.takeBytes f a line poison pred = s.stage f.id (.data (line.readN (a.va % 128) a.size) pred) := by
  simp [State.takeBytes, State.parts_whole s hsize, hclean]

theorem State.tearStore_whole (s : State) (f : Flight) {a : MemAcc} (p : Page) (put : State → MemAcc → Nat × State) (hsize : a.size ≠ 16) :
    s.tearStore f a p put = none := by
  simp [State.tearStore, hsize]

/-- Each of the accesses that a line request serves faulted at the home. -/
def State.accFaults (s : State) (fs : List Flight) (c : Nat) : State := s.eachAccess fs (fun s m b => s.accFault m b c)

theorem State.accFaults_single (s : State) {f : Flight} {a : MemAcc} (hkind : f.kind = .mem a) (hwhole : a.half = none) (c : Nat)
    (hpf : ∀ l1, a.op ≠ .pf l1) :
    s.accFaults [f] c = s.modFlight f.id (fun x => { x with stage := .faulted c a.va, kind := .mem a }) :=
  (s.eachAccess_single hkind _).trans (State.accFault_whole hwhole s f c hpf)

/-! ### Loads on their way (R237, R253, R258, R259, R269) -/

/-- A load that finds its line in a cache lands at once where it has its bytes. -/
def State.landHit (s : State) (f : Flight) (a : MemAcc) : State :=
  match s.flight? f.id with
  | some { stage := .data bs pred, .. } => s.finishLoad f a bs pred
  | _ => s

/-- The accesses of its word that a fill serves beside its own. -/
def State.fillMates (s : State) (f : Flight) (g : Grant) : List Flight :=
  s.flights.filter (fun m => m.id != f.id && m.group == f.group
    && (match m.stage with | .fill h => h.msg == g.msg && h.die == g.die | _ => false))

/-- The home's answer to a read, for every participant of the word that touches the line (R252, R258). -/
def State.askRead (s : State) (f : Flight) (a : MemAcc) : State :=
  match s.accessPage a with
  | .fault c => s.accFaults (f :: s.lineMates f a) c
  | .demand => s.eachAccess (f :: s.lineMates f a) State.accDemand
  | .ok p => (s.touchPage p false).readLine f a p (s.lineMates f a)

section Access
variable {s : State} {f : Flight} {a : MemAcc} (hf : s.flight? f.id = some f) (hkind : f.kind = .mem a)
include hf hkind

theorem memoryLoadLand_data {bs : List Byte} {pred : Option Bool} (hstage : f.stage = .data bs pred) :
    exec (.memoryLoadLand f.id) s = .next (s.finishLoad f a bs pred) := by
  change execMemoryLoadLand f.id s = _
  simp only [execMemoryLoadLand, hf, hkind, hstage]

theorem memoryLoadLand_hit {line : Mem} {poison : Marks} {inL1 : Bool} (hstage : f.stage = .start) (hturn : s.readWaits f a = false)
    (hhit : s.hit a = some (line, poison, inL1)) :
    exec (.memoryLoadLand f.id) s = .next ((s.serveHit f a line poison inL1).landHit f a) := by
  change execMemoryLoadLand f.id s = _
  simp only [execMemoryLoadLand, hf, hkind, hstage, hturn, hhit]
  rfl

theorem fillArrival_next {g : Grant} (hstage : f.stage = .fill g) (hturn : s.fillWaits a g = false) :
    exec (.fillArrival f.id) s = .next ((s.arrive a g).eachAccess (f :: s.fillMates f g) (fun s m b => s.serveFill m b g)) := by
  change execFillArrival f.id s = _
  simp only [execFillArrival, hf, hkind, hstage, hturn]
  rfl

theorem homeReadRequest_next (hready : s.readRequestReady f = true) : exec (.homeReadRequest f.id) s = .next (s.askRead f a) := by
  change execHomeReadRequest f.id s = _
  simp only [execHomeReadRequest, hf, hkind, hready]
  rfl

end Access

/-- A readable line in the core's L1 serves a load (R269). -/
theorem State.hit_l1 {s : State} {a : MemAcc} {p : Page} {l : L1Line} (hwhole : a.half = none) (hop : a.op = .load) (hvol : a.vol = false)
    (hver : a.ver.byVersion = false) (hpage : s.page? a.asid a.va = some p) (hread : p.canRead = true)
    (hl : s.l1? a.place a.asid (s.slotOf a) (lineOf a.va) = some l) : s.hit a = some (l.data, l.poison, true) := by
  simp [State.hit, State.accessPage?_whole hwhole, hop, hvol, hver, hpage, hread, hl]

section Alone
variable {s : State} {f : Flight} {a : MemAcc} (hkind : f.kind = .mem a) (hop : a.op = .load)
include hkind hop

theorem State.serveHit_l1 {line : Mem} {poison : Marks} (halone : s.lineMates f a = []) :
    s.serveHit f a line poison true = s.takeBytes f a line poison (if a.ver.old then some false else none) := by
  simp [State.serveHit, halone, hop, State.eachAccess_single _ hkind]

/-- A whole load that finds its line in the core's L1, with no other participant there, takes its bytes and lands. -/
theorem State.landHit_l1 {line : Mem} {poison : Marks} (hf : s.flight? f.id = some f) (halone : s.lineMates f a = []) (hsize : a.size ≠ 16)
    (hclean : lowestMarked poison (a.va % 128) a.size = none) :
    (s.serveHit f a line poison true).landHit f a
      = s.finishLoad f a (line.readN (a.va % 128) a.size) (if a.ver.old then some false else none) := by
  rw [State.serveHit_l1 hkind hop halone, State.takeBytes_whole s _ hsize hclean, State.landHit, State.flight?_stage hf]
  exact State.finishLoad_stage _ _ _ _ _ _

end Alone

theorem State.finishLoad_whole (s : State) (f : Flight) {a : MemAcc} (hwhole : a.half = none) (bs : List Byte) (pred : Option Bool) :
    s.finishLoad f a bs pred = (s.landLoad f a.dst (loadResult a.op a.size a.dfmt bs) a.ver pred).completeFlight f := by
  simp [State.finishLoad, hwhole]

/-- No other word in flight belongs to the issue. -/
def Flight.AloneIn (f : Flight) (s : State) : Prop := ∀ x ∈ s.flights, x.id ≠ f.id → x.group ≠ f.group

theorem State.fillMates_alone {s : State} {f : Flight} (halone : f.AloneIn s) (g : Grant) : s.fillMates f g = [] := by
  rw [State.fillMates, List.filter_eq_nil_iff]
  intro x hx
  by_cases hid : x.id = f.id
  · simp [hid]
  · simp [halone x hx hid]

/-- A fill serves the one access that it was asked for. -/
theorem State.serveFills_alone {s : State} {f : Flight} {a : MemAcc} (hkind : f.kind = .mem a) {g : Grant} (halone : f.AloneIn s) :
    (s.arrive a g).eachAccess (f :: s.fillMates f g) (fun s m b => s.serveFill m b g) = (s.arrive a g).serveFill f a g := by
  rw [State.fillMates_alone halone, State.eachAccess_single _ hkind]

section Fill
variable (s : State) (f : Flight) {a : MemAcc} {g : Grant}

theorem State.serveFill_load (hop : a.op = .load) (hsize : a.size ≠ 16) (hclean : lowestMarked g.poison (a.va % 128) a.size = none) :
    s.serveFill f a g = s.stage f.id (.data (g.data.readN (a.va % 128) a.size) g.pred) := by
  simp only [State.serveFill, hop]
  exact State.takeBytes_whole _ _ hsize hclean

theorem State.serveFill_store_owned {l : L2Line} (hop : a.op = .store) (hl : s.l2? g.die a.asid 0 g.line = some l) (hown : l.state ≠ .s) :
    s.serveFill f a g = s.stage f.id .granted := by
  simp [State.serveFill, hop, hl, hown]

theorem State.serveFill_store_lost (hop : a.op = .store) (hl : s.l2? g.die a.asid 0 g.line = none) :
    s.serveFill f a g = s.stage f.id .start := by
  simp [State.serveFill, hop, hl]

end Fill

/-- A read that no other participant shares is the one at the home (R258). -/
theorem State.readLine_alone (s : State) (f : Flight) (a : MemAcc) (p : Page) : s.readLine f a p [] = s.readAtHome f a p := by
  unfold State.readLine
  dsimp only
  split <;> rfl

section Ask
variable {s : State} {f : Flight} {a : MemAcc} (hwhole : a.half = none) (hop : a.op = .load) (halone : s.lineMates f a = [])
include hwhole hop halone

theorem State.askRead_fault {c : Nat} (hkind : f.kind = .mem a) (hfault : s.translate a.asid a.va .read = .fault c) :
    s.askRead f a = s.modFlight f.id (fun x => { x with stage := .faulted c a.va, kind := .mem a }) := by
  rw [State.askRead, State.accessPage_whole hwhole, MemAcc.want_load hop, hfault, halone]
  exact s.accFaults_single hkind hwhole c (by simp [hop])

theorem State.askRead_ok {p : Page} (hpage : s.translate a.asid a.va .read = .ok p) :
    s.askRead f a = (s.touchPage p false).readAtHome f a p := by
  rw [State.askRead, State.accessPage_whole hwhole, MemAcc.want_load hop, hpage, halone]
  exact State.readLine_alone _ f a p

end Ask

/-! ### Writes on their way (R258, R260, R321) -/

/-- Each of the accesses that a line request serves staged. -/
def State.stageAll (s : State) (fs : List Flight) (st : FlightStage) : State := s.eachAccess fs (fun s m _ => s.stage m.id st)

/-- What the home does with a write to a page that it has translated (R258, R266): a store to device memory is granted the line; before any
other write the line is recalled, a mailbox line's host asked first. -/
def State.askOwnership (s : State) (a : MemAcc) (p : Page) (fs : List Flight) : State :=
  let pl := lineOf (p.phys a.va)
  let s := s.touchPage p true
  if p.mt == 0 && a.op == .store && !a.vol then (s.grantOwn a p).2.stageAll fs (.fill (s.grantOwn a p).1)
  else if p.mt == 1 then
    if (s.snoop pl).1 then (s.snoop pl).2.stageAll fs .waiting else ((s.snoop pl).2.recall pl).stageAll fs .granted
  else if p.mt == 0 then (s.recall pl).stageAll fs .granted
  else s.stageAll fs .granted

/-- The home's answer to a write, for every participant of the word that touches the line (R252, R258). -/
def State.askWrite (s : State) (f : Flight) (a : MemAcc) : State :=
  match s.accessPage a with
  | .fault c => s.accFaults (f :: s.lineMates f a) c
  | .demand => s.eachAccess (f :: s.lineMates f a) State.accDemand
  | .ok p => s.askOwnership a p (f :: s.lineMates f a)

section Ask
variable {s : State} {f : Flight} {a : MemAcc} (hkind : f.kind = .mem a) (hwhole : a.half = none) (hop : a.op = .store)
  (halone : s.lineMates f a = [])
include hkind hwhole hop halone

theorem State.askWrite_fault {c : Nat} (hfault : s.translate a.asid a.va .write = .fault c) :
    s.askWrite f a = s.modFlight f.id (fun x => { x with stage := .faulted c a.va, kind := .mem a }) := by
  rw [State.askWrite, State.accessPage_whole hwhole, MemAcc.want_store hop, hfault, halone]
  exact s.accFaults_single hkind hwhole c (by simp [hop])

/-- A store to device memory is granted the line (R258). -/
theorem State.askWrite_device {p : Page} (hvol : a.vol = false) (hpage : s.translate a.asid a.va .write = .ok p) (hmt : p.mt = 0) :
    let r := (s.touchPage p true).grantOwn a p
    s.askWrite f a = r.2.stage f.id (.fill r.1) := by
  rw [State.askWrite, State.accessPage_whole hwhole, MemAcc.want_store hop, hpage, halone]
  simp [State.askOwnership, hmt, hop, hvol, State.stageAll, State.eachAccess_single _ hkind]

end Ask

section Access
variable {s : State} {f : Flight} {a : MemAcc} (hf : s.flight? f.id = some f) (hkind : f.kind = .mem a)
include hf hkind

theorem homeOwnershipRequest_next (hready : s.ownershipReady f = true) : exec (.homeOwnershipRequest f.id) s = .next (s.askWrite f a) := by
  change execHomeOwnershipRequest f.id s = _
  simp only [execHomeOwnershipRequest, hf, hkind, hready]
  rfl

theorem homeWriteArrival_next {p : Page} (hready : s.arrivalReady f = true) (hpage : s.accessPage a = .ok p) :
    exec (.homeWriteArrival f.id) s = .next (s.checkStep f a p) := by
  change execHomeWriteArrival f.id s = _
  simp only [execHomeWriteArrival, hf, hkind, hready, hpage]
  rfl

/-- The stores of a word's other participants performed in the lines that their die owns by now (R268). -/
def State.writeMates (s : State) (fs : List Flight) : State := s.eachAccess fs (fun s m b => match s.ownedLine m b with
  | some l => if s.turnWaits m then s else s.writeOwned m b l
  | none => s)

theorem memoryWritePerformed_owned {l : L2Line} (hstage : f.stage = .start ∨ f.stage = .granted) (hop : a.op = .store)
    (hturn : s.turnWaits f = false) (hline : s.ownedLine f a = some l) :
    exec (.memoryWritePerformed f.id) s = .next ((s.writeOwned f a l).writeMates (s.grantMates f a)) := by
  change execMemoryWritePerformed f.id s = _
  rcases hstage with hstage | hstage <;>
  · simp only [execMemoryWritePerformed, hf, hkind, hstage, hop, hturn, hline]
    rfl

end Access

theorem State.writeOwned_whole (s : State) (f : Flight) {a : MemAcc} (l : L2Line) (hsize : a.size ≠ 16) :
    s.writeOwned f a l = ((s.touchWrite a).performLocal a l a.data).2.finishWrite f a ((s.touchWrite a).performLocal a l a.data).1 := by
  unfold State.writeOwned
  cases s.accessPage? a with
  | none => rfl
  | some p => simp only [State.tearStore_whole s f p _ hsize]

/-! ### Steps and versions (R321, R322, R329, R333) -/

section Steps
variable {s : State} {f : Flight} {a : MemAcc} {p : Page}

theorem State.checkStep_older (h : f.step < p.version) : s.checkStep f a p = s.accFault f a 0x29 := if_pos h

theorem State.checkStep_published {r : Region} (hstep : p.version ≤ f.step) (hregion : (s.asidBlock a.asid).regionOf p.base = some r)
    (hpub : f.step ≤ r.pub) : s.checkStep f a p = s.accFault f a 0x2A := by
  simp [State.checkStep, Nat.not_lt.mpr hstep, hregion, hpub]

theorem State.checkStep_newer (hopen : ∀ r, (s.asidBlock a.asid).regionOf p.base = some r → r.pub < f.step) (hstep : p.version < f.step) :
    s.checkStep f a p = s.beginCopy f a p := by
  cases hregion : (s.asidBlock a.asid).regionOf p.base with
  | none => simp [State.checkStep, hregion, hstep, hstep.not_gt]
  | some r => simp [State.checkStep, hregion, hopen r hregion, hstep, hstep.not_gt]

end Steps

theorem State.setDirs_cows {α : Type} (f : State → α → DirEntry) (xs : List α) (s : State) :
    (xs.foldl (fun s x => s.setDir (f s x)) s).mem.cows = s.mem.cows :=
  List.foldlRecOn xs _ (motive := fun x : State => x.mem.cows = s.mem.cows) rfl fun _ hx _ _ => hx

theorem State.moveCopies_cows (s : State) (src dst n : Nat) : (s.moveCopies src dst n).mem.cows = s.mem.cows := by
  unfold State.moveCopies
  exact State.setDirs_cows (fun s (x : Nat × Nat) => { s.dirEntry x.1 with exp := max (s.dirEntry x.1).exp x.2 }) _ s

@[simp] theorem State.writePool_cows (s : State) (asid i bits : Nat) : (s.writePool asid i bits).mem.cows = s.mem.cows := rfl

theorem State.finishCow_cows (s : State) (c : CopyOnWrite) (p : Page) :
    (s.finishCow c p).mem.cows = s.mem.cows.filter (fun x => !(x.asid == c.asid && x.page == c.page)) := by
  unfold State.finishCow
  extract_lets _ _ _ _ _ _ copied _ _ _ _ _ _ retained _ mapped moved _
  have hmapped : mapped.mem.cows = retained.mem.cows.filter (fun x => !(x.asid == c.asid && x.page == c.page)) := rfl
  change moved.mem.cows = _
  rw [State.moveCopies_cows, hmapped, State.writePool_cows]
  rfl

theorem snapshotCopyComplete_next {s : State} {asid page : Nat} {c : CopyOnWrite} {p : Page}
    (hc : s.mem.cows.find? (fun c => c.asid == asid && c.page == page) = some c) (hp : s.page? asid page = some p)
    (hhome : s.homeFenced page = false) : exec (.snapshotCopyComplete asid page) s = .next (s.finishCow c p) := by
  change execSnapshotCopyComplete asid page s = _
  simp only [execSnapshotCopyComplete, hc, hp, hhome]
  rfl

/-- A copy that ends stands no longer. -/
theorem State.not_mem_finishCow {s : State} {asid page : Nat} {c : CopyOnWrite} (p : Page)
    (hc : s.mem.cows.find? (fun c => c.asid == asid && c.page == page) = some c) :
    ∀ x ∈ (s.finishCow c p).mem.cows, ¬(x.asid = asid ∧ x.page = page) := by
  have hnames : c.asid = asid ∧ c.page = page := by simpa using List.find?_some hc
  obtain ⟨rfl, rfl⟩ := hnames
  intro x hx
  rw [State.finishCow_cows] at hx
  simpa [imp_iff_not_or] using (List.mem_filter.mp hx).2

/-- What VPUB_JOB_RUN does for a region: PUB and code, and the state (R329). -/
def State.publish (s : State) (asid v i : Nat) : Nat × Nat × State :=
  let r := (s.asidBlock asid).region i
  if !r.valid then (2, r.pub, s) else if v ≤ r.pub then (1, r.pub, s) else (0, v, (s.recallRegion asid r).setPub asid i v)

theorem vpubJobRun_next {s : State} {f : Flight} {t : Thread} {v i : Nat} {dst : Dst} {rest : List Nat} (hf : s.flight? f.id = some f)
    (hkind : f.kind = .vpub v i dst) (htids : f.tids = t.id :: rest) (ht : s.thread? t.id = some t)
    (hearlier : ∀ g ∈ s.flights, g.id < f.id → t.id ∈ g.tids → g.isAccess = false) (hfaulted : s.faultedBefore f Flight.isAccess = false)
    (hbusy : ((s.asidBlock (s.asidOf t)).region i).busy = false) :
    let x := s.publish (s.asidOf t) v i
    exec (.vpubJobRun f.id) s = .next ((x.2.2.land64 t.id dst (BitVec.ofNat 64 (x.2.1 * 2 ^ 32 + x.1))).completeFlight f) := by
  have hnone : s.flights.any (fun g => decide (g.id < f.id) && g.tids.contains t.id && g.isAccess) = false := by
    rw [List.any_eq_false]
    intro g hg
    simpa using hearlier g hg
  change execVpubJobRun f.id s = _
  simp only [execVpubJobRun, hf, hkind, htids, ht, hnone, hfaulted, hbusy]
  rfl

theorem fld_setFld_same (v lo n x : Nat) : fld (setFld v lo n x) lo n = x % 2 ^ n := by
  refine Nat.eq_of_testBit_eq fun k => ?_
  rw [fld_eq, Nat.testBit_mod_two_pow, Nat.testBit_div_two_pow, Nat.testBit_mod_two_pow]
  by_cases hk : k < n
  · rw [setFld_testBit_inside (by omega) (by omega), Nat.add_sub_cancel]
  · simp [hk]

/-- A field that lies beside the one set is as it was. -/
theorem fld_setFld_beside {lo n lo' n' : Nat} (v x : Nat) (h : lo' + n' ≤ lo ∨ lo + n ≤ lo') :
    fld (setFld v lo n x) lo' n' = fld v lo' n' := by
  refine Nat.eq_of_testBit_eq fun k => ?_
  rw [fld_eq, fld_eq, Nat.testBit_mod_two_pow, Nat.testBit_div_two_pow, Nat.testBit_mod_two_pow, Nat.testBit_div_two_pow]
  by_cases hk : k < n'
  · rw [setFld_testBit_outside (by omega)]
  · simp [hk]

/-- A pool entry made FREE: its version, page and time are gone, its frame stays (R326, R333). -/
def PoolEntry.freed (e : PoolEntry) : Nat := setFld (setFld (setFld (setFld e.bits 200 24 0) 164 36 0) 64 64 0) 138 2 1

theorem PoolEntry.freed_fields (e : PoolEntry) :
    let x : PoolEntry := ⟨e.index, e.freed⟩
    x.state = 1 ∧ x.version = 0 ∧ x.page = 0 ∧ x.frame = e.frame ∧ x.stack = e.stack := by
  simp [PoolEntry.state, PoolEntry.version, PoolEntry.page, PoolEntry.frame, PoolEntry.stack, PoolEntry.freed, fld_setFld_same,
    fld_setFld_beside]

theorem versionReclaim_next {s : State} {asid : Nat} {e : PoolEntry} (he : (s.pool asid).find? (fun x => x.index == e.index) = some e)
    (hstate : e.state = 2) (hreach : s.reachable asid e = false) (hhome : (s.receiver (4 + e.stack / 3)).fenced = false)
    (hbad : e.bad = false) : exec (.versionReclaim asid e.index) s = .next (s.writePool asid e.index e.freed) := by
  rw [State.receiver] at hhome
  change execVersionReclaim asid e.index s = _
  simp only [execVersionReclaim, he, hstate, hreach, hhome, hbad]
  rfl

/-! ### Scratchpad accesses (R237, R241) -/

section Scratch
variable {s : State} {f : Flight} {a : ScrAcc} {t : Thread} {rest : List Nat} (hf : s.flight? f.id = some f) (hkind : f.kind = .scr a)
  (hstage : f.stage = .start) (htids : f.tids = t.id :: rest) (ht : s.thread? t.id = some t)
include hf hkind hstage htids ht

theorem memoryLoadLand_scratch (hop : a.op = .load) : exec (.memoryLoadLand f.id) s = .next (s.loadScratch f a t) := by
  change execMemoryLoadLand f.id s = _
  simp only [execMemoryLoadLand, hf, hkind, hstage, hop, htids, List.head?_cons, Option.bind_some, ht]
  rfl

theorem memoryWritePerformed_scratch (hop : a.op = .store) (hturn : s.turnWaits f = false) :
    exec (.memoryWritePerformed f.id) s = .next (s.performScratch f a t) := by
  change execMemoryWritePerformed f.id s = _
  simp only [execMemoryWritePerformed, hf, hkind, hstage, hop, htids, hturn, List.head?_cons, Option.bind_some, ht]
  rfl

end Scratch

theorem State.landLoad_plain (s : State) {f : Flight} {t : Nat} {rest : List Nat} (htids : f.tids = t :: rest) (dst : Dst) (bs : List Byte)
    (x : VerSel) : s.landLoad f dst bs x none = s.land t dst bs := by
  simp only [State.landLoad, htids]

theorem State.loadScratch_whole (s : State) {f : Flight} {a : ScrAcc} {t : Thread} {rest : List Nat} (htids : f.tids = t.id :: rest)
    (hwhole : a.half = none) (hsize : a.size ≠ 16) :
    s.loadScratch f a t = ((s.land t.id a.dst (loadResult .load a.size a.dfmt
      ((s.scr a.level (s.scrOwner t a.level)).bytes.readN a.off a.size))).servePasses f a t).completeFlight f := by
  simp [State.loadScratch, hwhole, hsize, State.landLoad_plain s htids]

theorem State.performScratch_store (s : State) (f : Flight) {a : ScrAcc} (t : Thread) (hop : a.op = .store) (hsize : a.size ≠ 16) :
    s.performScratch f a t
      = ((s.modScr a.level (s.scrOwner t a.level) (·.store a.off a.data)).servePasses f a t).completeFlight f := by
  simp [State.performScratch, hop, hsize]

/-! ### Late faults and answers of the host (R266, R296) -/

theorem lateFault_next {s : State} {f : Flight} {t : Thread} {c v : Nat} {rest : List Nat} (hf : s.flight? f.id = some f)
    (hstage : f.stage = .faulted c v) (htids : f.tids = t.id :: rest) (ht : s.thread? t.id = some t) (hagain : f.again = none)
    (hexit : t.status ≠ .exiting) (hreturn : t.status ≠ .returning) :
    exec (.lateFault f.id) s = .next ((s.dropFlight f.id).modThread t.id (fun t => { t with faults := t.faults ++ [f] })) := by
  change execLateFault f.id s = _
  simp [execLateFault, hf, hstage, htids, hagain, ht, hexit, hreturn]

/-- With no request of a peer waiting, none is taken again. -/
theorem State.retakePeers_none {s : State} (h : s.links.waiting = []) : s.retakePeers = s := by
  have hlinks : { s.links with waiting := [] } = s.links := by rw [← h]
  simp only [State.retakePeers, h, List.filter_nil, List.foldl_nil, State.modLinks, hlinks]

/-- A word in flight after the host has answered for a line: a write that waited for it goes on (R266). -/
def State.afterSnoop (s : State) (line : Nat) (f : Flight) : Flight :=
  match f.kind with
  | .mem a => match s.page? a.asid a.va with
    | some p => if f.stage == .waiting && lineOf (p.phys a.va) == line then { f with stage := .granted } else f
    | none => f
  | _ => f

theorem State.afterSnoop_waiting {s : State} {line : Nat} {f : Flight} {a : MemAcc} {p : Page} (hkind : f.kind = .mem a)
    (hstage : f.stage = .waiting) (hp : s.page? a.asid a.va = some p) (hline : lineOf (p.phys a.va) = line) :
    s.afterSnoop line f = { f with stage := .granted } := by
  simp [State.afterSnoop, hkind, hstage, hp, hline]

/-- The state after the host's answer for a line, before peers' requests are taken again. -/
def State.snoopAnswered (s : State) (line : Nat) : State :=
  { s with flights := s.flights.map (s.afterSnoop line) }.modMem (fun m => { m with
    backInval := m.backInval.filter (fun x => x != line), snooped := insertNat line m.snooped })

theorem backInvalidateAnswer_next {s : State} {line : Nat} (h : line ∈ s.mem.backInval) :
    exec (.backInvalidateAnswer line) s = .next (s.snoopAnswered line).retakePeers := by
  have hwaits : s.mem.backInval.contains line = true := List.contains_iff_mem.mpr h
  change execBackInvalidateAnswer line s = _
  simp only [execBackInvalidateAnswer, hwaits]
  rfl

end Sys2Proof.Machine

namespace Sys2Proof.Claims
open Sys2Proof.Machine

/-- Settles O53: each event answers by its own lemma; what an access made whole and alone in its line comes to is said once for each event. -/
theorem memoryEvents : Obligations.MemoryEvents := by
  unfold Obligations.MemoryEvents
  refine ⟨?landing, ?paths, ?scratch, ?late, ?copy, ?snoop, ?publish, ?reclaim⟩
  case landing =>
    intro s f a hf hkind bs pred hstage
    exact memoryLoadLand_data hf hkind hstage
  case paths =>
    intro s f a hf hkind hwhole land alone faulted
    refine ⟨?cached, ?fillLoad, ?fillStore, ?read, ?ownership, ?version, ?write⟩
    case cached =>
      intro l p hstage hop hsize hvol hver hturn hpage hread hl hclean
      refine ⟨_, memoryLoadLand_hit hf hkind hstage hturn (State.hit_l1 hwhole hop hvol hver hpage hread hl), fun halone => ?_⟩
      rw [State.landHit_l1 hkind hop hf halone hsize hclean, State.finishLoad_whole s f hwhole]
    case fillLoad =>
      intro g hstage hop hturn
      refine ⟨_, fillArrival_next hf hkind hstage hturn, fun hmates hsize hclean => ?_⟩
      rw [State.serveFills_alone hkind hmates, State.serveFill_load _ f hop hsize hclean]
    case fillStore =>
      intro g hstage hop hturn
      refine ⟨_, fillArrival_next hf hkind hstage hturn, fun hmates => ?_⟩
      rw [State.serveFills_alone hkind hmates]
      exact ⟨fun l hl hown => State.serveFill_store_owned _ f hop hl hown, fun hnone => State.serveFill_store_lost _ f hop hnone⟩
    case read =>
      intro hready hop
      exact ⟨_, homeReadRequest_next hf hkind hready, fun c halone hfault => State.askRead_fault hwhole hop halone hkind hfault,
        fun p halone hpage => State.askRead_ok hwhole hop halone hpage⟩
    case ownership =>
      intro hready hop hvol
      exact ⟨_, homeOwnershipRequest_next hf hkind hready, fun c halone hfault => State.askWrite_fault hkind hwhole hop halone hfault,
        fun p halone hpage hmt => State.askWrite_device hkind hwhole hop halone hvol hpage hmt⟩
    case version =>
      intro p hready hop hpage
      have hfault := fun c => State.accFault_whole hwhole s f c (by simp [hop])
      have hhome : s.accessPage a = .ok p := by rw [State.accessPage_whole hwhole, MemAcc.want_store hop, hpage]
      exact ⟨_, homeWriteArrival_next hf hkind hready hhome, fun hold => (State.checkStep_older hold).trans (hfault 0x29),
        fun r hstep hregion hpub => (State.checkStep_published hstep hregion hpub).trans (hfault 0x2A), State.checkStep_newer⟩
    case write =>
      intro l hstage hop hturn hline
      refine ⟨_, memoryWritePerformed_owned hf hkind hstage hop hturn hline, fun hsize hmates => ?_⟩
      rw [hmates, State.writeOwned_whole s f l hsize]
      rfl
  case scratch =>
    intro s f a t rest hf hkind hstage htids ht owner
    exact ⟨fun hop => ⟨_, memoryLoadLand_scratch hf hkind hstage htids ht hop, fun hwhole hsize => s.loadScratch_whole htids hwhole hsize⟩,
      fun hop hturn => ⟨_, memoryWritePerformed_scratch hf hkind hstage htids ht hop hturn, fun hsize => s.performScratch_store f t hop hsize⟩⟩
  case late =>
    intro s f t c v rest hf hstage htids ht hagain hexit hreturn
    exact lateFault_next hf hstage htids ht hagain hexit hreturn
  case copy =>
    intro s asid page c p hc hp hhome
    exact ⟨snapshotCopyComplete_next hc hp hhome, State.not_mem_finishCow p hc⟩
  case snoop =>
    intro s line hline
    refine ⟨_, backInvalidateAnswer_next hline, fun hpeers => ?_⟩
    rw [State.retakePeers_none (s := s.snoopAnswered line) hpeers]
    refine ⟨fun hin => ?_, mem_insertNat.mpr (.inl rfl), fun f a p hf hkind hstage hp hphys => ?_⟩
    · simpa using (List.mem_filter.mp hin).2
    · exact List.mem_map.mpr ⟨f, hf, State.afterSnoop_waiting hkind hstage hp hphys⟩
  case publish =>
    intro s f t v i dst rest hf hkind htids ht hearlier hfaulted asid r ends hbusy
    rw [vpubJobRun_next hf hkind htids ht hearlier hfaulted hbusy, State.publish]
    cases r.valid
    · simp [r, asid, ends]
    · by_cases hpub : v ≤ r.pub <;> simp [r, asid, ends, hpub]
  case reclaim =>
    intro s asid e he hstate hreach hhome hbad
    exact ⟨e.freed, versionReclaim_next he hstate hreach hhome hbad, e.freed_fields⟩

end Sys2Proof.Claims

/-! SUPPORT. The CADENCE register of the management window at a whole microsecond (spec/16 R430, R431; spec/20 R469): the write is the event
CADENCE_WRITE, and that comes after the step of the energy account which is due. -/
namespace Sys2Proof.Machine

/-- While the step of the energy account is due, CADENCE_WRITE cannot happen: the step comes first in its instant (R431). -/
theorem cadenceWrite_waits {s : State} (hdue : s.tickDue = true) (v : BitVec 64) :
    exec (.cadenceWrite v) s = .fault (.notEnabled "CADENCE_WRITE") := by
  change execCadenceWrite v s = _
  rw [execCadenceWrite, hdue, Bool.or_true, if_pos rfl]
  rfl

/-- A part brought up, at the last token before the first whole microsecond: no message is on its way, every echo has come. -/
def State.lastTokenBeforeStep : State := { State.reset with
  host := { State.reset.host with stage := 6 }
  time := { State.reset.time with hub := 996, receivers := List.replicate 8 { copy := 996, echoAt := 996 } } }

/-- The next token brings the part to the whole microsecond (R18, R431). -/
theorem timeTokenSend_lastTokenBeforeStep :
    exec .timeTokenSend State.lastTokenBeforeStep = .next State.lastTokenBeforeStep.tokenSent :=
  timeTokenSend_next (by decide) (by decide)

/-- There the step of the energy account is due. -/
theorem State.tickDue_tokenSent : State.lastTokenBeforeStep.tokenSent.tickDue = true := by decide

end Sys2Proof.Machine

namespace Sys2Proof.Claims
open Sys2Proof.Machine

/-- Refutes O57: its last clause lets CADENCE (0x2000 of the management window) be written in every state from STAGE 6 on. At the whole
microsecond that a token has just reached, the step of the energy account is due, and CADENCE_WRITE comes after it (R431). -/
theorem not_hostEvents : ¬ Obligations.HostEvents := by
  unfold Obligations.HostEvents
  rintro ⟨-, -, hrunning⟩
  obtain ⟨-, -, -, -, -, -, -, -, -, -, -, -, hregisters⟩ := hrunning State.lastTokenBeforeStep.tokenSent (by decide)
  obtain ⟨-, -, -, -, hcadence, -⟩ := hregisters 0
  obtain ⟨s', -, hwritten⟩ := hcadence
  rw [cadenceWrite_waits State.tickDue_tokenSent] at hwritten
  exact nomatch hwritten

end Sys2Proof.Claims

/-! SUPPORT. Fault records (spec/11 R311): the fields of a record's bits, and what writing a record leaves. -/
namespace Sys2Proof.Machine

/-! ### A record's bits as fields one above the other (R311) -/

/-- What stands in the bits from k on does not reach a field below. -/
theorem fld_mul_add {lo n k : Nat} (h : lo + n ≤ k) (x v : Nat) : fld (x * 2 ^ k + v) lo n = fld v lo n := by
  obtain ⟨j, rfl⟩ := Nat.exists_eq_add_of_le h
  have hsplit : x * 2 ^ (lo + n + j) + v = v + 2 ^ lo * (2 ^ n * (2 ^ j * x)) := by ring
  rw [fld_eq, fld_eq, hsplit, Nat.add_mul_div_left _ _ (by positivity), Nat.add_mul_mod_self_left]

/-- A field with only lower bits beside it. -/
theorem fld_mul_add_self {lo n v : Nat} (hv : v < 2 ^ lo) (x : Nat) : fld (x % 2 ^ n * 2 ^ lo + v) lo n = x % 2 ^ n := by
  rw [fld_eq, Nat.mul_comm, Nat.mul_add_div (by positivity), Nat.div_eq_of_lt hv, Nat.add_zero, Nat.mod_mod]

/-- A field of n bits from lo on, with lower bits beside it, ends at lo + n. -/
theorem mul_two_pow_add_lt {x v lo n : Nat} (hx : x < 2 ^ n) (hv : v < 2 ^ lo) : x * 2 ^ lo + v < 2 ^ (n + lo) := by
  calc x * 2 ^ lo + v < x * 2 ^ lo + 2 ^ lo := by omega
    _ = (x + 1) * 2 ^ lo := by ring
    _ ≤ 2 ^ n * 2 ^ lo := Nat.mul_le_mul_right _ hx
    _ = 2 ^ (n + lo) := (Nat.pow_add ..).symm

/-- The bits of a record below its ACTION: address space, grid, team, thread, frame and place. -/
def RecordFields.subject (r : RecordFields) : Nat :=
  (r.asid % 2 ^ 16) * 2 ^ 288 + ((r.grid % 2 ^ 64) * 2 ^ 224
    + ((r.team % 2 ^ 32) * 2 ^ 192 + ((r.thread % 1024) * 2 ^ 182 + ((r.frame % 2 ^ 16) * 2 ^ 166 + ((r.place.die % 4) * 2 ^ 164
    + ((r.place.cluster % 16) * 2 ^ 160 + ((r.place.core % 8) * 2 ^ 157 + ((r.slice % 16) * 2 ^ 153 + (r.noThread.toNat * 2 ^ 152 + 1)))))))))

theorem RecordFields.subject_lt (r : RecordFields) : r.subject < 2 ^ 304 := by
  have hflag : r.noThread.toNat < 2 ^ 1 := r.noThread.toNat_lt
  have hmod : ∀ x n : Nat, x % 2 ^ n < 2 ^ n := fun x n => Nat.mod_lt _ (by positivity)
  refine mul_two_pow_add_lt (n := 16) (hmod _ 16) ?_
  refine mul_two_pow_add_lt (n := 64) (hmod _ 64) ?_
  refine mul_two_pow_add_lt (n := 32) (hmod _ 32) ?_
  refine mul_two_pow_add_lt (n := 10) (hmod _ 10) ?_
  refine mul_two_pow_add_lt (n := 16) (hmod _ 16) ?_
  refine mul_two_pow_add_lt (n := 2) (hmod _ 2) ?_
  refine mul_two_pow_add_lt (n := 4) (hmod _ 4) ?_
  refine mul_two_pow_add_lt (n := 3) (hmod _ 3) ?_
  refine mul_two_pow_add_lt (n := 4) (hmod _ 4) ?_
  exact (mul_two_pow_add_lt hflag (by norm_num : 1 < 2 ^ 152))

/-- A record's bits field above field, down to those of the subject. -/
theorem RecordFields.bits_eq (r : RecordFields) : r.bits = r.time % 2 ^ 64 * 2 ^ 448 + (trapVal r.cause r.val % 2 ^ 64 * 2 ^ 384
    + (r.pkt % 2 ^ 56 * 2 ^ 328 + (r.word % 4 * 2 ^ 326 + (r.pipe % 8 * 2 ^ 323 + (r.late.toNat * 2 ^ 322 + (r.handler.toNat * 2 ^ 321
    + (r.nrp.toNat * 2 ^ 320 + (r.cause % 2 ^ 8 * 2 ^ 312 + (r.action % 2 ^ 8 * 2 ^ 304 + r.subject))))))))) := by
  simp only [RecordFields.bits, RecordFields.subject, Nat.add_assoc]
  rfl

theorem RecordFields.fld_cause (r : RecordFields) : fld r.bits 312 8 = r.cause % 256 := by
  have hbelow : r.action % 2 ^ 8 * 2 ^ 304 + r.subject < 2 ^ (8 + 304) := mul_two_pow_add_lt (Nat.mod_lt _ (by positivity)) r.subject_lt
  rw [r.bits_eq]
  simp (disch := norm_num) only [fld_mul_add]
  exact fld_mul_add_self hbelow _

theorem RecordFields.fld_action (r : RecordFields) : fld r.bits 304 8 = r.action % 256 := by
  rw [r.bits_eq]
  simp (disch := norm_num) only [fld_mul_add]
  exact fld_mul_add_self r.subject_lt _

/-! ### A record written (R311) -/

section
variable {s : State} {die : Nat} (r : RecordFields)

theorem State.writeRecord_of_free {k : Nat} (hfree : s.freeRecord die = some k) : s.writeRecord die r = s.putRecord die k r.bits := by
  simp only [State.writeRecord, hfree]

/-- With a record free, it is written with its cause and its action. -/
theorem State.mem_writeRecord {k : Nat} (hfree : s.freeRecord die = some k) : ∃ x ∈ (s.writeRecord die r).records,
    x.die = die ∧ x.index = k ∧ fld x.bits 304 8 = r.action % 256 ∧ fld x.bits 312 8 = r.cause % 256 := by
  rw [State.writeRecord_of_free r hfree]
  refine ⟨_, List.mem_append_right _ (List.mem_singleton.mpr rfl), rfl, rfl, ?_, ?_⟩
  · rw [fld_setFld_beside _ _ (by norm_num), r.fld_action]
  · rw [fld_setFld_beside _ _ (by norm_num), r.fld_cause]

end

/-- Only the records, and the count of those lost, differ. -/
theorem State.writeRecord_eq (s : State) (die : Nat) (r : RecordFields) :
    s.writeRecord die r = { s with records := (s.writeRecord die r).records, recordsLost := (s.writeRecord die r).recordsLost } := by
  unfold State.writeRecord State.putRecord
  split <;> rfl

@[simp] theorem State.writeRecord_threads (s : State) (die : Nat) (r : RecordFields) : (s.writeRecord die r).threads = s.threads := by
  rw [State.writeRecord_eq]
@[simp] theorem State.writeRecord_crews (s : State) (die : Nat) (r : RecordFields) : (s.writeRecord die r).crews = s.crews := by
  rw [State.writeRecord_eq]
@[simp] theorem State.writeRecord_teams (s : State) (die : Nat) (r : RecordFields) : (s.writeRecord die r).teams = s.teams := by
  rw [State.writeRecord_eq]
@[simp] theorem State.writeRecord_grids (s : State) (die : Nat) (r : RecordFields) : (s.writeRecord die r).grids = s.grids := by
  rw [State.writeRecord_eq]
@[simp] theorem State.writeRecord_flights (s : State) (die : Nat) (r : RecordFields) : (s.writeRecord die r).flights = s.flights := by
  rw [State.writeRecord_eq]
@[simp] theorem State.writeRecord_ctl (s : State) (die : Nat) (r : RecordFields) : (s.writeRecord die r).ctl = s.ctl := by
  rw [State.writeRecord_eq]
@[simp] theorem State.writeRecord_host (s : State) (die : Nat) (r : RecordFields) : (s.writeRecord die r).host = s.host := by
  rw [State.writeRecord_eq]
@[simp] theorem State.thread?_writeRecord (s : State) (die u : Nat) (r : RecordFields) : (s.writeRecord die r).thread? u = s.thread? u := by
  rw [State.writeRecord_eq]; rfl
@[simp] theorem State.team?_writeRecord (s : State) (die u : Nat) (r : RecordFields) : (s.writeRecord die r).team? u = s.team? u := by
  rw [State.writeRecord_eq]; rfl
@[simp] theorem State.grid?_writeRecord (s : State) (die u : Nat) (r : RecordFields) : (s.writeRecord die r).grid? u = s.grid? u := by
  rw [State.writeRecord_eq]; rfl
@[simp] theorem State.crewOf_writeRecord (s : State) (die u : Nat) (r : RecordFields) : (s.writeRecord die r).crewOf u = s.crewOf u := by
  rw [State.writeRecord_eq]; rfl
@[simp] theorem State.localTime_writeRecord (s : State) (die u : Nat) (r : RecordFields) : (s.writeRecord die r).localTime u = s.localTime u := by
  rw [State.writeRecord_eq]; rfl

end Sys2Proof.Machine

/-! SUPPORT. Team faults and grids that end with an error (spec/11 R302; spec/16 R428): what halting a team stops, and what halting further
teams and ending further grids leaves of that. -/
namespace Sys2Proof.Machine

/-! ### A record found, after a change -/

section
variable {s : State} {k u : Nat}

theorem State.thread?_modThread_of {t : Thread} (ht : s.thread? u = some t) {f : Thread → Thread} (hf : ∀ x, (f x).id = x.id) :
    (s.modThread k f).thread? u = some (if u = k then f t else t) := by
  rw [State.thread?_modThread _ _ _ _ hf]
  split
  next h => rw [← h, ht, Option.map_some]
  next => exact ht

theorem State.team?_modTeam_of {m : Team} (hm : s.team? u = some m) {f : Team → Team} (hf : ∀ x, (f x).id = x.id) :
    (s.modTeam k f).team? u = some (if u = k then f m else m) := by
  rw [State.team?_modTeam _ _ _ _ hf]
  split
  next h => rw [← h, hm, Option.map_some]
  next => exact hm

theorem State.grid?_modGrid_of {g : Grid} (hg : s.grid? u = some g) {f : Grid → Grid} (hf : ∀ x, (f x).event = x.event) :
    (s.modGrid k f).grid? u = some (if u = k then f g else g) := by
  rw [State.grid?_modGrid _ _ _ _ hf]
  split
  next h => rw [← h, hg, Option.map_some]
  next => exact hg

end

/-! ### A team that has halted, a team that runs, a grid that has ended with an error -/

/-- No thread of a team issues again: each is halted, none is in a crew or a bin (R302). -/
structure State.TeamHalted (s : State) (tm : Nat) : Prop where
  threads : ∀ t ∈ s.threads, t.team = tm → t.status = .halted
  crews : ∀ c ∈ s.crews, c.team ≠ tm
  bins : ∀ b ∈ s.bins, b.team ≠ tm

/-- A team of a grid has neither halted nor retired. -/
def State.TeamRuns (s : State) (e tm : Nat) : Prop := ∃ m, s.team? tm = some m ∧ m.grid = e ∧ m.status ≠ .halted ∧ m.status ≠ .retired

/-- A grid has ended with an error. -/
def State.GridEnded (s : State) (e cause : Nat) : Prop := ∃ g, s.grid? e = some g ∧ g.error = some cause

/-- What halting teams and ending grids keeps: the records, memory, and every team and grid that has stopped already. -/
structure Halts (s s' : State) : Prop where
  records : s'.records = s.records
  mem : s'.mem = s.mem
  halted : ∀ tm, s.TeamHalted tm → s'.TeamHalted tm
  ended : ∀ e cause, s.GridEnded e cause → s'.GridEnded e cause

theorem Halts.refl (s : State) : Halts s s := ⟨rfl, rfl, fun _ h => h, fun _ _ h => h⟩

theorem Halts.trans {a b c : State} (h : Halts a b) (k : Halts b c) : Halts a c :=
  ⟨k.records.trans h.records, k.mem.trans h.mem, fun tm x => k.halted tm (h.halted tm x), fun e cause x => k.ended e cause (h.ended e cause x)⟩

/-- A grid's change that leaves its number and an error that it has. -/
theorem State.modGrid_halts (s : State) (e : Nat) {f : Grid → Grid} (hid : ∀ g, (f g).event = g.event)
    (herror : ∀ g cause, g.error = some cause → (f g).error = some cause) : Halts s (s.modGrid e f) := by
  refine ⟨rfl, rfl, fun _ ⟨ht, hc, hb⟩ => ⟨ht, hc, hb⟩, fun k cause ⟨g, hg, hended⟩ => ?_⟩
  refine ⟨_, State.grid?_modGrid_of hg hid, ?_⟩
  split
  · exact herror g cause hended
  · exact hended

theorem State.modTeam_halts (s : State) (tm : Nat) (f : Team → Team) : Halts s (s.modTeam tm f) :=
  ⟨rfl, rfl, fun _ ⟨ht, hc, hb⟩ => ⟨ht, hc, hb⟩, fun _ _ h => h⟩

/-! ### Halting a team (R302, R431) -/

theorem State.settleNow_halts (s : State) (m : Team) : Halts s (s.settleNow m) :=
  have haccount (a : Int) : Halts s { s with energy := { s.energy with account := a } } :=
    ⟨rfl, rfl, fun _ ⟨ht, hc, hb⟩ => ⟨ht, hc, hb⟩, fun _ _ h => h⟩
  ((haccount _).trans (State.modTeam_halts _ _ _)).trans (State.modGrid_halts _ _ (fun _ => rfl) fun _ _ h => h)

theorem State.settleEnergy_halts (s : State) (m : Team) : Halts s (s.settleEnergy m) := by
  unfold State.settleEnergy
  split
  · exact s.modTeam_halts _ _
  · exact s.settleNow_halts m

/-- Settling a team's energy changes neither the number nor the grid nor the status of a team. -/
theorem State.settleEnergy_team? (s : State) (m : Team) {tm : Nat} {n : Team} (hn : s.team? tm = some n) :
    ∃ b, (s.settleEnergy m).team? tm = some { n with settling := b } := by
  have hmod (b : Bool) : ∃ c, (s.modTeam m.id (fun m => { m with settling := b })).team? tm = some { n with settling := c } := by
    refine ⟨if tm = m.id then b else n.settling, ?_⟩
    rw [State.team?_modTeam_of hn]
    · split <;> rfl
    · exact fun _ => rfl
  unfold State.settleEnergy
  split
  · exact hmod true
  · exact hmod false

/-- Settling a team's energy changes neither the status nor the error of a grid. -/
theorem State.settleEnergy_grid? (s : State) (m : Team) {e : Nat} {g : Grid} (hg : s.grid? e = some g) :
    ∃ n, (s.settleEnergy m).grid? e = some { g with energy := n } := by
  unfold State.settleEnergy
  split
  · exact ⟨g.energy, hg⟩
  · have hmod : (s.settleNow m).grid? e = some (if e = m.grid then { g with energy := g.energy + m.energy } else g) :=
      State.grid?_modGrid_of (f := fun g => { g with energy := g.energy + m.energy }) hg fun _ => rfl
    rw [hmod]
    split
    · exact ⟨_, rfl⟩
    · exact ⟨g.energy, rfl⟩

/-- A team with its threads, crews and bins stopped. -/
def State.stopTeam (s : State) (tm : Nat) : State :=
  let s := s.modTeam tm (fun m => { m with status := .halted })
  { s with
    threads := s.threads.map (fun t => if t.team == tm then { t with status := .halted } else t)
    crews := s.crews.filter (fun c => c.team != tm)
    bins := s.bins.filter (fun b => b.team != tm) }

theorem State.haltTeam_eq {s : State} {m : Team} {tm : Nat} (hm : s.team? tm = some m) (hhalted : m.status ≠ .halted)
    (hretired : m.status ≠ .retired) : s.haltTeam tm = (s.settleEnergy m).stopTeam tm := by
  simp only [State.haltTeam, hm]
  rw [if_neg (by simp [hhalted, hretired])]
  rfl

/-- A team that has halted, or that is not there, is left as it is. -/
theorem State.haltTeam_id {s : State} {tm : Nat} (h : ∀ m, s.team? tm = some m → m.status = .halted ∨ m.status = .retired) :
    s.haltTeam tm = s := by
  unfold State.haltTeam
  split
  · rfl
  next m hm => rw [if_pos (by simpa using h m hm)]

theorem State.stopTeam_teamHalted (s : State) (tm : Nat) : (s.stopTeam tm).TeamHalted tm where
  threads := by
    intro t ht hteam
    obtain ⟨u, -, rfl⟩ := List.mem_map.mp ht
    by_cases hu : u.team = tm
    · simp [hu]
    · simp [hu] at hteam
  crews := fun c hc => by simpa using (List.mem_filter.mp hc).2
  bins := fun b hb => by simpa using (List.mem_filter.mp hb).2

theorem State.stopTeam_halts (s : State) (tm : Nat) : Halts s (s.stopTeam tm) := by
  refine ⟨rfl, rfl, fun k ⟨hthreads, hcrews, hbins⟩ => ⟨?_, ?_, ?_⟩, fun _ _ h => h⟩
  · intro t ht hteam
    obtain ⟨u, hu, rfl⟩ := List.mem_map.mp ht
    split
    · rfl
    next hne => exact hthreads u hu (by simpa [hne] using hteam)
  · exact fun c hc => hcrews c (List.mem_filter.mp hc).1
  · exact fun b hb => hbins b (List.mem_filter.mp hb).1

theorem State.haltTeam_halts (s : State) (tm : Nat) : Halts s (s.haltTeam tm) := by
  by_cases h : ∃ m, s.team? tm = some m ∧ m.status ≠ .halted ∧ m.status ≠ .retired
  · obtain ⟨m, hm, hhalted, hretired⟩ := h
    rw [State.haltTeam_eq hm hhalted hretired]
    exact (s.settleEnergy_halts m).trans (State.stopTeam_halts _ tm)
  · have hstopped : ∀ m, s.team? tm = some m → m.status = .halted ∨ m.status = .retired := fun m hm => by
      by_contra hnot
      exact h ⟨m, hm, not_or.mp hnot⟩
    rw [State.haltTeam_id hstopped]
    exact .refl s

/-- A running team is halted. -/
theorem State.haltTeam_teamHalted {s : State} {e tm : Nat} (h : s.TeamRuns e tm) : (s.haltTeam tm).TeamHalted tm := by
  obtain ⟨m, hm, -, hhalted, hretired⟩ := h
  rw [State.haltTeam_eq hm hhalted hretired]
  exact State.stopTeam_teamHalted _ tm

/-- Halting another team leaves a running one running. -/
theorem State.TeamRuns.haltTeam {s : State} {e k tm : Nat} (hne : k ≠ tm) (h : s.TeamRuns e k) : (s.haltTeam tm).TeamRuns e k := by
  obtain ⟨n, hn, hgrid, hnot⟩ := h
  unfold State.haltTeam
  split
  · exact ⟨n, hn, hgrid, hnot⟩
  next m _ =>
    split
    · exact ⟨n, hn, hgrid, hnot⟩
    · obtain ⟨b, hb⟩ := s.settleEnergy_team? m hn
      have hstop : ((s.settleEnergy m).stopTeam tm).team? k = (s.settleEnergy m).team? k :=
        (State.team?_modTeam (s.settleEnergy m) tm k (fun m => { m with status := .halted }) fun _ => rfl).trans (if_neg hne)
      exact ⟨_, hstop.trans hb, hgrid, hnot⟩

/-- A grid stands as it was, but for its energy, once a team has halted. -/
theorem State.haltTeam_grid? (s : State) (tm : Nat) {e : Nat} {g : Grid} (hg : s.grid? e = some g) :
    ∃ n, (s.haltTeam tm).grid? e = some { g with energy := n } := by
  unfold State.haltTeam
  split
  · exact ⟨g.energy, hg⟩
  · split
    · exact ⟨g.energy, hg⟩
    · exact s.settleEnergy_grid? _ hg

/-! ### Ending a grid (R428) -/

theorem State.haltTeams_halts (ms : List Team) (s : State) : Halts s (ms.foldl (fun s m => s.haltTeam m.id) s) :=
  List.foldlRecOn _ _ (.refl s) fun x hx m _ => hx.trans (x.haltTeam_halts m.id)

/-- Of several teams halted one after the other each that runs ends halted. -/
theorem State.haltTeams_teamHalted {e k : Nat} (ms : List Team) : ∀ {s : State}, k ∈ ms.map (·.id) → s.TeamRuns e k →
    (ms.foldl (fun s m => s.haltTeam m.id) s).TeamHalted k := by
  induction ms with
  | nil => exact fun hk => absurd hk List.not_mem_nil
  | cons m ms ih =>
    intro s hk hruns
    by_cases heq : k = m.id
    · subst heq
      exact (State.haltTeams_halts ms _).halted _ (State.haltTeam_teamHalted hruns)
    · exact ih ((List.mem_cons.mp hk).resolve_left heq) (hruns.haltTeam heq)

/-- A grid noted as ended with an error: no further team of it starts. -/
def Grid.fail (g : Grid) (cause : Nat) : Grid :=
  { g with error := some (g.error.getD cause), nextTeam := fld g.record 64 32, unchecked := false }

theorem Grid.fail_error {g : Grid} {c cause : Nat} (h : g.error = some c) : (g.fail cause).error = some c := by
  simp [Grid.fail, h]

/-- A grid that stands and is not complete ends: it is noted, its teams halt, then its child grids end. -/
theorem State.endGrid_eq {s : State} {cause n e : Nat} {g : Grid} (hg : s.grid? e = some g) (hcomplete : g.status ≠ .complete) :
    let noted := s.modGrid e (·.fail cause)
    let halted := (s.teams.filter (fun m => m.grid == e)).foldl (fun s m => s.haltTeam m.id) noted
    s.endGrid cause (n + 1) e = (halted.childGrids e).foldl (fun s c => s.endGrid cause n c) halted := by
  intro noted halted
  rw [State.endGrid, hg]
  simp only [beq_iff_eq, if_neg hcomplete]
  rfl

theorem State.endGrid_halts (cause n : Nat) : ∀ (s : State) (e : Nat), Halts s (s.endGrid cause n e) := by
  induction n with
  | zero => exact fun s _ => .refl s
  | succ n ih =>
    intro s e
    by_cases h : ∃ g, s.grid? e = some g ∧ g.status ≠ .complete
    · obtain ⟨g, hg, hcomplete⟩ := h
      rw [State.endGrid_eq hg hcomplete]
      have hnoted : Halts s (s.modGrid e (·.fail cause)) := s.modGrid_halts e (fun _ => rfl) fun g c hc => Grid.fail_error hc
      exact List.foldlRecOn _ _ (hnoted.trans (State.haltTeams_halts _ _)) fun x hx c _ => hx.trans (ih x c)
    · have hid : s.endGrid cause (n + 1) e = s := by
        unfold State.endGrid
        split
        · rfl
        next g hg => exact if_pos (by simpa using fun hc => h ⟨g, hg, hc⟩)
      rw [hid]
      exact .refl s

/-- A grid that ends has its first error, and each of its running teams is halted. -/
theorem State.endGrid_spec {s : State} {cause n e : Nat} {g : Grid} (hg : s.grid? e = some g) (hcomplete : g.status ≠ .complete) :
    (s.endGrid cause (n + 1) e).GridEnded e (g.error.getD cause) ∧ ∀ k, s.TeamRuns e k → (s.endGrid cause (n + 1) e).TeamHalted k := by
  have hchildren : ∀ (l : List Nat) (x : State), Halts x (l.foldl (fun s c => s.endGrid cause n c) x) :=
    fun l x => List.foldlRecOn _ _ (.refl x) fun y hy c _ => hy.trans (State.endGrid_halts cause n y c)
  have hnoted : (s.modGrid e (·.fail cause)).GridEnded e (g.error.getD cause) := by
    refine ⟨g.fail cause, ?_, rfl⟩
    rw [State.grid?_modGrid_of hg, if_pos rfl]
    exact fun _ => rfl
  rw [State.endGrid_eq hg hcomplete]
  refine ⟨((State.haltTeams_halts _ _).trans (hchildren _ _)).ended _ _ hnoted, fun k hruns => (hchildren _ _).halted k ?_⟩
  have hlisted : k ∈ (s.teams.filter (fun m => m.grid == e)).map (·.id) := by
    obtain ⟨m, hm, hgrid, -⟩ := hruns
    have hid : m.id = k := by simpa using List.find?_some hm
    exact hid ▸ List.mem_map_of_mem (List.mem_filter.mpr ⟨List.mem_of_find?_eq_some hm, beq_iff_eq.mpr hgrid⟩)
  exact State.haltTeams_teamHalted (e := e) _ hlisted hruns

/-! ### A team fault (R302) -/

section
variable {s : State} {t : Thread} {m : Team} {g : Grid} (hm : s.team? t.team = some m) (hg : s.grid? m.grid = some g)
  (hhalted : m.status ≠ .halted) (hretired : m.status ≠ .retired) (cause val pkt word pipe : Nat) (late : Bool)

/-- The record of a team fault (R302, R311). -/
def State.faultRecord (s : State) (t : Thread) (cause val pkt word pipe : Nat) (late : Bool) : RecordFields :=
  { s.recordOf t with cause, val, pkt, word, pipe, late, action := 1 }

/-- The state in which the record has been written and the team has halted, before the grid's policy acts. -/
def State.afterFault (s : State) (m : Team) (r : RecordFields) : State :=
  ((s.writeRecord m.place.die r).haltTeam m.id).modGrid m.grid (fun g => { g with haltedTeams := g.haltedTeams + 1 })

include hm hg in
theorem State.teamFault_eq : s.teamFault t cause val pkt word pipe late =
    let after := s.afterFault m (s.faultRecord t cause val pkt word pipe late)
    if fld g.record 318 2 = 1 then after else after.endGrid cause 12 m.grid := by
  unfold State.teamFault
  simp only [hm, State.grid?_writeRecord, hg, beq_iff_eq]
  rfl

theorem State.afterFault_halts (r : RecordFields) : Halts (s.writeRecord m.place.die r) (s.afterFault m r) :=
  (State.haltTeam_halts _ m.id).trans (State.modGrid_halts _ _ (fun _ => rfl) fun _ _ h => h)

include hm hhalted hretired in
theorem State.afterFault_teamHalted (r : RecordFields) : (s.afterFault m r).TeamHalted m.id := by
  have hid : m.id = t.team := by simpa using List.find?_some hm
  have hruns : (s.writeRecord m.place.die r).TeamRuns m.grid m.id := ⟨m, by rw [State.team?_writeRecord, hid, hm], rfl, hhalted, hretired⟩
  exact (State.modGrid_halts _ m.grid (f := fun g => { g with haltedTeams := g.haltedTeams + 1 }) (fun _ => rfl) fun _ _ h => h).halted _
    (State.haltTeam_teamHalted hruns)

include hm hg hhalted hretired in
/-- What a team fault comes to, whatever the policy: its record is written, its team is halted. -/
theorem State.teamFault_halts : let r := s.faultRecord t cause val pkt word pipe late
    Halts (s.afterFault m r) (s.teamFault t cause val pkt word pipe late) ∧ (s.teamFault t cause val pkt word pipe late).TeamHalted m.id := by
  intro r
  have hends : Halts (s.afterFault m r) (s.teamFault t cause val pkt word pipe late) := by
    rw [State.teamFault_eq hm hg]
    dsimp only
    split
    · exact .refl _
    · exact State.endGrid_halts _ _ _ _
  exact ⟨hends, hends.halted _ (State.afterFault_teamHalted hm hhalted hretired r)⟩

include hg in
/-- Writing the record and halting the team leave a grid's error and status. -/
theorem State.afterFault_grid? (r : RecordFields) :
    ∃ h, (s.afterFault m r).grid? m.grid = some h ∧ h.error = g.error ∧ h.status = g.status := by
  obtain ⟨n, hn⟩ := (s.writeRecord m.place.die r).haltTeam_grid? m.id (by rw [State.grid?_writeRecord, hg])
  refine ⟨_, State.grid?_modGrid_of hn fun _ => rfl, ?_⟩
  rw [if_pos rfl]
  exact ⟨rfl, rfl⟩

include hm hg hhalted hretired in
/-- Unless the grid's policy is 1, it ends with the cause or the error it has, and each of its running teams is halted (R428). -/
theorem State.teamFault_endsGrid (hpolicy : fld g.record 318 2 ≠ 1) (hcomplete : g.status ≠ .complete) :
    let after := s.teamFault t cause val pkt word pipe late
    after.GridEnded m.grid (g.error.getD cause) ∧ ∀ k, s.TeamRuns m.grid k → after.TeamHalted k := by
  intro after
  obtain ⟨h, hh, herror, hstatus⟩ := State.afterFault_grid? hg (s.faultRecord t cause val pkt word pipe late)
  have hends : after = (s.afterFault m (s.faultRecord t cause val pkt word pipe late)).endGrid cause 12 m.grid := by
    simp only [after, State.teamFault_eq hm hg, if_neg hpolicy]
  obtain ⟨hended, hteams⟩ := State.endGrid_spec (cause := cause) (n := 11) hh (hstatus ▸ hcomplete)
  rw [← hends] at hended hteams
  refine ⟨herror ▸ hended, fun k hruns => ?_⟩
  by_cases hk : k = m.id
  · exact hk ▸ (State.teamFault_halts hm hg hhalted hretired cause val pkt word pipe late).2
  · refine hteams k (State.TeamRuns.haltTeam hk (s := s.writeRecord m.place.die _) ?_)
    rwa [State.TeamRuns, State.team?_writeRecord]

end

/-- Without a handler, or in trap context, a cause is a team fault (R302). -/
theorem State.takeTrap_teamFault {s : State} {x : Raised} {t : Thread} {m : Team} (fw ret : Nat × Nat) (ht : s.thread? x.tid = some t)
    (hm : s.team? t.team = some m) (hrun : t.status ≠ .halted) (h : fld m.regs.tvec.toNat 0 56 = 0 ∨ t.trap.isSome = true) :
    s.takeTrap x fw ret = s.teamFault t x.cause x.val fw.1 fw.2 x.pipe x.late := by
  have hfault : (t.trap.isSome || fld m.regs.tvec.toNat 0 56 == 0) = true := by
    simpa using h.symm
  simp only [State.takeTrap, ht, hm, beq_iff_eq, if_neg hrun, hfault, if_true]

end Sys2Proof.Machine

namespace Sys2Proof.Claims
open Sys2Proof.Machine

/-- Settles O31: the cause is a team fault, whose record is written before its team halts, and what the policy then ends keeps both. -/
theorem teamFaults : Obligations.TeamFaults := by
  unfold Obligations.TeamFaults
  intro s x fw ret t m g ht hm hg hrun hhalted hretired hcause after
  have hafter : after = s.teamFault t x.cause x.val fw.1 fw.2 x.pipe x.late := State.takeTrap_teamFault fw ret ht hm hrun hcause
  obtain ⟨hkept, hstopped⟩ := State.teamFault_halts hm hg hhalted hretired x.cause x.val fw.1 fw.2 x.pipe x.late
  have hevent : g.event = m.grid := by simpa using List.find?_some hg
  rw [hafter, hevent]
  refine ⟨hstopped.threads, hstopped.crews, hstopped.bins, fun k hfree => ?_, fun hpolicy hcomplete => ?_⟩
  · rw [hkept.records, (State.afterFault_halts _).records]
    obtain ⟨r, hr, hdie, hindex, haction, hrcause⟩ := State.mem_writeRecord (s.faultRecord t x.cause x.val fw.1 fw.2 x.pipe x.late) hfree
    exact ⟨r, hr, hdie, hindex, haction, hrcause⟩
  · obtain ⟨hended, hteams⟩ := State.teamFault_endsGrid hm hg hhalted hretired x.cause x.val fw.1 fw.2 x.pipe x.late hpolicy hcomplete
    exact ⟨hended, fun k _ hgrid hk hkrun hkret => (hteams k.id ⟨k, hk, hgrid, hkrun, hkret⟩).threads⟩

end Sys2Proof.Claims

/-! SUPPORT. The trap words (spec/11 R303-R305): `trap` and `brk` raise their causes, `rtt` settles a late fault and returns. -/
namespace Sys2Proof.Machine

/-! ### `trap` and `brk` (R303, R305) -/

/-- The next tied group: the words of a packet end with word 2 (R37). -/
theorem IssueCtx.next_eq {i : IssueCtx} (h : i.last ≤ 2) : i.next = if i.last = 2 then (i.pkt + 1, 0) else (i.pkt, i.last + 1) := by
  have hlast : i.last ≥ 2 ↔ i.last = 2 := by omega
  simp only [IssueCtx.next, hlast]

section
variable {s : State} {i : IssueCtx} (hi : s.ctl.issue = some i)
include hi

theorem trapWord_next (cause : Nat) (code : BitVec 14) (hlast : i.last ≤ 2) :
    trapWord cause code s = .next (s.each i.parts (fun s t =>
      s.takeTrap { tid := t.id, cause, val := code.toNat, word := i.word, pipe := Pipe.ctl.code } (i.pkt, i.word)
        (if i.last = 2 then (i.pkt + 1, 0) else (i.pkt, i.last + 1)))) := by
  rw [trapWord, issueWord_runs _ _ hi fun _ _ => rfl, IssueCtx.next_eq hlast]
  rfl

/-! ### `rtt` (R41, R304) -/

theorem exec_rtt_next (htrap : Each i (fun t => t.trap.isSome = true ∧ NoneOutstanding s t.id (fun f => f.trapCtx))) :
    exec .rtt s = .next (s.each i.parts (fun s t =>
      if i.words.length ≤ 1 then s.returnTrap t.id else (s.leaveCrew t.id).modThread t.id (fun t => { t with status := .returning }))) := by
  change execRtt s = _
  unfold execRtt
  refine issueWord_runs _ _ hi fun t ht => (Verdict.andThen_pass _ _).mpr ?_
  obtain ⟨hin, hnone⟩ := htrap t ht
  exact ⟨(Verdict.require_pass _ _ _).mpr hin, State.waitFor_pass hnone⟩

end

/-- A thread back from its trap, not filed yet (R304). -/
def State.trapLeft (s : State) (tid : Nat) : State := (s.leaveCrew tid).modThread tid Thread.leaveTrap

section
variable {s : State} {tid : Nat} {t : Thread} {x : TrapCtx} (ht : s.thread? tid = some t) (hx : t.trap = some x)
include ht hx

theorem State.returnTrap_of_none (hnone : x.fault = none) : s.returnTrap tid = (s.trapLeft tid).file tid := by
  simp only [State.returnTrap, ht, hx, Option.bind_some, hnone]
  rfl

theorem State.returnTrap_of_fault {f : Flight} (hf : x.fault = some f) : s.returnTrap tid = (
    let back := (s.settleFault tid f (fld x.tret.toNat 0 2) (returnPoint x.tret.toNat)).trapLeft tid
    if fld x.tret.toNat 0 2 = 1 then back.settleChunk tid f true else back).file tid := by
  simp only [State.returnTrap, ht, hx, Option.bind_some, hf]
  rfl

end

theorem Thread.leaveTrap_eq {t : Thread} {x : TrapCtx} (hx : t.trap = some x) : t.leaveTrap = { t with
    trap := none, q := x.q, step := x.step
    ctx := { x.saved with pkt := (if fld x.tret.toNat 6 2 = 3 then fld x.tret.toNat 8 56 + 1 else fld x.tret.toNat 8 56)
                          word := (if fld x.tret.toNat 6 2 = 3 then 0 else fld x.tret.toNat 6 2) } } := by
  simp only [Thread.leaveTrap, hx, returnPoint]
  split <;> rfl

/-! ### A late fault settled (R304) -/

/-- A word in flight sent again keeps its number; a memory access starts again as it is. -/
theorem State.resend_spec (s : State) (f : Flight) (ret : Nat × Nat) :
    (s.resend f ret).id = f.id ∧ ∀ a, f.kind = .mem a → (s.resend f ret).kind = f.kind ∧ (s.resend f ret).stage = .start := by
  unfold State.resend
  dsimp only
  split
  case h_1 a hkind => split <;> exact ⟨rfl, fun b hb => nomatch hkind.symm.trans hb⟩
  case h_2 hkind => split <;> exact ⟨rfl, fun b hb => nomatch hkind.symm.trans hb⟩
  case h_3 hkind =>
    split
    · exact ⟨rfl, fun b hb => nomatch hkind.symm.trans hb⟩
    · split <;> exact ⟨rfl, fun b hb => nomatch hkind.symm.trans hb⟩
  case h_4 => exact ⟨rfl, fun _ _ => ⟨rfl, rfl⟩⟩

/-- MODE 1: the access goes again. -/
theorem State.mem_settleFault_again (s : State) (tid : Nat) (f : Flight) (ret : Nat × Nat) :
    s.resend f ret ∈ (s.settleFault tid f 1 ret).flights := by
  simp [State.settleFault]

/-- Only the chunk of a `coll` is settled. -/
theorem State.settleChunk_id {f : Flight} (hkind : ∀ k dst, f.kind ≠ .coll k dst) (s : State) (tid : Nat) (again : Bool) :
    s.settleChunk tid f again = s := by
  unfold State.settleChunk
  split
  case h_1 k dst g hk hg => exact absurd hk (hkind k dst)
  case h_2 => rfl

/-- In trap context a word of the interrupted context counts down a slot of the context kept (R54, R300). -/
theorem Thread.slotDown_saved {t : Thread} {x : TrapCtx} (hx : t.trap = some x) (sb : Nat) :
    t.slotDown false sb = { t with trap := some { x with saved := { x.saved with slots := modAt (· - 1) sb x.saved.slots } } } := by
  simp [Thread.slotDown, Thread.modWordCtx, hx]

theorem modAt_eq_modify {α : Type} (f : α → α) (l : List α) (n : Nat) : modAt f n l = l.modify n f :=
  List.ext_getElem? fun k => by rw [modAt_getElem?, List.getElem?_modify]; split <;> simp

/-- MODE 2: the access is dropped, and its slot falls in the context kept (R304). -/
theorem State.settleFault_dropped {s : State} {tid sb : Nat} {f : Flight} {t : Thread} {x : TrapCtx} (ret : Nat × Nat)
    (ht : s.thread? tid = some t) (hx : t.trap = some x) (htids : f.tids = [tid]) (hctx : f.trapCtx = false)
    (hkind : ∀ k dst, f.kind ≠ .coll k dst) (hsb : f.sb = some sb) : (s.settleFault tid f 2 ret).thread? tid
      = some { t with trap := some { x with saved := { x.saved with slots := x.saved.slots.modify sb (· - 1) } } } := by
  have hid : ∀ u : Thread, (u.slotDown false sb).id = u.id := by
    intro u
    unfold Thread.slotDown Thread.modWordCtx
    split <;> rfl
  have hsettled : s.settleFault tid f 2 ret = s.modThread tid (·.slotDown false sb) := by
    rw [State.settleFault, if_neg (by decide), if_pos rfl, State.settleChunk_id hkind]
    simp only [hsb, htids, hctx]
    rfl
  rw [hsettled, State.thread?_modThread_of ht hid, if_pos rfl, Thread.slotDown_saved hx, modAt_eq_modify]

end Sys2Proof.Machine

namespace Sys2Proof.Claims
open Sys2Proof.Machine

/-- Settles O32: each word has the effect that its lemma gives, and a return is that of the fault that its trap took, by MODE. -/
theorem trapWords : Obligations.TrapWords := by
  unfold Obligations.TrapWords
  refine ⟨?raise, ⟨?alone, ?tied⟩, ?back, fun t x hx => Thread.leaveTrap_eq hx, ?settle⟩
  case raise =>
    exact fun code => ⟨fun s i hi hlast => trapWord_next hi 4 code hlast, fun s i hi hlast => trapWord_next hi 5 code hlast⟩
  case alone =>
    rintro s i hi ⟨hwords, htrap⟩
    simp only [exec_rtt_next hi htrap, if_pos hwords]
  case tied =>
    rintro s i hi ⟨hwords, htrap⟩
    simp only [exec_rtt_next hi htrap, if_neg (Nat.not_le.mpr hwords)]
  case back =>
    exact fun s tid t x ht hx => ⟨State.returnTrap_of_none ht hx, fun f hf => State.returnTrap_of_fault ht hx hf⟩
  case settle =>
    intro s tid f ret t
    refine ⟨rfl, ⟨s.resend f ret, s.mem_settleFault_again tid f ret, s.resend_spec f ret⟩, fun ht hin htids hctx hkind sb hsb => ?_⟩
    obtain ⟨x, hx⟩ := Option.isSome_iff_exists.mp hin
    exact ⟨x, _, hx, State.settleFault_dropped ret ht hx htids hctx hkind hsb, rfl⟩

end Sys2Proof.Claims

/-! SUPPORT. Filing (spec/04 R115, R116) and taking a trap (spec/11 R299-R303): what filing a thread leaves of every thread, then the state
in which a thread has entered its handler, and the one in which it has been halted for the host. -/
namespace Sys2Proof.Machine

/-! ### Filing changes the status of threads alone (R115, R116) -/

/-- Of each thread nothing but the status differs; teams, grids, memory and words in flight are as they were. -/
structure StatusOnly (s s' : State) : Prop where
  threads : ∀ u t, s.thread? u = some t → ∃ status, s'.thread? u = some { t with status }
  teams : s'.teams = s.teams
  grids : s'.grids = s.grids
  mem : s'.mem = s.mem
  flights : s'.flights = s.flights

/-- A state with the same threads, teams, grids, memory and words in flight. -/
theorem StatusOnly.of_eq {s s' : State} (threads : s'.threads = s.threads) (teams : s'.teams = s.teams) (grids : s'.grids = s.grids)
    (mem : s'.mem = s.mem) (flights : s'.flights = s.flights) : StatusOnly s s' :=
  ⟨fun u t ht => ⟨t.status, by rw [State.thread?, threads]; exact ht⟩, teams, grids, mem, flights⟩

theorem StatusOnly.refl (s : State) : StatusOnly s s := .of_eq rfl rfl rfl rfl rfl

theorem StatusOnly.trans {a b c : State} (h : StatusOnly a b) (k : StatusOnly b c) : StatusOnly a c := by
  refine ⟨fun u t ht => ?_, k.teams.trans h.teams, k.grids.trans h.grids, k.mem.trans h.mem, k.flights.trans h.flights⟩
  obtain ⟨x, hx⟩ := h.threads u t ht
  obtain ⟨y, hy⟩ := k.threads u _ hx
  exact ⟨y, hy⟩

theorem StatusOnly.withBins {s y : State} (h : StatusOnly s y) (bins : List Bin) : StatusOnly s { y with bins } :=
  h.trans (.of_eq rfl rfl rfl rfl rfl)

theorem StatusOnly.withCrews {s y : State} (h : StatusOnly s y) (crews : List Crew) : StatusOnly s { y with crews } :=
  h.trans (.of_eq rfl rfl rfl rfl rfl)

theorem State.newId_statusOnly (s : State) : StatusOnly s s.newId.2 := .of_eq rfl rfl rfl rfl rfl

theorem State.setStatus_statusOnly (s : State) (tid : Nat) (x : ThreadStatus) : StatusOnly s (s.modThread tid (fun t => { t with status := x })) := by
  refine ⟨fun u t ht => ⟨if u = tid then x else t.status, ?_⟩, rfl, rfl, rfl, rfl⟩
  rw [State.thread?_modThread_of ht]
  · split <;> rfl
  · exact fun _ => rfl

theorem State.setStatuses_statusOnly (tids : List Nat) (x : ThreadStatus) (s : State) :
    StatusOnly s (tids.foldl (fun s u => s.modThread u (fun t => { t with status := x })) s) :=
  List.foldlRecOn (motive := StatusOnly s) _ _ (.refl s) fun y hy u _ => hy.trans (y.setStatus_statusOnly u x)

theorem State.drawCrew_statusOnly (s : State) (b : Bin) (slice : Nat) (tids : List Nat) : StatusOnly s (s.drawCrew b slice tids) := by
  unfold State.drawCrew
  split
  · exact .refl s
  next =>
    dsimp only
    exact ((s.newId_statusOnly.withCrews _).trans (State.setStatuses_statusOnly tids .crewed _)).withBins _

theorem State.drawSlice_statusOnly (s : State) (bid slice : Nat) : StatusOnly s (s.drawSlice bid slice) := by
  unfold State.drawSlice
  split
  · exact .refl s
  · exact s.drawCrew_statusOnly _ _ _

theorem State.drawAll_statusOnly (bid n : Nat) : ∀ s : State, StatusOnly s (s.drawAll bid n) := by
  induction n with
  | zero => exact .refl
  | succ n ih =>
    intro s
    unfold State.drawAll
    split
    · exact .refl s
    · split
      · exact .refl s
      · exact (s.drawSlice_statusOnly _ _).trans (ih _)

/-- Room for another bin: where every bin is in use, the threads of the one that has waited longest are drawn (R116). -/
theorem State.makeRoomForBin_statusOnly (s : State) (l : List Bin) (room : Prop) [Decidable room] :
    StatusOnly s (if room then s else match longestWaiting l with | some b => s.drawAll b.id 1024 | none => s) := by
  split
  · exact .refl s
  · split
    · exact State.drawAll_statusOnly _ _ s
    · exact .refl s

theorem State.file_statusOnly (s : State) (tid : Nat) : StatusOnly s (s.file tid) := by
  unfold State.file
  split
  · exact .refl s
  next t _ =>
    dsimp only
    have hbinned := s.setStatus_statusOnly tid .binned
    have hdrawn (x : State) (hx : StatusOnly s x) (key : Bin → Bool) : StatusOnly s
        (match x.bins.find? key with
          | some b => if (x.binSlice b t.slice).length ≥ 32 then x.drawSlice b.id t.slice else x
          | none => x) := by
      split
      · split
        · exact hx.trans (x.drawSlice_statusOnly _ _)
        · exact hx
      · exact hx
    refine hdrawn _ ?_ _
    split
    · exact hbinned.withBins _
    · exact ((hbinned.trans (State.makeRoomForBin_statusOnly _ _ _)).trans (State.newId_statusOnly _)).withBins _

/-! ### Leaving a crew, in one or in none (R105) -/

/-- The `q` copy and step of a thread: those of its crew where it is in one (R108). -/
def State.copyOf (s : State) (t : Thread) (tid : Nat) : QCopy × Nat := match s.crewOf tid with | some c => (c.q, c.step) | none => (t.q, t.step)

/-- Leaving touches the thread and its crew alone. -/
theorem State.leaveCrew_only (s : State) (tid : Nat) :
    s.leaveCrew tid = { s with threads := (s.leaveCrew tid).threads, crews := (s.leaveCrew tid).crews } := by
  cases hc : s.crewOf tid with
  | none => simp only [State.leaveCrew, hc]
  | some c => rw [State.leaveCrew_eq hc]

/-- A thread out of its crew has the copy and the step that it used. -/
theorem State.thread?_leaveCrew_self {s : State} {tid : Nat} {t : Thread} (ht : s.thread? tid = some t) :
    (s.leaveCrew tid).thread? tid = some { t with q := (s.copyOf t tid).1, step := (s.copyOf t tid).2 } := by
  cases hc : s.crewOf tid with
  | none => simp only [State.leaveCrew, State.copyOf, hc, ht]
  | some c => rw [State.thread?_leaveCrew hc, if_pos rfl, ht, Option.map_some, State.copyOf, hc]; rfl

theorem State.thread?_leaveCrew_other (s : State) {tid u : Nat} (hu : u ≠ tid) : (s.leaveCrew tid).thread? u = s.thread? u := by
  cases hc : s.crewOf tid with
  | none => simp only [State.leaveCrew, hc]
  | some c => rw [State.thread?_leaveCrew hc, if_neg hu]

/-! ### Entry into a handler (R299, R300, R303) -/

/-- The trap context that a cause is taken with: what is kept of the thread, and the trap registers. -/
def State.trapCtx (s : State) (x : Raised) (ret : Nat × Nat) (t : Thread) (m : Team) : TrapCtx :=
  { saved := t.ctx, fault := x.fault, entered := s.localTime m.place.die, q := (s.copyOf t x.tid).1, step := (s.copyOf t x.tid).2
    crew := (s.crewOf x.tid).map (·.id), mark := s.ctl.nextId
    cause := BitVec.ofNat 64 (x.late.toNat * 2 ^ 11 + x.pipe % 8 * 2 ^ 8 + x.cause % 256)
    val := BitVec.ofNat 64 (if 0x29 ≤ x.cause ∧ x.cause ≤ 0x2B then 0 else x.val)
    tret := BitVec.ofNat 64 (ret.1 % 2 ^ 56 * 2 ^ 8 + ret.2 * 2 ^ 6) }

/-- A thread at the entry of its handler. -/
def State.entered (s : State) (x : Raised) (ret : Nat × Nat) (t : Thread) (m : Team) : Thread := { t with
  trap := some (s.trapCtx x ret t m)
  ctx := { pkt := fld m.regs.tvec.toNat 0 56, word := 0, preds := 0, slots := List.replicate 8 0, fflags := 0, link := BitVec.allOnes 64
           srseed := t.ctx.srseed ^^^ 0x2545F491 }
  q := {}, step := (s.copyOf t x.tid).2, wt := none }

/-- The record of a cause, written at entry where `cr.tctl` asks for it (R303). -/
def State.causeRecord (s : State) (x : Raised) (fw : Nat × Nat) (t : Thread) : RecordFields :=
  { s.recordOf t with cause := x.cause, val := x.val, pkt := fw.1, word := fw.2, pipe := x.pipe, late := x.late }

/-- The entry of a thread into its handler, before it is filed there. -/
def State.enter (s : State) (x : Raised) (ret : Nat × Nat) (m : Team) : State :=
  let left := (s.leaveCrew x.tid).leaveBin x.tid
  left.modThread x.tid (fun t =>
    t.enterTrap (fld m.regs.tvec.toNat 0 56) x.cause (trapVal x.cause x.val) x.pipe x.late ret x.fault (left.localTime m.place.die) t.q t.step
      ((s.crewOf x.tid).map (·.id)) left.ctl.nextId)

/-- What entering a handler leaves: the thread as it begins there, every other thread and the other parts of the state as they were. -/
theorem State.enter_spec {s : State} {x : Raised} {t : Thread} (ret : Nat × Nat) (m : Team) (ht : s.thread? x.tid = some t) :
    (s.enter x ret m).thread? x.tid = some (s.entered x ret t m) ∧ (∀ u, u ≠ x.tid → (s.enter x ret m).thread? u = s.thread? u)
    ∧ s.enter x ret m = { s with threads := (s.enter x ret m).threads, crews := (s.enter x ret m).crews, bins := (s.enter x ret m).bins } := by
  have hleft : ((s.leaveCrew x.tid).leaveBin x.tid).thread? x.tid = _ := State.thread?_leaveCrew_self ht
  have htime : ((s.leaveCrew x.tid).leaveBin x.tid).localTime m.place.die = s.localTime m.place.die := by rw [State.leaveCrew_only]; rfl
  have hctl : ((s.leaveCrew x.tid).leaveBin x.tid).ctl = s.ctl := by rw [State.leaveCrew_only]; rfl
  refine ⟨?_, fun u hu => ?_, ?_⟩
  · rw [State.enter, State.thread?_modThread_of hleft, if_pos rfl, htime, hctl]
    · rfl
    · exact fun _ => rfl
  · rw [State.enter, State.thread?_modThread, if_neg hu]
    · exact s.thread?_leaveCrew_other hu
    · exact fun _ => rfl
  · rw [State.enter, State.leaveCrew_only]
    rfl

section
variable {s : State} {x : Raised} {t : Thread} {m : Team} (fw ret : Nat × Nat) (ht : s.thread? x.tid = some t) (hm : s.team? t.team = some m)
  (htrap : t.trap = none) (hrun : t.status ≠ .halted) (hvec : fld m.regs.tvec.toNat 0 56 ≠ 0)
include ht hm htrap hrun hvec

theorem State.takeTrap_enters (hcause : ¬(x.cause = 5 ∧ m.regs.tctl.getLsbD 0 = true)) :
    s.takeTrap x fw ret = State.file
      ((if m.regs.tctl.getLsbD 1 then s.writeRecord m.place.die (s.causeRecord x fw t) else s).enter x ret m) x.tid := by
  have hhandled : (t.trap.isSome || fld m.regs.tvec.toNat 0 56 == 0) = false := by simp [htrap, hvec]
  have hbreak : (x.cause == Cause.break_ && m.regs.tctl.getLsbD 0) = false := by
    rw [Bool.and_eq_false_iff]
    by_cases h : x.cause = 5
    · exact .inr (by simpa [h] using hcause)
    · exact .inl (beq_false_of_ne h)
  simp only [State.takeTrap, ht, hm, beq_iff_eq, if_neg hrun, hhandled, hbreak]
  rfl

/-- The thread that takes the trap begins its handler, wherever it is filed there; nothing else of the state differs but statuses, crews,
bins and records. -/
theorem State.takeTrap_spec (hcause : ¬(x.cause = 5 ∧ m.regs.tctl.getLsbD 0 = true)) : let after := s.takeTrap x fw ret
    (∃ status, after.thread? x.tid = some { s.entered x ret t m with status })
    ∧ (∀ u v, u ≠ x.tid → s.thread? u = some v → ∃ status, after.thread? u = some { v with status })
    ∧ after.teams = s.teams ∧ after.grids = s.grids ∧ after.mem = s.mem ∧ after.flights = s.flights := by
  intro after
  have hafter : after = _ := State.takeTrap_enters fw ret ht hm htrap hrun hvec hcause
  have hrecorded : ∃ y : State, y = { s with records := y.records, recordsLost := y.recordsLost } ∧ after = (y.enter x ret m).file x.tid := by
    refine ⟨_, ?_, hafter⟩
    split
    · exact State.writeRecord_eq _ _ _
    · rfl
  obtain ⟨y, hy, hafter⟩ := hrecorded
  have hfound (u : Nat) : y.thread? u = s.thread? u := by rw [hy]; rfl
  have hentered : y.entered x ret t m = s.entered x ret t m := by rw [hy]; rfl
  obtain ⟨hself, hother, honly⟩ := State.enter_spec ret m ((hfound _).trans ht)
  obtain ⟨hthreads, hteams, hgrids, hmem, hflights⟩ := State.file_statusOnly (y.enter x ret m) x.tid
  rw [hafter]
  refine ⟨hentered ▸ hthreads _ _ hself, fun u v hu hv => hthreads u v ?_, ?_, ?_, ?_, ?_⟩
  · rw [hother u hu, hfound, hv]
  · rw [hteams, honly, hy]
  · rw [hgrids, honly, hy]
  · rw [hmem, honly, hy]
  · rw [hflights, honly, hy]

theorem State.takeTrap_haltsForHost (hcause : x.cause = 5) (hdbg : m.regs.tctl.getLsbD 0 = true) :
    s.takeTrap x fw ret = s.haltForHost x.tid (s.causeRecord x fw t) ret := by
  have hhandled : (t.trap.isSome || fld m.regs.tvec.toNat 0 56 == 0) = false := by simp [htrap, hvec]
  have hbreak : (x.cause == Cause.break_ && m.regs.tctl.getLsbD 0) = true := by rw [hcause, hdbg]; rfl
  simp only [State.takeTrap, ht, hm, beq_iff_eq, if_neg hrun, hhandled, hbreak]
  rfl

end

/-! ### Halted for the host (R299) -/

section
variable {s : State} {tid : Nat} {t : Thread} {m : Team} (r : RecordFields) (ret : Nat × Nat) (ht : s.thread? tid = some t)
  (hm : s.team? t.team = some m)

/-- A thread out of its crew, halted at its return point with the record that stands for it. -/
def State.haltedForHost (s : State) (tid : Nat) (r : RecordFields) (ret : Nat × Nat) (die : Nat) : State :=
  (s.leaveCrew tid).modThread tid (fun t => { t.goto ret.1 ret.2 with status := .haltedDbg (s.freeRecord die) { r with action := 6 }.bits })

include ht in
theorem State.haltedForHost_spec (die : Nat) : let after := s.haltedForHost tid r ret die
    (after.thread? tid = some { t with
      q := (s.copyOf t tid).1, step := (s.copyOf t tid).2, ctx := { t.ctx with pkt := ret.1, word := ret.2 }
      status := .haltedDbg (s.freeRecord die) { r with action := 6 }.bits })
    ∧ (∀ u, u ≠ tid → after.thread? u = s.thread? u) ∧ after = { s with threads := after.threads, crews := after.crews } := by
  refine ⟨?_, fun u hu => ?_, ?_⟩
  · rw [State.haltedForHost, State.thread?_modThread_of (State.thread?_leaveCrew_self ht), if_pos rfl]
    · rfl
    · exact fun _ => rfl
  · rw [State.haltedForHost, State.thread?_modThread, if_neg hu]
    · exact s.thread?_leaveCrew_other hu
    · exact fun _ => rfl
  · rw [State.haltedForHost, State.leaveCrew_only]
    rfl

theorem State.freeRecord_leaveCrew (s : State) (tid die : Nat) : (s.leaveCrew tid).freeRecord die = s.freeRecord die := by
  rw [State.leaveCrew_only]; rfl

theorem State.freeRecord_modThread (s : State) (tid die : Nat) (f : Thread → Thread) : (s.modThread tid f).freeRecord die = s.freeRecord die := rfl

include ht hm

theorem State.haltForHost_of_full (hfull : s.freeRecord m.place.die = none) : s.haltForHost tid r ret = s.haltedForHost tid r ret m.place.die := by
  have hplace : s.placeOf t = m.place := by simp only [State.placeOf, hm]
  simp only [State.haltForHost, ht, hplace, State.freeRecord_modThread, State.freeRecord_leaveCrew, hfull, State.haltedForHost]

theorem State.haltForHost_of_free {k : Nat} (hfree : s.freeRecord m.place.die = some k) : s.haltForHost tid r ret =
    ((s.haltedForHost tid r ret m.place.die).writeRecord m.place.die { r with action := 6 }).raiseVector 0 := by
  have hplace : s.placeOf t = m.place := by simp only [State.placeOf, hm]
  simp only [State.haltForHost, ht, hplace, State.freeRecord_modThread, State.freeRecord_leaveCrew, hfree, State.haltedForHost]

theorem State.haltForHost_spec : let after := s.haltForHost tid r ret
    after.thread? tid = some { t with
      q := (s.copyOf t tid).1, step := (s.copyOf t tid).2, ctx := { t.ctx with pkt := ret.1, word := ret.2 }
      status := .haltedDbg (s.freeRecord m.place.die) { r with action := 6 }.bits }
    ∧ (∀ u, u ≠ tid → after.thread? u = s.thread? u)
    ∧ (∀ k, s.freeRecord m.place.die = some k → after.host.msix = 0 :: s.host.msix ∧ ∃ x ∈ after.records,
        x.die = m.place.die ∧ x.index = k ∧ fld x.bits 304 8 = 6 ∧ fld x.bits 312 8 = r.cause % 256)
    ∧ (s.freeRecord m.place.die = none → after.records = s.records ∧ after.host = s.host) := by
  intro after
  obtain ⟨hself, hother, honly⟩ := State.haltedForHost_spec r ret ht m.place.die
  have hrecords : (s.haltedForHost tid r ret m.place.die).records = s.records := by rw [honly]
  have hhost : (s.haltedForHost tid r ret m.place.die).host = s.host := by rw [honly]
  cases hfree : s.freeRecord m.place.die with
  | none =>
    have hafter : after = s.haltedForHost tid r ret m.place.die := State.haltForHost_of_full r ret ht hm hfree
    rw [hafter]
    exact ⟨hfree ▸ hself, hother, fun _ h => (nomatch h), fun _ => ⟨hrecords, hhost⟩⟩
  | some k =>
    have hafter : after = _ := State.haltForHost_of_free r ret ht hm hfree
    have hfree' : (s.haltedForHost tid r ret m.place.die).freeRecord m.place.die = some k := by
      rw [State.freeRecord, hrecords]; exact hfree
    rw [hafter]
    refine ⟨?_, fun u hu => ?_, fun j hj => ⟨?_, ?_⟩, fun h => nomatch h⟩
    · exact (State.thread?_writeRecord _ _ _ _).trans (hfree ▸ hself)
    · exact (State.thread?_writeRecord _ _ _ _).trans (hother u hu)
    · exact congrArg (fun h : HostState => 0 :: h.msix) ((State.writeRecord_host _ _ _).trans hhost)
    · obtain ⟨x, hx, hdie, hindex, haction, hcause⟩ := State.mem_writeRecord { r with action := 6 } hfree'
      exact ⟨x, hx, hdie, hindex.trans (Option.some.inj hj), haction, hcause⟩

end

end Sys2Proof.Machine

namespace Sys2Proof.Claims
open Sys2Proof.Machine

/-- Settles O30: filing at the handler changes the status of threads alone, and a halt for the host the thread, its crew and the record. -/
theorem takingATrap : Obligations.TakingATrap := by
  unfold Obligations.TakingATrap
  intro s x fw ret t m ht hm htrap hrun vec after copy hvec
  refine ⟨fun hcause => ?_, fun hcause hdbg => ?_⟩
  · obtain ⟨hself, hother, hteams, hgrids, hmem, hflights⟩ := State.takeTrap_spec fw ret ht hm htrap hrun hvec hcause
    exact ⟨hself, hother, hteams, hgrids, hmem, hflights⟩
  · intro die halted
    have hafter : after = s.haltForHost x.tid (s.causeRecord x fw t) ret := State.takeTrap_haltsForHost fw ret ht hm htrap hrun hvec hcause hdbg
    obtain ⟨hself, hother, hrecord, hfull⟩ := State.haltForHost_spec (s.causeRecord x fw t) ret ht hm
    have haction : fld { s.causeRecord x fw t with action := 6 }.bits 304 8 = 6 := RecordFields.fld_action _
    have hbreak : fld { s.causeRecord x fw t with action := 6 }.bits 312 8 = 5 := by
      rw [RecordFields.fld_cause]
      exact congrArg (· % 256) hcause
    refine ⟨⟨_, (congrArg (State.thread? · x.tid) hafter).trans hself, haction, hbreak⟩, ?_⟩
    rw [hafter]
    refine ⟨hother, fun k hk => ?_, hfull⟩
    obtain ⟨hmsix, r, hr, hdie, hindex, hract, hrcause⟩ := hrecord k hk
    exact ⟨hmsix, r, hr, hdie, hindex, hract, hrcause.trans (congrArg (· % 256) hcause)⟩

end Sys2Proof.Claims

/-! SUPPORT. The failure of a core (spec/11 R311-R313; spec/20 R478): what it takes besides threads, which threads are lost, and what has
become of teams and threads as their replays begin. -/
namespace Sys2Proof.Machine

/-! ### Threads in ascending index (R311) -/

theorem mem_insertByIndex {x y : Nat × Nat} {l : List (Nat × Nat)} : x ∈ insertByIndex y l ↔ x = y ∨ x ∈ l := by
  induction l with
  | nil => simp [insertByIndex]
  | cons z zs ih =>
    unfold insertByIndex
    split
    · exact List.mem_cons
    · rw [List.mem_cons, ih, List.mem_cons, or_left_comm]

theorem mem_byIndex {x : Nat × Nat} {l : List (Nat × Nat)} : x ∈ byIndex l ↔ x ∈ l := by
  have hfold : ∀ acc : List (Nat × Nat), x ∈ l.foldl (fun acc y => insertByIndex y acc) acc ↔ x ∈ l ∨ x ∈ acc := by
    induction l with
    | nil => simp
    | cons y ys ih =>
      intro acc
      rw [List.foldl_cons, ih, mem_insertByIndex, List.mem_cons, or_left_comm, or_assoc]
  simpa [byIndex] using hfold []

/-! ### What a core's failure takes, and in which order -/

/-- What a core's failure takes before the teams on it: the record is written, a spare takes the core's numbers or the core stays lost, and its
L1 lines, tables and lanes are gone. -/
def State.coreGone (s : State) (p : Place) : State :=
  let s := s.writeRecord p.die { cause := Cause.coreFail, action := 4, noThread := true, place := p }
  let spares := s.host.spareCores.getD p.die 0
  let s := s.modHost (fun h =>
    if spares = 0 then { h with lostCores := p :: h.lostCores, coresLost := h.coresLost + 1 }
    else { h with spareCores := modAt (· - 1) p.die h.spareCores })
  let s := s.modMem (fun m => { m with l1 := m.l1.filter (fun l => l.place != p) })
  { s with tables := s.tables.filter (fun t => t.place != p), lanes := s.lanes.filter (fun l => l.place != p) }

/-- The teams on a core that neither have retired nor are halted. -/
def State.teamsOn (s : State) (p : Place) : List Team := s.teams.filter (fun m => m.place == p && m.status != .retired && m.status != .halted)

/-- The threads that are lost with a core, team by team in the order of their indexes. -/
def State.lostOn (s : State) (p : Place) : List Nat :=
  (s.teamsOn p).flatMap (fun m => (byIndex ((s.threads.filter (fun t => t.team == m.id && m.loses t)).map (fun t => (t.index, t.id)))).map (·.2))

/-- Each lost thread's TM as high as what it has written (R142, R145). -/
def State.raiseTms (s : State) (lost : List Nat) : State := lost.foldl (fun s t => s.modThread t (·.raiseTm (s.writtenBy [t]))) s

/-- The generations and jobs of the teams that were resident gone, and the generations that a lost thread has signed. -/
def State.unitsGone (s : State) (here : List Team) (lost : List Nat) : State :=
  let gone := fun (team : Nat) => here.any (fun (m : Team) => m.id == team && m.status == TeamStatus.resident)
  { s with gens := s.gens.filter (fun (g : Gen) => !(gone g.team || g.lost lost)), jobs := s.jobs.filter (fun j => !gone j.team) }

/-- A team of the core uprooted, where the core held anything of it. -/
def State.uprootHere (s : State) (m : Team) (lost : List Nat) : State :=
  if m.status == TeamStatus.resident || !m.parkedIn.isEmpty then (s.uproot m lost).loseContribution m else s

/-- The state in which the replays begin. -/
def State.uprooted (s : State) (p : Place) : State :=
  let lost := s.lostOn p
  let begun := (((s.coreGone p).raiseTms lost).dropFlights lost).unitsGone (s.teamsOn p) lost
  ((s.teamsOn p).foldl (fun s m => s.uprootHere m lost) begun).dropArrivals lost

@[simp] theorem State.coreGone_threads (s : State) (p : Place) : (s.coreGone p).threads = s.threads := by simp [State.coreGone]
@[simp] theorem State.coreGone_teams (s : State) (p : Place) : (s.coreGone p).teams = s.teams := by simp [State.coreGone]

theorem State.failCore_eq (s : State) (p : Place) : s.failCore p = (s.lostOn p).foldl State.replayOrHold (s.uprooted p) := by
  have hhere : (s.coreGone p).teamsOn p = s.teamsOn p := by rw [State.teamsOn, State.coreGone_teams, State.teamsOn]
  have hlost : (s.coreGone p).lostOn p = s.lostOn p := by rw [State.lostOn, hhere, State.coreGone_threads, State.lostOn]
  rw [State.uprooted, ← hlost, ← hhere]
  rfl

/-! ### The core itself (R311, R312, R478) -/

theorem State.coreGone_host (s : State) (p : Place) : (s.coreGone p).host =
    if s.host.spareCores.getD p.die 0 = 0 then { s.host with lostCores := p :: s.host.lostCores, coresLost := s.host.coresLost + 1 }
    else { s.host with spareCores := modAt (· - 1) p.die s.host.spareCores } := by
  simp [State.coreGone]

/-- An element of a list lowered by one, where it is there. -/
theorem getD_modAt_pred (l : List Nat) (n : Nat) : (modAt (· - 1) n l).getD n 0 = l.getD n 0 - 1 := by
  rw [List.getD_eq_getElem?_getD, List.getD_eq_getElem?_getD, modAt_getElem?, if_pos rfl]
  cases l[n]? <;> rfl

/-- Of a core that holds no team only the core itself is lost. -/
theorem State.failCore_of_no_team {s : State} {p : Place} (hnone : ∀ m ∈ s.teams, m.place ≠ p) :
    s.failCore p = (((s.coreGone p).dropFlights []).unitsGone [] []).dropArrivals [] := by
  have hhere : s.teamsOn p = [] := List.filter_eq_nil_iff.mpr fun m hm => by simp [hnone m hm]
  have hlost : s.lostOn p = [] := by rw [State.lostOn, hhere]; rfl
  rw [State.failCore_eq, State.uprooted, hlost, hhere]
  rfl

theorem State.failCore_alone_spec {s : State} {p : Place} (hnone : ∀ m ∈ s.teams, m.place ≠ p) : let after := s.failCore p
    after.host = (s.coreGone p).host ∧ (∀ l ∈ after.mem.l1, l.place ≠ p) ∧ (∀ t ∈ after.tables, t.place ≠ p)
    ∧ (∀ l ∈ after.lanes, l.place ≠ p) ∧ after.threads = s.threads := by
  intro after
  have hafter : after = _ := State.failCore_of_no_team hnone
  rw [hafter]
  refine ⟨rfl, fun l hl => ?_, fun t ht => ?_, fun l hl => ?_, s.coreGone_threads p⟩
  · simpa using (List.mem_filter.mp hl).2
  · simpa using (List.mem_filter.mp ht).2
  · simpa using (List.mem_filter.mp hl).2

/-! ### The threads that are lost (R313) -/

theorem Team.loses_iff (m : Team) (t : Thread) : m.loses t = true ↔
    t.resident = true ∧ (m.status = .resident ∨ t.slice ∈ m.parkedIn ∨ 16 ∈ m.parkedIn ∨ 17 ∈ m.parkedIn) := by
  simp [Team.loses, or_assoc]

theorem State.mem_teamsOn {s : State} {p : Place} {m : Team} :
    m ∈ s.teamsOn p ↔ m ∈ s.teams ∧ m.place = p ∧ m.status ≠ .retired ∧ m.status ≠ .halted := by
  simp [State.teamsOn, and_assoc]

theorem State.mem_lostOn {s : State} {p : Place} (hd : (s.threads.map (·.id)).Nodup) {t : Thread} (ht : t ∈ s.threads) :
    t.id ∈ s.lostOn p ↔ ∃ m ∈ s.teamsOn p, t.team = m.id ∧ m.loses t = true := by
  simp only [State.lostOn, List.mem_flatMap, List.mem_map, mem_byIndex, List.mem_filter, Bool.and_eq_true, beq_iff_eq]
  constructor
  · rintro ⟨m, hm, -, ⟨u, ⟨hu, hteam, hloses⟩, rfl⟩, hid⟩
    obtain rfl : u = t := List.inj_on_of_nodup_map hd hu ht hid
    exact ⟨m, hm, hteam, hloses⟩
  · rintro ⟨m, hm, hteam, hloses⟩
    exact ⟨m, hm, _, ⟨t, ⟨ht, hteam, hloses⟩, rfl⟩, rfl⟩

/-! ### Uprooting (R308, R313) -/

/-- A team has been pre-empted. -/
def State.Preempted (s : State) (tm : Nat) : Prop := ∃ m, s.team? tm = some m ∧ m.status = .preempted

/-- What uprooting teams keeps: of each thread its frame, and its TM or a higher one; the words in flight; each team, and a pre-empted one
as such. -/
structure Uproots (s s' : State) : Prop where
  threads : ∀ u t, s.thread? u = some t → ∃ v, s'.thread? u = some v ∧ t.tm ≤ v.tm ∧ v.frame = t.frame
  flights : s'.flights = s.flights
  teams : ∀ tm, (s.team? tm).isSome → (s'.team? tm).isSome
  preempted : ∀ tm, s.Preempted tm → s'.Preempted tm

theorem Uproots.of_eq {s s' : State} (threads : s'.threads = s.threads) (flights : s'.flights = s.flights) (teams : s'.teams = s.teams) :
    Uproots s s' where
  threads u t ht := ⟨t, by rw [State.thread?, threads]; exact ht, Nat.le_refl _, rfl⟩
  flights := flights
  teams tm h := by rw [State.team?, teams]; exact h
  preempted tm h := by rw [State.Preempted, State.team?, teams]; exact h

theorem Uproots.refl (s : State) : Uproots s s := .of_eq rfl rfl rfl

theorem Uproots.trans {a b c : State} (h : Uproots a b) (k : Uproots b c) : Uproots a c := by
  refine ⟨fun u t ht => ?_, k.flights.trans h.flights, fun tm x => k.teams tm (h.teams tm x), fun tm x => k.preempted tm (h.preempted tm x)⟩
  obtain ⟨v, hv, htm, hframe⟩ := h.threads u t ht
  obtain ⟨w, hw, htm', hframe'⟩ := k.threads u v hv
  exact ⟨w, hw, htm.trans htm', hframe'.trans hframe⟩

theorem State.modThread_uproots (s : State) (tid : Nat) {f : Thread → Thread} (hid : ∀ t, (f t).id = t.id) (htm : ∀ t, t.tm ≤ (f t).tm)
    (hframe : ∀ t, (f t).frame = t.frame) : Uproots s (s.modThread tid f) := by
  refine ⟨fun u t ht => ⟨_, State.thread?_modThread_of ht hid, ?_⟩, rfl, fun _ h => h, fun _ h => h⟩
  split
  · exact ⟨htm t, hframe t⟩
  · exact ⟨Nat.le_refl _, rfl⟩

/-- A team changed so that, where it was pre-empted, it still is. -/
theorem State.modTeam_uproots (s : State) (tm : Nat) {f : Team → Team} (hid : ∀ m, (f m).id = m.id)
    (hf : ∀ m, m.status = .preempted → (f m).status = .preempted) : Uproots s (s.modTeam tm f) := by
  refine ⟨fun u t ht => ⟨t, ht, Nat.le_refl _, rfl⟩, rfl, fun k hk => ?_, ?_⟩
  · obtain ⟨m, hm⟩ := Option.isSome_iff_exists.mp hk
    rw [State.team?_modTeam_of hm hid]
    rfl
  · rintro k ⟨m, hm, hstatus⟩
    refine ⟨_, State.team?_modTeam_of hm hid, ?_⟩
    split
    · exact hf m hstatus
    · exact hstatus

/-- A team that is there, made pre-empted. -/
theorem State.modTeam_preempted {s : State} {tm : Nat} (h : (s.team? tm).isSome) {f : Team → Team} (hid : ∀ m, (f m).id = m.id)
    (hf : ∀ m, (f m).status = .preempted) : (s.modTeam tm f).Preempted tm := by
  obtain ⟨m, hm⟩ := Option.isSome_iff_exists.mp h
  exact ⟨f m, by rw [State.team?_modTeam_of hm hid, if_pos rfl], hf m⟩

theorem State.leaveCrew_uproots (s : State) (tid : Nat) : Uproots s (s.leaveCrew tid) := by
  cases hc : s.crewOf tid with
  | none => rw [State.leaveCrew, hc]; exact .refl s
  | some c =>
    rw [State.leaveCrew_eq hc]
    exact (s.modThread_uproots tid (f := (·.takeCopy c)) (fun _ => rfl) (fun _ => Nat.le_refl _) fun _ => rfl).trans (.of_eq rfl rfl rfl)

theorem State.leaveCore_uproots (s : State) (tid : Nat) : Uproots s (s.leaveCore tid) :=
  have hbin : Uproots (s.leaveCrew tid) ((s.leaveCrew tid).leaveBin tid) := .of_eq rfl rfl rfl
  ((s.leaveCrew_uproots tid).trans hbin).trans
    (State.modThread_uproots _ tid (f := Thread.leftCore) (fun _ => rfl) (fun _ => Nat.le_refl _) fun _ => rfl)

theorem State.offCore_uproots (s : State) (tm : Nat) : Uproots s (s.offCore tm .preempted) := by
  cases hm : s.team? tm with
  | none => rw [State.offCore, hm]; exact .refl s
  | some m =>
    obtain rfl : m.id = tm := by simpa using List.find?_some hm
    obtain ⟨f, hf, hoff⟩ := State.offCore_eq hm .preempted
    have hleft (ids : List Nat) : Uproots s (s.leaveCores ids) :=
      List.foldlRecOn (motive := Uproots s) _ _ (.refl s) fun x hx t _ => hx.trans (x.leaveCore_uproots t)
    rw [hoff]
    exact (hleft _).trans (State.modTeam_uproots _ _ (fun x => (hf x).1) fun x _ => (hf x).2)

theorem State.uproot_uproots (s : State) (m : Team) (lost : List Nat) :
    Uproots s (s.uproot m lost) ∧ ((s.team? m.id).isSome → (s.uproot m lost).Preempted m.id) := by
  have hoff : Uproots s (if (m.status == .resident) = true then s.offCore m.id .preempted else s) := by
    split
    · exact s.offCore_uproots m.id
    · exact .refl s
  exact ⟨hoff.trans (State.modTeam_uproots _ _ (fun _ => rfl) fun _ _ => rfl),
    fun h => State.modTeam_preempted (hoff.teams _ h) (fun _ => rfl) fun _ => rfl⟩

theorem State.loseContribution_uproots (s : State) (m : Team) : Uproots s (s.loseContribution m) := by
  unfold State.loseContribution
  split
  · exact .refl s
  · exact .of_eq rfl rfl rfl

theorem State.uprootHere_uproots (s : State) (m : Team) (lost : List Nat) : Uproots s (s.uprootHere m lost)
    ∧ (m.status = .resident → (s.team? m.id).isSome → (s.uprootHere m lost).Preempted m.id) := by
  obtain ⟨hup, hpre⟩ := s.uproot_uproots m lost
  unfold State.uprootHere
  split
  next => exact ⟨hup.trans (State.loseContribution_uproots _ m), fun _ h => (State.loseContribution_uproots _ m).preempted _ (hpre h)⟩
  next hnot => exact ⟨.refl s, fun hres => absurd (by simp [hres]) hnot⟩

theorem State.uprootAll_uproots (lost : List Nat) (ms : List Team) (s : State) : Uproots s (ms.foldl (fun s m => s.uprootHere m lost) s) :=
  List.foldlRecOn (motive := Uproots s) _ _ (.refl s) fun x hx m _ => hx.trans (x.uprootHere_uproots m lost).1

/-- Each resident team among those uprooted ends pre-empted. -/
theorem State.uprootAll_preempted (lost : List Nat) {m : Team} (hres : m.status = .resident) (ms : List Team) : ∀ s : State, m ∈ ms →
    (s.team? m.id).isSome → (ms.foldl (fun s m => s.uprootHere m lost) s).Preempted m.id := by
  induction ms with
  | nil => exact fun _ h => absurd h List.not_mem_nil
  | cons n ns ih =>
    intro s hm hthere
    rcases List.mem_cons.mp hm with rfl | hin
    · exact (State.uprootAll_uproots lost ns _).preempted _ ((s.uprootHere_uproots m lost).2 hres hthere)
    · exact ih _ hin ((s.uprootHere_uproots n lost).1.teams _ hthere)

theorem State.raiseTms_uproots (s : State) (lost : List Nat) : Uproots s (s.raiseTms lost) :=
  List.foldlRecOn (motive := Uproots s) _ _ (.refl s) fun x hx t _ =>
    hx.trans (x.modThread_uproots t (fun _ => rfl) (fun _ => Nat.le_max_left _ _) fun _ => rfl)

/-- A team without the arrivals of some threads at its barriers. -/
def Team.dropArrivals (m : Team) (l : List Nat) : Team :=
  { m with bars := m.bars.map (fun b => { b with arrived := b.arrived.filter (fun a => !l.contains a.tid) }) }

theorem State.team?_dropArrivals (s : State) (l : List Nat) (tm : Nat) :
    (s.dropArrivals l).team? tm = (s.team? tm).map (·.dropArrivals l) := by
  rw [State.team?, State.dropArrivals, List.find?_map]
  rfl

/-- Withdrawing arrivals changes the barriers of teams and grids alone (log 20). -/
theorem State.dropArrivals_uproots (s : State) (l : List Nat) : Uproots s (s.dropArrivals l) := by
  refine ⟨fun u t ht => ⟨t, ht, Nat.le_refl _, rfl⟩, rfl, fun tm h => ?_, fun tm ⟨m, hm, hstatus⟩ => ⟨m.dropArrivals l, ?_, hstatus⟩⟩
  · rwa [State.team?_dropArrivals, Option.isSome_map]
  · rw [State.team?_dropArrivals, hm, Option.map_some]

/-- What has become of the core's teams and threads as the replays begin. -/
theorem State.uprooted_spec (s : State) (p : Place) : let s0 := s.uprooted p
    (∀ m ∈ s.teamsOn p, m.status = .resident → (s.team? m.id).isSome → s0.Preempted m.id)
    ∧ (∀ u t, s.thread? u = some t → ∃ v, s0.thread? u = some v ∧ t.tm ≤ v.tm ∧ v.frame = t.frame)
    ∧ ∀ f ∈ s0.flights, ∀ u ∈ f.tids, u ∉ s.lostOn p := by
  intro s0
  let raised := (s.coreGone p).raiseTms (s.lostOn p)
  let begun := (raised.dropFlights (s.lostOn p)).unitsGone (s.teamsOn p) (s.lostOn p)
  have hraised : Uproots (s.coreGone p) raised := State.raiseTms_uproots _ _
  have hflights : begun.flights = raised.flights.filter (fun f => !f.tids.any (s.lostOn p).contains) := rfl
  have huprooted : Uproots begun s0 := (State.uprootAll_uproots _ _ begun).trans (State.dropArrivals_uproots _ _)
  refine ⟨fun m hm hres hthere => ?_, fun u t ht => ?_, fun f hf u hu hlost => ?_⟩
  · have hbegun : (begun.team? m.id).isSome := hraised.teams m.id (by rwa [State.team?, State.coreGone_teams])
    exact (State.dropArrivals_uproots _ _).preempted _ (State.uprootAll_preempted _ hres _ begun hm hbegun)
  · obtain ⟨v, hv, htm, hframe⟩ := hraised.threads u t (by rwa [State.thread?, s.coreGone_threads])
    obtain ⟨w, hw, htm', hframe'⟩ := huprooted.threads u v hv
    exact ⟨w, hw, htm.trans htm', hframe'.trans hframe⟩
  · rw [huprooted.flights, hflights] at hf
    have hnone := (List.mem_filter.mp hf).2
    rw [Bool.not_eq_true', List.any_eq_false] at hnone
    exact hnone u hu (List.contains_iff_mem.mpr hlost)

end Sys2Proof.Machine

/-! SUPPORT. Replay (spec/11 R313, R314): what cancelling the descendants of a lost thread leaves, and the thread as replay recreates it. -/
namespace Sys2Proof.Machine

/-! ### Descendants cancelled (R313) -/

/-- The same threads stand, by number, and the address-space blocks are as they were. -/
structure SameNumbers (s s' : State) : Prop where
  threads : ∀ u, (s'.thread? u).isSome = (s.thread? u).isSome
  asids : s'.asids = s.asids

theorem SameNumbers.of_eq {s s' : State} (threads : s'.threads = s.threads) (asids : s'.asids = s.asids) : SameNumbers s s' :=
  ⟨fun u => by rw [State.thread?, threads, State.thread?], asids⟩

theorem SameNumbers.refl (s : State) : SameNumbers s s := .of_eq rfl rfl

theorem SameNumbers.trans {a b c : State} (h : SameNumbers a b) (k : SameNumbers b c) : SameNumbers a c :=
  ⟨fun u => (k.threads u).trans (h.threads u), k.asids.trans h.asids⟩

theorem OnlyHome.asids {s s' : State} (h : OnlyHome s s') : s'.asids = s.asids := (congrArg State.asids (h : s' = _) :)

theorem State.modThread_sameNumbers (s : State) (tid : Nat) {f : Thread → Thread} (hid : ∀ t, (f t).id = t.id) :
    SameNumbers s (s.modThread tid f) := by
  refine ⟨fun u => ?_, rfl⟩
  rw [State.thread?_modThread _ _ _ _ hid]
  split
  next h => rw [h, Option.isSome_map]
  next => rfl

theorem State.leaveCrew_sameNumbers (s : State) (tid : Nat) : SameNumbers s (s.leaveCrew tid) := by
  cases hc : s.crewOf tid with
  | none => rw [State.leaveCrew, hc]; exact .refl s
  | some c =>
    rw [State.leaveCrew_eq hc]
    exact (s.modThread_sameNumbers tid (f := (·.takeCopy c)) fun _ => rfl).trans (.of_eq rfl rfl)

theorem State.storeFrame_sameNumbers (s : State) (tid : Nat) : SameNumbers s (s.storeFrame tid) :=
  .of_eq (s.storeFrame_onlyHome tid).threads (s.storeFrame_onlyHome tid).asids

/-- A thread out of its crew and bin, its frame free. -/
def State.freeThread (s : State) (tid : Nat) : State :=
  (((s.leaveCrew tid).leaveBin tid).modThread tid (fun x => { x with frame := { x.frame with state := 0 } })).storeFrame tid

theorem State.freeThread_sameNumbers (s : State) (tid : Nat) : SameNumbers s (s.freeThread tid) := by
  have hbin : SameNumbers (s.leaveCrew tid) ((s.leaveCrew tid).leaveBin tid) := .of_eq rfl rfl
  refine (((s.leaveCrew_sameNumbers tid).trans hbin).trans (State.modThread_sameNumbers _ tid ?_)).trans (State.storeFrame_sameNumbers _ _)
  exact fun _ => rfl

/-- One thread cancelled, with its frame record given back to its pool; it is still listed. -/
def State.cancelThread (s : State) (tid : Nat) : State :=
  match s.thread? tid with
  | none => s
  | some x => match x.frame.index, (s.freeThread tid).gridOf x with
    | some i, some g => (s.freeThread tid).modGrid g.event (fun g => { g with pool := g.pool.filter (fun k => k != i) })
    | _, _ => s.freeThread tid

theorem State.cancelThread_sameNumbers (s : State) (tid : Nat) : SameNumbers s (s.cancelThread tid) := by
  unfold State.cancelThread
  split
  · exact .refl s
  · split
    · exact (s.freeThread_sameNumbers tid).trans (.of_eq rfl rfl)
    · exact s.freeThread_sameNumbers tid

theorem State.cancelThreads_eq (s : State) (l : List Nat) : s.cancelThreads l =
    let freed := ((l.foldl State.cancelThread s).dropArrivals l).dropFlights l
    { freed with threads := freed.threads.filter (fun t => !l.contains t.id) } := rfl

/-- Threads cancelled are gone, the others still stand; the address-space blocks are as they were. -/
theorem State.cancelThreads_spec (s : State) (l : List Nat) : (s.cancelThreads l).asids = s.asids
    ∧ (∀ d ∈ l, (s.cancelThreads l).thread? d = none) ∧ ∀ u, u ∉ l → ((s.cancelThreads l).thread? u).isSome = (s.thread? u).isSome := by
  have hfreed : SameNumbers s (((l.foldl State.cancelThread s).dropArrivals l).dropFlights l) :=
    (List.foldlRecOn (motive := SameNumbers s) l State.cancelThread (.refl s) fun x hx t _ => hx.trans (x.cancelThread_sameNumbers t)).trans
      (.of_eq rfl rfl)
  refine ⟨hfreed.asids, fun d hd => ?_, fun u hu => ?_⟩
  · rw [State.cancelThreads_eq, State.thread?, List.find?_eq_none]
    intro t ht hid
    have hnot := (List.mem_filter.mp ht).2
    rw [beq_iff_eq.mp hid, List.contains_iff_mem.mpr hd] at hnot
    exact nomatch hnot
  · rw [← hfreed.threads u, State.cancelThreads_eq, State.thread?, List.find?_filter, State.thread?]
    congr 2
    funext t
    by_cases h : t.id = u
    · simp [h, hu]
    · simp [h]

/-- Child grids cancelled are gone; threads and address-space blocks are as they were. -/
theorem State.cancelGrids_spec (gs : List Grid) : ∀ s : State, let after := gs.foldl State.cancelGrid s
    after.threads = s.threads ∧ after.asids = s.asids ∧ (∀ e, s.grid? e = none → after.grid? e = none)
    ∧ ∀ g ∈ gs, after.grid? g.event = none := by
  induction gs with
  | nil => exact fun _ => ⟨rfl, rfl, fun _ h => h, fun _ hg => absurd hg List.not_mem_nil⟩
  | cons g gs ih =>
    intro s
    obtain ⟨hthreads, hasids, hnone, hgone⟩ := ih (s.cancelGrid g)
    have hgrid (e : Nat) : (s.cancelGrid g).grid? e = none ↔ ∀ x ∈ s.grids, x.event ≠ g.event → x.event ≠ e := by
      simp [State.grid?, State.cancelGrid]
    refine ⟨hthreads, hasids, fun e he => hnone e ((hgrid e).mpr fun x hx _ => ?_), fun h hh => ?_⟩
    · simpa using List.find?_eq_none.mp he x hx
    · rcases List.mem_cons.mp hh with rfl | hin
      · exact hnone _ ((hgrid _).mpr fun _ _ hne => hne)
      · exact hgone h hin

/-- The descendants of a lost thread cancelled, with the child grids of both. -/
def State.cancelBelow (s : State) (tid : Nat) : State :=
  (s.gridsOf (tid :: s.descendants tid)).foldl State.cancelGrid (s.cancelThreads (s.descendants tid))

theorem State.cancelBelow_spec (s : State) (tid : Nat) : let after := s.cancelBelow tid
    after.asids = s.asids ∧ (∀ d ∈ s.descendants tid, after.thread? d = none)
    ∧ (∀ u, u ∉ s.descendants tid → (after.thread? u).isSome = (s.thread? u).isSome)
    ∧ ∀ g ∈ s.gridsOf (tid :: s.descendants tid), after.grid? g.event = none := by
  intro after
  obtain ⟨hasids, hgone, hstay⟩ := s.cancelThreads_spec (s.descendants tid)
  obtain ⟨hthreads, hasids', -, hgrids⟩ := State.cancelGrids_spec (s.gridsOf (tid :: s.descendants tid)) (s.cancelThreads (s.descendants tid))
  have hfound (u : Nat) : after.thread? u = (s.cancelThreads (s.descendants tid)).thread? u :=
    congrArg (List.find? fun t : Thread => t.id == u) hthreads
  exact ⟨hasids'.trans hasids, fun d hd => (hfound d).trans (hgone d hd), fun u hu => (hfound u).symm ▸ hstay u hu, hgrids⟩

/-! ### A lost thread's frame (R140, R314) -/

/-- A frame used as fetched leaves the thread its number and its status. -/
theorem State.lostFrame_spec {s : State} {held t : Thread} (h : s.lostFrame held = some t) : t.id = held.id ∧ t.status = held.status := by
  unfold State.lostFrame at h
  split at h
  · dsimp only at h
    split at h
    · rw [← Option.some.inj h]
      exact ⟨rfl, rfl⟩
    · exact nomatch h
  · exact nomatch h

/-! ### Replay (R313) -/

/-- Whether a lost thread, or what descends from it, has acted so that it cannot be replayed (R146). -/
def State.mayNotReplay (s : State) (held t : Thread) : Bool :=
  t.frame.nrp || (s.descendants held.id).any (fun d => (s.thread? d).any (fun x => x.frame.nrp))
    || (s.gridsOf (held.id :: s.descendants held.id)).any (·.nrp)

theorem State.mayNotReplay_iff (s : State) (held t : Thread) : s.mayNotReplay held t = true ↔ t.frame.nrp = true
    ∨ (∃ d ∈ s.descendants held.id, ∃ x, s.thread? d = some x ∧ x.frame.nrp = true)
    ∨ ∃ c ∈ s.gridsOf (held.id :: s.descendants held.id), c.nrp = true := by
  simp only [State.mayNotReplay, Bool.or_eq_true, List.any_eq_true, Option.any_eq_true, or_assoc]

/-- What a replayed thread takes from its parent as that stands, or from its launch: its generator, its edge, its `q` copy (R83, R118, R313);
and the state in which the parent's generator has been stepped. -/
def State.inherited (s : State) (t : Thread) (g : Grid) : BitVec 32 × Nat × QCopy × State :=
  match t.frame.parent.bind s.thread? with
  | some p =>
    let stepped := srStep p.ctx.srseed
    (stepped ^^^ 0x5BD1E995, p.outMark, (match s.crewOf p.id with | some c => c.q | none => p.q)
     , s.modThread p.id (fun p => p.modCtx (fun c => { c with srseed := stepped })))
  | none => (BitVec.ofNat 32 ((match s.team? t.team with | some m => m.index | none => 0) * g.rec_.threads + t.index + 1), g.launchTm
     , (({} : QCopy).set 0 (BitVec.ofNat 64 g.rec_.arg)).set 1 (BitVec.ofNat 64 g.event), s)

theorem State.inherited_sameNumbers (s : State) (t : Thread) (g : Grid) :
    SameNumbers s (s.inherited t g).2.2.2 ∧ (s.inherited t g).2.2.2.grids = s.grids := by
  unfold State.inherited
  split
  · exact ⟨State.modThread_sameNumbers _ _ fun _ => rfl, rfl⟩
  · exact ⟨.refl s, rfl⟩

/-- The views of a replayed thread: of its kernel where it was spawned, of its launch record else (R165, R166). -/
def State.replayViews (s : State) (t : Thread) (g : Grid) : List View :=
  if t.spawned then s.viewsAt g.asid t.frame.entry g.record else recordViews g.record

theorem State.replayViews_congr {s s' : State} (h : s'.asids = s.asids) (t : Thread) (g : Grid) : s'.replayViews t g = s.replayViews t g := by
  simp only [State.replayViews, State.viewsAt, State.asidBlock, State.asid?, h]

/-- The record of a replay (R311 ACTION 5). -/
def State.recordReplay (s : State) (t : Thread) : State :=
  s.writeRecord (s.placeOf t).die { s.recordOf t with cause := Cause.coreFail, pkt := t.frame.entry, action := 5, handler := false }

/-- A thread put in the place of the one of its number. -/
theorem State.thread?_modThread_const (s : State) {tid : Nat} {t : Thread} (hid : t.id = tid) (u : Nat) :
    (s.modThread tid (fun _ => t)).thread? u = if u = tid then (s.thread? tid).map (fun _ => t) else s.thread? u := by
  have hsame : ∀ l : List Thread, modFirst (fun x => x.id == tid) (fun _ => t) l
      = modFirst (fun x => x.id == tid) (fun x => if x.id = tid then t else x) l := by
    intro l
    induction l with
    | nil => rfl
    | cons x xs ih =>
      simp only [modFirst, ih]
      split
      next h => rw [if_pos (beq_iff_eq.mp h)]
      next => rfl
  have hkeeps : ∀ x : Thread, (if x.id = tid then t else x).id = x.id := fun x => by split <;> simp [*]
  rw [State.modThread, hsame]
  refine (State.thread?_modThread s tid u _ hkeeps).trans ?_
  split
  · cases h : s.thread? tid with
    | none => rfl
    | some x =>
      have hx : x.id = tid := by simpa using List.find?_some h
      simp [hx]
  · rfl

section
variable {s : State} {held t : Thread} {g : Grid} (hheld : s.thread? held.id = some held) (hg : s.gridOf held = some g)
  (hrun : held.status ≠ .halted)

include hheld in
theorem State.replayOrHold_eq : s.replayOrHold held.id =
    if s.frameFenced held = true then { s with mem := { s.mem with heldReplays := s.mem.heldReplays ++ [held.id] } } else s.replay held.id := by
  simp only [State.replayOrHold, hheld]
  rfl

include hheld hg hrun

theorem State.replay_of_bad (hbad : s.lostFrame held = none) : s.replay held.id = s.replayError held 0x73 := by
  simp only [State.replay, hheld, hg, hbad, beq_iff_eq, if_neg hrun]
  rfl

section
variable (hframe : s.lostFrame held = some t)
include hframe

theorem State.replay_refused (h : t.frame.replay ≥ 2 ∨ s.mayNotReplay held t = true) : s.replay held.id = s.replayError t 0x74 := by
  have hrun' : t.status ≠ .halted := (State.lostFrame_spec hframe).2 ▸ hrun
  have hno : (decide (t.frame.replay ≥ 2) || s.mayNotReplay held t) = true := by simpa using h
  simp only [State.replay, hheld, hg, hframe, beq_iff_eq, if_neg hrun']
  exact if_pos hno

theorem State.replay_recreates (hcount : t.frame.replay < 2) (hmay : s.mayNotReplay held t = false) : s.replay held.id =
    let from_ := (s.cancelBelow held.id).inherited t g
    ((from_.2.2.2.modThread held.id (fun _ => t.recreate (from_.2.2.2.replayViews t g) from_.1 from_.2.1 from_.2.2.1
      (s.writtenBy (held.id :: s.descendants held.id)))).storeFrame held.id).recordReplay t := by
  have hrun' : t.status ≠ .halted := (State.lostFrame_spec hframe).2 ▸ hrun
  have hyes : ¬(decide (t.frame.replay ≥ 2) || s.mayNotReplay held t) = true := by simp [hcount, hmay]
  simp only [State.replay, hheld, hg, hframe, beq_iff_eq, if_neg hrun']
  exact (if_neg hyes).trans rfl

end
end

end Sys2Proof.Machine

/-! SUPPORT. A thread replayed, and the events of failures: of a core, a lane, a channel and a quadrant, and a fault record freed (spec/11
R311-R313, R315). -/
namespace Sys2Proof.Machine

/-! ### A thread replayed (R313) -/

section
variable {s : State} {held t : Thread} {g : Grid} (hheld : s.thread? held.id = some held) (hg : s.gridOf held = some g)
  (hrun : held.status ≠ .halted) (hframe : s.lostFrame held = some t) (hself : held.id ∉ s.descendants held.id)
include hheld hg hrun hframe hself

/-- A thread that may be replayed stands recreated, what descends from it is gone, and so are the child grids of both. -/
theorem State.replay_spec (hcount : t.frame.replay < 2) (hmay : s.mayNotReplay held t = false) : let after := s.replay held.id
    (∃ seed edge q, after.thread? held.id
      = some (t.recreate (s.replayViews t g) seed edge q (s.writtenBy (held.id :: s.descendants held.id))))
    ∧ (∀ d ∈ s.descendants held.id, after.thread? d = none)
    ∧ ∀ c ∈ s.gridsOf (held.id :: s.descendants held.id), after.grid? c.event = none := by
  intro after
  obtain ⟨hasids, hgone, hstay, hgrids⟩ := s.cancelBelow_spec held.id
  obtain ⟨⟨hnumbers, hasids'⟩, hgrids'⟩ := (s.cancelBelow held.id).inherited_sameNumbers t g
  have hafter : after = _ := State.replay_recreates hheld hg hrun hframe hcount hmay
  dsimp only at hafter
  rw [State.replayViews_congr (hasids'.trans hasids)] at hafter
  have hid : t.id = held.id := (State.lostFrame_spec hframe).1
  have hthread (k : Nat) : after.thread? k = _ :=
    (congrArg (State.thread? · k) hafter).trans ((State.thread?_writeRecord _ _ _ _).trans
      ((State.thread?_storeFrame _ _ _).trans (State.thread?_modThread_const _ (by exact hid) k)))
  have hgrid (e : Nat) : after.grid? e = (s.cancelBelow held.id).grid? e :=
    (congrArg (State.grid? · e) hafter).trans ((State.grid?_writeRecord _ _ _ _).trans
      (by rw [State.grid?, State.storeFrame_grids, State.modThread_grids, hgrids']; rfl))
  refine ⟨?_, fun d hd => ?_, fun c hc => (hgrid _).trans (hgrids c hc)⟩
  · have hthere : (((s.cancelBelow held.id).inherited t g).2.2.2.thread? held.id).isSome = true :=
      (hnumbers held.id).trans ((hstay _ hself).trans (by rw [hheld]; rfl))
    obtain ⟨v, hv⟩ := Option.isSome_iff_exists.mp hthere
    exact ⟨_, _, _, by rw [hthread, if_pos rfl, hv, Option.map_some]⟩
  · have hne : d ≠ held.id := fun h => hself (h ▸ hd)
    have hnone := hnumbers d
    rw [hgone d hd, Option.isSome_none, Option.isSome_eq_false_iff, Option.isNone_iff_eq_none] at hnone
    rw [hthread, if_neg hne, hnone]

end

/-! ### CORE_FAIL (R313) -/

theorem coreFail_next {s : State} {p : Place} (hstage : 6 ≤ s.host.stage) (hdie : p.die < 4) (hcluster : p.cluster < 16) (hcore : p.core < 8)
    (hnot : p ∉ s.host.lostCores) : exec (.coreFail p) s = .next (s.failCore p) := by
  change execCoreFail p s = _
  rw [execCoreFail, if_neg (by simp [hdie, hcluster, hcore, hnot, hstage])]

/-! ### LANE_FAIL (R312) -/

/-- A crew stands with the members that it had. -/
def State.CrewStands (s : State) (c : Crew) : Prop := ∃ d, s.crew? c.id = some d ∧ d.members = c.members

/-- A crew stands in its slice's queue, with the members that it had. -/
def State.CrewQueued (s : State) (c : Crew) : Prop := ∃ d, s.crew? c.id = some d ∧ d.lane = none ∧ d.members = c.members

/-- A crew put back at the tail: its own number finds it there, every other crew is as it was. -/
theorem State.crew?_requeue_of {s : State} {c d : Crew} (k : Nat) (hd : s.crew? c.id = some d) :
    ∃ x, (s.requeue k).crew? c.id = some x ∧ x.members = d.members ∧ (c.id = k ∨ d.lane = none → x.lane = none) := by
  by_cases hk : c.id = k
  · have hid : d.id = c.id := by simpa using List.find?_some hd
    rw [← hid] at hd hk ⊢
    subst hk
    exact ⟨s.atTail d, (State.crew?_requeue hd).1, rfl, fun _ => rfl⟩
  · have hother : (s.requeue k).crew? c.id = s.crew? c.id := by
      unfold State.requeue
      rw [State.crew?_modCrew, if_neg hk]
      · rfl
      · exact fun _ => rfl
    exact ⟨d, hother.trans hd, rfl, fun h => h.resolve_left hk⟩

theorem State.CrewStands.requeue {s : State} {c : Crew} (h : s.CrewStands c) (k : Nat) : (s.requeue k).CrewStands c := by
  obtain ⟨d, hd, hmembers⟩ := h
  obtain ⟨x, hx, hsame, -⟩ := State.crew?_requeue_of k hd
  exact ⟨x, hx, hsame.trans hmembers⟩

theorem State.CrewQueued.requeue {s : State} {c : Crew} (h : s.CrewQueued c) (k : Nat) : (s.requeue k).CrewQueued c := by
  obtain ⟨d, hd, hlane, hmembers⟩ := h
  obtain ⟨x, hx, hsame, hqueued⟩ := State.crew?_requeue_of k hd
  exact ⟨x, hx, hqueued (.inr hlane), hsame.trans hmembers⟩

/-- Of several crews put back each that stands is queued. -/
theorem State.requeues_crewQueued {c : Crew} (ids : List Nat) : ∀ {s : State}, c.id ∈ ids → s.CrewStands c →
    (ids.foldl State.requeue s).CrewQueued c := by
  induction ids with
  | nil => exact fun h => absurd h List.not_mem_nil
  | cons k ks ih =>
    intro s hc hstands
    by_cases hk : c.id = k
    · obtain ⟨d, hd, hmembers⟩ := hstands
      obtain ⟨x, hx, hsame, hqueued⟩ := State.crew?_requeue_of k hd
      exact List.foldlRecOn (motive := fun x : State => x.CrewQueued c) ks _ ⟨x, hx, hqueued (.inl hk), hsame.trans hmembers⟩
        fun y hy j _ => hy.requeue j
    · exact ih ((List.mem_cons.mp hc).resolve_left hk) (hstands.requeue k)

theorem State.requeues_lanes (ids : List Nat) (s : State) : (ids.foldl State.requeue s).lanes = s.lanes :=
  List.foldlRecOn (motive := fun x : State => x.lanes = s.lanes) _ _ rfl fun _ hx _ _ => hx

/-- The record of a lane marked as failed. -/
def State.failLane (s : State) (p : Place) (slice lane : Nat) : State :=
  { s with lanes := s.lanes.filter (fun l => !(l.place == p && l.slice == slice && l.lane == lane))
                    ++ [{ s.laneAt p slice lane with failed := true }] }

/-- The record that stands for a lane is that lane's. -/
theorem State.laneAt_key (s : State) (p : Place) (slice lane : Nat) :
    ((s.laneAt p slice lane).place == p && (s.laneAt p slice lane).slice == slice && (s.laneAt p slice lane).lane == lane) = true := by
  unfold State.laneAt
  cases h : s.lanes.find? (fun l => l.place == p && l.slice == slice && l.lane == lane) with
  | none => simp
  | some l =>
    have hl := List.find?_some h
    exact hl

theorem State.laneAt_failLane (s : State) (p : Place) (slice lane : Nat) : ((s.failLane p slice lane).laneAt p slice lane).failed = true := by
  have hkey := s.laneAt_key p slice lane
  have hnone : (s.lanes.filter (fun l => !(l.place == p && l.slice == slice && l.lane == lane))).find?
      (fun l => l.place == p && l.slice == slice && l.lane == lane) = none := by
    rw [List.find?_eq_none]
    intro l hl
    have hnot := (List.mem_filter.mp hl).2
    rw [Bool.not_eq_true'] at hnot
    exact hnot.trans_ne Bool.false_ne_true
  have hfound : (s.failLane p slice lane).lanes.find? (fun l => l.place == p && l.slice == slice && l.lane == lane)
      = some { s.laneAt p slice lane with failed := true } := by
    rw [State.failLane, List.find?_append, hnone, Option.none_or, List.find?_singleton]
    exact if_pos hkey
  rw [State.laneAt, hfound]
  rfl

theorem laneFail_next {s : State} {p : Place} {slice lane : Nat} (hslice : slice < 16) (hlane : lane < 4)
    (hworks : (s.laneAt p slice lane).failed = false) : exec (.laneFail p slice lane) s
      = .next (((s.activeSet p slice lane).map (·.id)).foldl State.requeue (s.failLane p slice lane)) := by
  change execLaneFail p slice lane s = _
  unfold execLaneFail
  exact if_neg (by simp [hslice, hlane, hworks])

/-- The lane is failed, and the crews of its active set wait in their slice's queue. -/
theorem State.laneFailed_spec (s : State) (p : Place) (slice lane : Nat) :
    let after := ((s.activeSet p slice lane).map (·.id)).foldl State.requeue (s.failLane p slice lane)
    (after.laneAt p slice lane).failed = true ∧ ∀ c ∈ s.activeSet p slice lane, s.crew? c.id = some c → after.CrewQueued c := by
  intro after
  refine ⟨?_, fun c hc hfound => State.requeues_crewQueued _ (List.mem_map_of_mem hc) ⟨c, hfound, rfl⟩⟩
  have hlanes : after.lanes = (s.failLane p slice lane).lanes := State.requeues_lanes _ _
  rw [State.laneAt, hlanes]
  exact s.laneAt_failLane p slice lane

/-! ### HBM_CHANNEL_FAIL and QUAD_FAIL (R312) -/

theorem hbmChannelFail_next {s : State} {stack channel : Nat} (hstack : stack ≤ 11) (hchannel : channel ≤ 31)
    (hnot : (stack, channel) ∉ s.mem.failedChannels) : exec (.hbmChannelFail stack channel) s
      = .next { s with mem := { s.mem with failedChannels := s.mem.failedChannels ++ [(stack, channel)] } } := by
  change execHbmChannelFail stack channel s = _
  rw [execHbmChannelFail, if_neg (by simp [hnot, hstack, hchannel])]
  rfl

/-- A grid that waits on a failed quadrant takes its error (R312). -/
def State.quadError (s : State) (e : Nat) : State :=
  let asid := match s.grid? e with | some g => g.asid | none => 0
  (s.writeRecord 0 { cause := Cause.quadFail, action := 2, noThread := true, asid, grid := e }).endGrid Cause.quadFail 12 e

theorem State.quadError_mem (s : State) (e : Nat) : (s.quadError e).mem = s.mem :=
  (State.endGrid_halts _ _ _ _).mem.trans (State.writeRecord_mem _ _ _)

theorem quadFail_next {s : State} {quad : Nat} {x : Receiver} (hquad : quad < 4) (hx : s.time.receivers[4 + quad]? = some x)
    (hfenced : x.fenced = true) (hlong : x.fencedAt + 10000000 ≤ s.time.hub) (hwaits : s.waitingOnQuad quad ≠ []) : exec (.quadFail quad) s
      = .next ((s.waitingOnQuad quad).foldl State.quadError (s.modMem (fun m => { m with failedQuads := insertNat quad m.failedQuads }))) := by
  change execQuadFail quad s = _
  unfold execQuadFail
  dsimp only
  rw [State.receiver_of_getElem? hx, if_neg (by simp [hquad, hfenced, hlong, hwaits])]
  rfl

theorem State.quadErrors_mem (es : List Nat) (s : State) : (es.foldl State.quadError s).mem = s.mem :=
  List.foldlRecOn (motive := fun x : State => x.mem = s.mem) _ _ rfl fun x hx e _ => (x.quadError_mem e).trans hx

/-! ### FAULT_RECORD_FREE (R311) -/

/-- A thread halted for the host whose record is freed names no record any more. -/
def Thread.recordGone (t : Thread) (die index : Nat) : Thread :=
  match t.status with
  | .haltedDbg (some i) b => if i == index && recordDie b == die then { t with status := .haltedDbg (some 64) b } else t
  | _ => t

theorem Thread.recordGone_waits {t : Thread} {die index b : Nat} (h : (t.recordGone die index).status = .haltedDbg none b) :
    t.status = .haltedDbg none b := by
  unfold Thread.recordGone at h
  split at h
  · split at h
    · exact nomatch h
    · exact h
  · exact h

theorem faultRecordFree_next {s : State} {die index : Nat} (hheld : ∃ r ∈ s.records, r.die = die ∧ r.index = index)
    (hnone : ∀ t ∈ s.threads, ∀ b, t.status ≠ .haltedDbg none b) : exec (.faultRecordFree die index) s = .next { s with
      records := s.records.filter (fun r => !(r.die == die && r.index == index)), threads := s.threads.map (·.recordGone die index) } := by
  have hany : (!s.records.any (fun r => r.die == die && r.index == index)) = false := by simpa using hheld
  have hwaits : (s.threads.map (·.recordGone die index)).find?
      (fun t => match t.status with | .haltedDbg none b => recordDie b == die | _ => false) = none := by
    rw [List.find?_eq_none]
    intro u hu
    obtain ⟨t, ht, rfl⟩ := List.mem_map.mp hu
    split
    next b hb => exact absurd (Thread.recordGone_waits hb) (hnone t ht b)
    next => exact Bool.false_ne_true
  change execFaultRecordFree die index s = _
  unfold execFaultRecordFree
  rw [hany, if_neg Bool.false_ne_true]
  dsimp only
  split
  next => rfl
  next t ht => exact nomatch hwaits.symm.trans ht

end Sys2Proof.Machine

namespace Sys2Proof.Claims
open Sys2Proof.Machine

/-- Settles O56: each event has, where its condition holds, the effect that its lemma gives, and a lost thread is refused or recreated. -/
theorem failureEvents : Obligations.FailureEvents := by
  unfold Obligations.FailureEvents
  refine ⟨?fails, ?core, ?lost, ?replay, ?lane, ?channel, ?quad, ?record⟩
  case fails => exact fun s p hstage hdie hcluster hcore hnot => coreFail_next hstage hdie hcluster hcore hnot
  case core =>
    intro s p hnone after spares
    obtain ⟨hhost, hl1, htables, hlanes, hthreads⟩ := State.failCore_alone_spec hnone
    rw [State.coreGone_host] at hhost
    refine ⟨fun h => ?_, fun h => ?_, hl1, htables, hlanes, hthreads⟩
    · rw [hhost, if_pos h]
    · rw [hhost, if_neg h]
      exact ⟨rfl, getD_modAt_pred _ _⟩
  case lost =>
    intro s p hd hdteams
    obtain ⟨hpreempted, hthreads, hflights⟩ := s.uprooted_spec p
    refine ⟨s.uprooted p, s.lostOn p, s.failCore_eq p, fun t ht => ?_, fun m hm hplace hres => ?_, fun t ht _ => ?_, hflights⟩
    · simp only [State.mem_lostOn hd ht, State.mem_teamsOn, Team.loses_iff, and_assoc, eq_comm (a := t.team)]
      constructor
      · rintro ⟨m, hm, hplace, hret, hhalt, hteam, hloses⟩
        exact ⟨m, hm, hteam, hplace, hret, hhalt, hloses⟩
      · rintro ⟨m, hm, hteam, hplace, hret, hhalt, hloses⟩
        exact ⟨m, hm, hplace, hret, hhalt, hteam, hloses⟩
    · have hthere : s.team? m.id = some m := find?_key_of_mem hdteams hm
      exact hpreempted m (State.mem_teamsOn.mpr ⟨hm, hplace, by simp [hres], by simp [hres]⟩) hres (by rw [hthere]; rfl)
    · exact hthreads t.id t (find?_key_of_mem hd ht)
  case replay =>
    intro s held t g hheld hg hrun
    refine ⟨fun h => ?_, fun h => ?_, State.replay_of_bad hheld hg hrun, fun hframe hself => ?_⟩
    · rw [State.replayOrHold_eq hheld, if_pos h]
    · rw [State.replayOrHold_eq hheld, h]; rfl
    · intro below children acted
      refine ⟨fun h => State.replay_refused hheld hg hrun hframe (h.imp_right (State.mayNotReplay_iff s held t).mpr), fun hcount hmay => ?_⟩
      have hnot : s.mayNotReplay held t = false := Bool.eq_false_iff.mpr fun h => hmay ((State.mayNotReplay_iff s held t).mp h)
      obtain ⟨⟨seed, edge, q, hfound⟩, hgone, hgrids⟩ := State.replay_spec hheld hg hrun hframe hself hcount hnot
      exact ⟨_, hfound, rfl, rfl, rfl, rfl, rfl, rfl, rfl, rfl, rfl, rfl, ⟨_, rfl, Nat.le_max_right _ _⟩, hgone, hgrids⟩
  case lane =>
    intro s p slice lane hslice hlane hworks
    exact ⟨_, laneFail_next hslice hlane hworks, s.laneFailed_spec p slice lane⟩
  case channel => exact fun s stack channel hstack hchannel hnot => hbmChannelFail_next hstack hchannel hnot
  case quad =>
    intro s quad x hquad hx hfenced hlong hwaits
    refine ⟨_, quadFail_next hquad hx hfenced hlong hwaits, ?_⟩
    rw [State.quadErrors_mem]
    exact mem_insertNat.mpr (.inl rfl)
  case record =>
    intro s die index hheld hnone
    refine ⟨_, faultRecordFree_next hheld hnone, fun r => ?_⟩
    simp [imp_iff_not_or]

end Sys2Proof.Claims

/-! SUPPORT. Steps, publication, view slots and the version pool (spec/12 R319, R329-R332, R338): what binding and releasing a view slot
do, then each word where its conditions hold. -/
namespace Sys2Proof.Machine

/-! ### View slots (R330-R332) -/

theorem State.setSlot_vslots (s : State) (asid n : Nat) (x : ViewSlot) :
    ((s.setSlot asid n x).asidBlock asid).vslots = (s.asidBlock asid).vslots.modify n (fun _ => x) := by
  rw [State.setSlot, State.asidBlock_modAsid]
  · exact modAt_eq_modify _ _ _
  · exact fun _ => rfl

@[simp] theorem State.setSlot_mem (s : State) (asid n : Nat) (x : ViewSlot) : (s.setSlot asid n x).mem = s.mem := by
  unfold State.setSlot State.modAsid
  split <;> rfl

/-- Dropping a slot's lines leaves the blocks of the address spaces. -/
theorem State.dropSlot_asidBlock (s : State) (asid n b : Nat) : (s.dropSlot asid n).asidBlock b = s.asidBlock b := by
  have honly : (s.giveUp (fun l => l.asid == asid && l.slot == n)).asids = s.asids :=
    (congrArg State.asids ((State.giveUp_spec s _).1 : _ = _) :)
  change ((s.giveUp (fun l => l.asid == asid && l.slot == n)).asids.find? (fun x => x.id == b)).getD { id := b } = _
  rw [honly]
  rfl

theorem State.dropSlot_l2 (s : State) (asid n : Nat) :
    (s.dropSlot asid n).mem.l2 = s.mem.l2.filter (fun l => !(l.asid == asid && l.slot == n)) := (State.giveUp_spec s _).2.1

section
variable {s : State} {asid n v : Nat} {x : ViewSlot} (hlow : 1 ≤ n) (hhigh : n ≤ 15) (hx : (s.asidBlock asid).vslots[n]? = some x)
include hlow hhigh hx

/-- `vbind` for a slot that is there: the cases of R332 in their order. -/
theorem State.bindSlot_eq : s.bindSlot asid n v =
    if (s.asidBlock asid).published v = false then (2, x.readers, s)
    else if x.bound = true ∧ x.version = v then
      if x.readers = 65535 then (4, x.readers, s) else (0, x.readers + 1, s.setSlot asid n { x with readers := x.readers + 1 })
    else if x.bound = true then (1, x.readers, s)
    else if (s.asidBlock asid).held v = false then (3, x.readers, s)
    else (0, 1, s.setSlot asid n { bound := true, readers := 1, version := v }) := by
  have hslot : ¬(n = 0 ∨ n > 15) := by omega
  simp [State.bindSlot, hslot, List.getD_eq_getElem?_getD, hx]

/-- `vrel` for a slot that is there: the cases of R332 in their order. -/
theorem State.releaseSlot_eq : s.releaseSlot asid n =
    if x.bound = false then (1, x.readers, s)
    else if x.readers ≤ 1 then (0, 0, (s.dropSlot asid n).setSlot asid n { x with bound := false, readers := 0 })
    else (0, x.readers - 1, s.setSlot asid n { x with readers := x.readers - 1 }) := by
  have hslot : ¬(n = 0 ∨ n > 15) := by omega
  simp [State.releaseSlot, hslot, List.getD_eq_getElem?_getD, hx]

theorem State.bindSlot_unpublished (hpub : (s.asidBlock asid).published v = false) : s.bindSlot asid n v = (2, x.readers, s) := by
  rw [State.bindSlot_eq hlow hhigh hx, if_pos hpub]

section
variable (hpub : (s.asidBlock asid).published v = true)
include hpub

theorem State.bindSlot_busy (hbound : x.bound = true) (hother : x.version ≠ v) : s.bindSlot asid n v = (1, x.readers, s) := by
  simp [State.bindSlot_eq hlow hhigh hx, hpub, hbound, hother]

/-- A further reader of the version that the slot is bound to. -/
theorem State.bindSlot_again (hbound : x.bound = true) (hsame : x.version = v) (hroom : x.readers < 65535) :
    s.bindSlot asid n v = (0, x.readers + 1, s.setSlot asid n { x with readers := x.readers + 1 }) := by
  simp [State.bindSlot_eq hlow hhigh hx, hpub, hbound, hsame, hroom.ne]

theorem State.bindSlot_first (hbound : x.bound = false) (hheld : (s.asidBlock asid).held v = true) :
    s.bindSlot asid n v = (0, 1, s.setSlot asid n { bound := true, readers := 1, version := v }) := by
  simp [State.bindSlot_eq hlow hhigh hx, hpub, hbound, hheld]

end

theorem State.releaseSlot_unbound (hbound : x.bound = false) : s.releaseSlot asid n = (1, x.readers, s) := by
  rw [State.releaseSlot_eq hlow hhigh hx, if_pos hbound]

section
variable (hbound : x.bound = true)
include hbound

/-- One of several readers leaves. -/
theorem State.releaseSlot_shared (hreaders : 1 < x.readers) :
    s.releaseSlot asid n = (0, x.readers - 1, s.setSlot asid n { x with readers := x.readers - 1 }) := by
  simp [State.releaseSlot_eq hlow hhigh hx, hbound, hreaders.not_ge]

/-- The last reader leaves. -/
theorem State.releaseSlot_last (hreaders : x.readers = 1) :
    s.releaseSlot asid n = (0, 0, (s.dropSlot asid n).setSlot asid n { x with bound := false, readers := 0 }) := by
  simp [State.releaseSlot_eq hlow hhigh hx, hbound, hreaders]

end

end

/-- Of a slot whose lines were dropped before it was set no line stands in an L2 (R332). -/
theorem State.slot_ne_of_mem_dropped {s : State} {asid n : Nat} {x : ViewSlot} {l : L2Line}
    (hl : l ∈ ((s.dropSlot asid n).setSlot asid n x).mem.l2) (hasid : l.asid = asid) : l.slot ≠ n := by
  rw [State.setSlot_mem, State.dropSlot_l2] at hl
  simpa [hasid] using (List.mem_filter.mp hl).2

/-! ### Uniform words (R108) -/

/-- A uniform word whose first active member, if there is one, passes its checks has its effect with that member. -/
theorem issueUniform_head {s : State} {i : IssueCtx} (p : Pipe) {v : IssueCtx → Thread → Verdict} (e : IssueCtx → Thread → State → State)
    (hi : s.ctl.issue = some i) (hv : ∀ t, (i.active.filterMap i.src).head? = some t → v i t = .pass) :
    issueUniform s p v e = .next (match (i.active.filterMap i.src).head? with | some t => e i t s | none => s) := by
  cases hactive : i.active.filterMap i.src with
  | nil =>
    unfold issueUniform
    rw [issueWord_runs (hi := hi)] <;> simp [hactive]
  | cons t rest => exact issueUniform_runs p e hi hactive (hv t (by rw [hactive]; rfl))

end Sys2Proof.Machine

namespace Sys2Proof.Claims
open Sys2Proof.Machine

/-- A participant with the first one's number is the first. -/
theorem head?_parts_of_id {i : IssueCtx} {t : Thread} (ht : t ∈ i.parts) (h : (i.parts.take 1).any (fun u => u.id == t.id) = true) :
    i.parts.head? = some t := by
  obtain ⟨u, hu, hid⟩ := List.any_eq_true.mp h
  obtain rfl : u = t := IssueCtx.parts_id_inj (List.mem_of_mem_take hu) ht (beq_iff_eq.mp hid)
  rw [List.take_one] at hu
  exact Option.mem_toList.mp hu

/-- The number that register a gives in a thread: a step, a slot, or a version and its region. -/
def valueIn (a : BitVec 6) (i : IssueCtx) (t : Thread) : Nat := ((Operand.vv a i.pfx.ua).val t i.beforeQ).toNat

/-- The version that register b gives in a thread. -/
def versionIn (b : BitVec 6) (i : IssueCtx) (t : Thread) : Nat := ((Operand.vv b i.pfx.ub).val t i.beforeQ).toNat % 2 ^ 24

/-- The operands of a `vq` are free in a thread: mode 1 reads none (R338). -/
def PoolQueryFree (d a : BitVec 6) (m : BitVec 2) (i : IssueCtx) (t : Thread) : Prop :=
  FieldsFree t i.beforeQ (if m = 1 then [.vv d i.pfx.ud] else [.vv d i.pfx.ud, .vv a i.pfx.ua])
    (if m = 0 then [(.vv a i.pfx.ua, 0, 3)] else if m = 1 then [] else [(.vv a i.pfx.ua, 0, 1)])

/-- What a `vq` leaves in a thread: its answer in register d (R338). -/
def landQuery (s : State) (d a : BitVec 6) (m : BitVec 2) (i : IssueCtx) (t : Thread) : State :=
  s.land64 t.id ((Operand.vv d i.pfx.ud).dst i t) (BitVec.ofNat 64 (s.poolQuery (s.asidOf t) m.toNat (valueIn a i t)))

section
variable {s : State} {i : IssueCtx} (d a b : BitVec 6) (hi : s.ctl.issue = some i)
include hi

theorem exec_vstep_next (m : BitVec 2)
    (hfree : if m = 0 then ∀ t, i.parts.head? = some t → FieldsFree t i.beforeQ [.vv a i.pfx.ua] [(.vv a i.pfx.ua, 0, 3)]
      else i.beforeStep ≠ 0xFFFFFF) :
    exec (.vstep a m) s = .next (match i.parts with
      | t :: _ => s.modCrew i.crew (fun c => { c with step := if m = 0 then valueIn a i t % 2 ^ 24 else i.beforeStep + 1 })
      | [] => s) := by
  change execVstep a m s = _
  simp only [execVstep, State.pfx_of hi, fld_zero]
  refine (issueWord_runs _ _ hi fun t ht => ?_).trans rfl
  split
  next hfirst =>
    split
    next hm => exact partialVerdict_pass ((if_pos hm ▸ hfree :) t (head?_parts_of_id ht hfirst))
    next hm =>
      rw [if_neg hm] at hfree
      exact (Verdict.require_pass _ _ _).mpr (bne_iff_ne.mpr hfree)
  next => rfl

theorem exec_vpub_next (la : BitVec 4) (sb : BitVec 3)
    (hfree : Each i (fun t => SlotFree s t.id sb.toNat 1 ∧ NoneOutstanding s t.id Flight.isWrite
      ∧ FieldsFree t i.beforeQ [.vv d false, .vv a i.pfx.ua] [(.vv a i.pfx.ua, 0, 3), (.vv a i.pfx.ua, 4, 1)])) :
    exec (.vpub d a la sb) s = .next (s.launchEach i i.parts own la.toNat (some sb.toNat) .eng (fun t =>
      .vpub (valueIn a i t % 2 ^ 24) (valueIn a i t / 2 ^ 32 % 8) ((Operand.vv d false).dst i t))) := by
  have hregion : ∀ v, fld v 32 3 = v / 2 ^ 32 % 8 := fun v => fld_eq v 32 3
  change execVpub d a la sb s = _
  simp only [execVpub, State.pfx_of hi, fld_zero, hregion]
  refine (issueWord_runs _ _ hi fun t ht => ?_).trans rfl
  obtain ⟨hroom, hdone, hfields⟩ := hfree t ht
  simp only [Verdict.andThen_pass]
  exact ⟨⟨State.slotVerdict_pass hroom, State.waitFor_pass hdone⟩, fieldVerdict_pass hfields⟩

theorem exec_vbind_next (hfree : Each i (fun t => FieldsFree t i.beforeQ [.vv d false, .vv a i.pfx.ua, .vv b i.pfx.ub]
      [(.vv a i.pfx.ua, 0, 8), (.vv b i.pfx.ub, 0, 3)])) :
    exec (.vbind d a b) s = .next (s.each i.parts (fun s t =>
      let r := s.bindSlot (s.asidOf t) (valueIn a i t) (versionIn b i t)
      r.2.2.land64 t.id ((Operand.vv d false).dst i t) (BitVec.ofNat 64 (r.2.1 * 2 ^ 16 + r.1)))) := by
  change execVbind d a b s = _
  simp only [execVbind, State.pfx_of hi, fld_zero]
  exact (issueWord_runs _ _ hi fun t ht => partialVerdict_pass (hfree t ht)).trans rfl

theorem exec_vrel_next (hfree : Each i (fun t => FieldsFree t i.beforeQ [.vv d false, .vv a i.pfx.ua] [(.vv a i.pfx.ua, 0, 8)])) :
    exec (.vrel d a) s = .next (s.each i.parts (fun s t =>
      let r := s.releaseSlot (s.asidOf t) (valueIn a i t)
      r.2.2.land64 t.id ((Operand.vv d false).dst i t) (BitVec.ofNat 64 (r.2.1 * 2 ^ 16 + r.1)))) := by
  change execVrel d a s = _
  simp only [execVrel, State.pfx_of hi]
  exact (issueWord_runs _ _ hi fun t ht => partialVerdict_pass (hfree t ht)).trans rfl

theorem exec_vq_next {m : BitVec 2} (hm : m.toNat ≤ 2)
    (hfree : if i.pfx.ud then ∀ t, (i.active.filterMap i.src).head? = some t → PoolQueryFree d a m i t else Each i (PoolQueryFree d a m i)) :
    exec (.vq d a m) s = .next (if i.pfx.ud then match (i.active.filterMap i.src).head? with | some t => landQuery s d a m i t | none => s
      else s.each i.parts (fun s t => landQuery s d a m i t)) := by
  change execVq d a m s = _
  unfold execVq
  rw [State.pfx_of hi]
  extract_lets od oa verdict one
  have hpass : ∀ t, PoolQueryFree d a m i t → verdict i t = .pass := fun t ht => by
    obtain rfl | rfl | rfl : m = 0 ∨ m = 1 ∨ m = 2 := by bv_omega
    all_goals exact partialVerdict_pass ht
  change (if i.pfx.ud = true then _ else _) = _
  split
  next hud => exact issueUniform_head _ _ hi fun t ht => hpass t ((if_pos hud ▸ hfree :) t ht)
  next hud => exact issueWord_runs _ _ hi fun t ht => hpass t ((if_neg hud ▸ hfree :) t ht)

end

/-- Settles O47: each word has the effect that its lemma gives, and a view slot binds and is released as the lemmas of its cases say. -/
theorem versionWords : Obligations.VersionWords := by
  unfold Obligations.VersionWords
  intro d a b la sb m od oa ob va
  refine ⟨fun _ s i hi hfree => exec_vstep_next a hi m hfree, fun s i hi hfree => exec_vpub_next d a hi la sb hfree,
    fun s i hi hfree => exec_vbind_next d a b hi hfree, fun s i hi hfree => exec_vrel_next d a hi hfree,
    fun hm => fun s i hi hfree => exec_vq_next d a hi hm hfree, ?slots⟩
  intro s asid n v x hlow hhigh hx blocks set
  refine ⟨State.bindSlot_unpublished hlow hhigh hx, State.bindSlot_busy hlow hhigh hx, fun hpub hbound hsame hroom => ?again,
    fun hpub hbound hheld => ?first, State.releaseSlot_unbound hlow hhigh hx, fun hbound hreaders => ?shared, fun hbound hreaders => ?last⟩
  case again => exact ⟨_, State.bindSlot_again hlow hhigh hx hpub hbound hsame hroom, State.setSlot_vslots _ _ _ _⟩
  case first => exact ⟨_, State.bindSlot_first hlow hhigh hx hpub hbound hheld, State.setSlot_vslots _ _ _ _⟩
  case shared => exact ⟨_, State.releaseSlot_shared hlow hhigh hx hbound hreaders, State.setSlot_vslots _ _ _ _⟩
  case last =>
    refine ⟨_, State.releaseSlot_last hlow hhigh hx hbound hreaders, ?_, fun l hl hasid => State.slot_ne_of_mem_dropped hl hasid⟩
    exact (State.setSlot_vslots _ _ _ _).trans (by rw [State.dropSlot_asidBlock])

end Sys2Proof.Claims

/-! SUPPORT. The grids made ready at the end of a step (spec/16 R423): which of them still wait, and what their dependences come to. -/
namespace Sys2Proof.Machine

theorem State.refreshReady_only (s : State) : ∃ gs c, s.refreshReady = { s with grids := gs, ctl := c } := by
  unfold State.refreshReady
  extract_lets
  split
  · exact ⟨s.grids, s.ctl, rfl⟩
  · exact ⟨_, _, rfl⟩

/-- What a grid's dependences come to is read off the events and the published steps, neither of which becoming ready changes. -/
theorem State.refreshReady_gridDeps (s : State) (g : Grid) : s.refreshReady.gridDeps g = s.gridDeps g := by
  obtain ⟨gs, c, h⟩ := s.refreshReady_only
  rw [h]
  rfl

theorem Grid.waits_of_ready {g : Grid} (h : g.ready.isNone = false) : g.waits = false := by simp [Grid.waits, h]

theorem Grid.waits_of_depFailed {g : Grid} (h : g.depFailed = true) : g.waits = false := by simp [Grid.waits, h]

/-- A grid that waits afterwards is one that stood so before and whose dependences are unmet: any other has become ready or failed. -/
theorem State.gridDeps_of_mem_refreshReady {s : State} {g : Grid} (hg : g ∈ s.refreshReady.grids) (hw : g.waits = true) :
    s.gridDeps g = .unmet := by
  unfold State.refreshReady at hg
  extract_lets now due order after at hg
  split at hg
  next hnone =>
    by_contra hdeps
    exact List.not_mem_nil (List.isEmpty_iff.mp hnone ▸ List.mem_filter.mpr ⟨hg, by simp [hw, hdeps]⟩ : g ∈ [])
  next =>
    obtain ⟨old, -, rfl⟩ := List.mem_map.mp hg
    by_cases hold : old.waits = true
    · cases hdeps : s.gridDeps old with
      | met =>
        have hready : (after old).ready.isNone = false := by simp only [after, hold, hdeps]; rfl
        exact absurd hw (by simp [Grid.waits_of_ready hready])
      | failed =>
        have hfailed : (after old).depFailed = true := by simp only [after, hold, hdeps]; rfl
        exact absurd hw (by simp [Grid.waits_of_depFailed hfailed])
      | unmet =>
        have hsame : after old = old := by simp only [after, hold, hdeps]; rfl
        rw [hsame, hdeps]
    · have hsame : after old = old := by simp only [after, hold]; rfl
      exact absurd (hsame ▸ hw) hold

theorem State.refreshReady_fresh (s : State) : GridsFresh s.refreshReady := fun g hg hw =>
  (s.refreshReady_gridDeps g).trans (State.gridDeps_of_mem_refreshReady hg hw)

/-- Whatever a step runs, it ends by making ready the grids that can be. -/
theorem afterStep_fresh {r : Result} {s' : State} (h : afterStep r = .next s') : GridsFresh s' := by
  cases r with
  | next s =>
    rw [afterStep, Host.Outcome.next.injEq] at h
    exact h ▸ State.refreshReady_fresh _
  | fault r => exact nomatch (h : Host.Outcome.fault r = _)
  | refused r => exact nomatch (h : Host.Outcome.refused r = _)

end Sys2Proof.Machine

namespace Sys2Proof.Claims
open Sys2Proof.Machine

/-- Settles O59: each kind of step is followed by the same clearing up, the last part of which leaves the grids fresh. -/
theorem stepsKeepGridsFresh : Obligations.StepsKeepGridsFresh := by
  intro s s' h
  unfold Steps step at h
  split at h
  · exact afterStep_fresh h
  · split at h
    · exact afterStep_fresh h
    · exact afterStep_fresh h

end Sys2Proof.Claims

/-! SUPPORT. The matrix words (spec/13 R343-R365): what a set-level word leaves, then reservations, releases and fills of the operand
buffer, each word where its conditions hold. -/
namespace Sys2Proof.Machine

/-! ### Set-level words (R343-R346) -/

/-- A set-level word may issue: its slot takes one more, and in every participant what its plan reads and writes is free. -/
def SetWord.FreeIn (w : SetWord) (sb : Option Nat) (s : State) (i : IssueCtx) : Prop :=
  Each i (fun t => (∀ n, sb = some n → SlotFree s t.id n 1) ∧ ∀ m, s.team? t.team = some m →
    let p := w.plan { m with regs := i.beforeRegs } t
    RangesFree t (p.reads.map (·.2) ++ p.writes) ∧ ∀ r ∈ p.reads, Untouched r.2 t.winPoison)

theorem CapPlan.verdict_pass {p : CapPlan} {t : Thread} (hfree : RangesFree t (p.reads.map (·.2) ++ p.writes))
    (hclean : ∀ r ∈ p.reads, Untouched r.2 t.winPoison) : p.verdict t = .pass := by
  simp only [CapPlan.verdict, Verdict.andThen_pass]
  refine ⟨⟨pendingVerdict_pass fun r hr => (hfree r hr).2, rangeVerdict_pass fun r hr => (hfree r hr).1⟩,
    poisonVerdict_pass (fun r hr => ?_) (by simp)⟩
  obtain ⟨x, hx, rfl⟩ := List.mem_map.mp hr
  exact hclean x hx

/-- What a set-level word leaves: its participants' captures, and the generation where none is left to sign. -/
def State.afterSetWord (s : State) (i : IssueCtx) (w : SetWord) (la : Nat) (sb : Option Nat) : State :=
  match i.parts.head?.bind (fun t => s.team? t.team) with
  | none => s
  | some m => match i.signed with
    | none =>
      let r := s.captureAll i w m la sb (i.parts.zip (List.range i.parts.length))
      r.2.issueGen m.id w r.1
    | some n =>
      let c := m.cvs.getD n {}
      let r := s.captureAll i w m la sb (i.parts.filterMap (fun t => (c.memberOf t).map (fun k => (t, popcount k c.mask.toNat))))
      if c.signed = c.mask then (r.2.modCv m.id n (fun c => { c with signed := 0, captures := [] })).issueGen m.id w (c.captures ++ r.1)
      else r.2.modCv m.id n (fun d => { d with captures := c.captures ++ r.1 })

theorem setLevel_next {s : State} {i : IssueCtx} {w : SetWord} {la : Nat} {sb : Option Nat} (hi : s.ctl.issue = some i)
    (hfree : w.FreeIn sb s i) : setLevel w la sb s = .next (s.afterSetWord i w la sb) := by
  unfold setLevel
  rw [issueWord_runs (hi := hi)]
  · unfold State.afterSetWord
    cases i.parts with
    | nil => rfl
    | cons t ts =>
      cases hm : s.team? t.team with
      | none => simp only [List.head?_cons, Option.bind_some, hm]
      | some m => cases i.signed <;> simp only [List.head?_cons, Option.bind_some, hm, beq_iff_eq]
  · intro t ht
    obtain ⟨hslot, hplan⟩ := hfree t ht
    rw [Verdict.andThen_pass]
    constructor
    · cases sb with
      | none => rfl
      | some n => exact State.slotVerdict_pass (hslot n rfl)
    · cases hm : s.team? t.team with
      | none => rfl
      | some m => exact CapPlan.verdict_pass (hplan m hm).1 (hplan m hm).2

/-- In the register form a product reads its slices of A, B and C, and writes that of C. -/
theorem SetWord.plan_mma_registers (f c a b : Nat) (g : Team) (t : Thread) :
    ({ op := .mma, efmt := f, c, a, b, m := 0 } : SetWord).plan g t =
      { reads := [(0, (t.view 1).base + 128 * a, sliceAB f), (1, (t.view 1).base + 128 * b, sliceAB f), (9, (t.view 2).base + 128 * c, sliceC f)]
        writes := [((t.view 2).base + 128 * c, sliceC f)] } := rfl

/-! ### Reservations (R350-R352) -/

/-- The second half of a register pair is all that stands after its first. -/
theorem Operand.take_drop_run_two (a : BitVec 6) (t : Thread) (q : QCopy) :
    (((Operand.run a 2).bytes t q).drop 8).take 8 = ((Operand.run a 2).bytes t q).drop 8 := by
  refine List.take_of_length_le ?_
  change ((t.win.readN _ 16).drop 8).length ≤ 8
  simp

theorem exec_mres_next {s : State} {i : IssueCtx} (d a b : BitVec 6) (hi : s.ctl.issue = some i)
    (hfree : Free i [.run a 2] [.vv d false]) :
    exec (.mres d a b) s = .next (s.each i.parts (fun s t =>
      let r := fun k => BitVec.ofNat 64 (bytesToNat ((((Operand.run a 2).bytes t i.beforeQ).drop (8 * k)).take 8))
      let x := s.reserve t.team b.toNat (r 0) (r 1)
      x.2.land64 t.id ((Operand.vv d false).dst i t)
        (BitVec.ofNat 64 ((if x.1 = 0 ∨ x.1 = 4 then recTiles (r 0) (r 1) else 0) * 2 ^ 32 + x.1)))) := by
  change execMres d a b s = _
  simp only [execMres, Nat.mul_one, Operand.take_drop_run_two]
  exact (issueWord_runs _ _ hi fun t ht => operandVerdict_pass (hfree t ht)).trans rfl

theorem exec_mrel_next {s : State} {i : IssueCtx} (d : BitVec 6) (handle : BitVec 8) (hi : s.ctl.issue = some i)
    (hfree : Free i [] [.vv d false]) (hidle : Each i (fun t => ∀ m, s.team? t.team = some m → s.handleBusy m handle.toNat = false)) :
    exec (.mrel d handle) s = .next (s.each i.parts (fun s t =>
      let held := match s.team? t.team with | some m => (m.handle handle.toNat).isSome | none => false
      ((s.modTeam t.team (fun m => { m with handles := modAt (fun _ => none) handle.toNat m.handles })).dropReuse t.team handle.toNat).land64 t.id
        ((Operand.vv d false).dst i t) (if held then 0 else 1))) := by
  change execMrel d handle s = _
  simp only [execMrel]
  refine (issueWord_runs _ _ hi fun t ht => ?_).trans rfl
  rw [Verdict.andThen_pass]
  refine ⟨operandVerdict_pass (hfree t ht), ?_⟩
  cases hm : s.team? t.team with
  | none => rfl
  | some m => exact (Verdict.await_pass _).mpr (by rw [hidle t ht m hm]; rfl)

section
variable {s : State} {team h : Nat} {r0 r1 : W64} {m : Team} (hm : s.team? team = some m)
include hm

theorem State.reserve_invalid (hr : recValid r0 r1 = false) : s.reserve team h r0 r1 = (3, s) := by simp [State.reserve, hm, hr]

section
variable (hr : recValid r0 r1 = true)
include hr

theorem State.reserve_again {x : Handle} (hx : m.handle h = some x) (hsame : x.rec0 = r0 ∧ x.rec1 = r1) :
    (s.reserve team h r0 r1).1 = 4 := by simp [State.reserve, hm, hr, hx, hsame]

theorem State.reserve_other {x : Handle} (hx : m.handle h = some x) (hother : ¬(x.rec0 = r0 ∧ x.rec1 = r1)) :
    s.reserve team h r0 r1 = (1, s) := by simp [State.reserve, hm, hr, hx, hother]

theorem State.reserve_full (hx : m.handle h = none) (hroom : s.bufferRoom m.place (128 * recSize r0) = false) :
    s.reserve team h r0 r1 = (2, s) := by simp [State.reserve, hm, hr, hx, hroom]

theorem State.reserve_new (hx : m.handle h = none) (hroom : s.bufferRoom m.place (128 * recSize r0) = true) :
    s.reserve team h r0 r1 = (0, ((s.makeBuffer m.place (128 * recSize r0)).modTeam team
      (fun m => { m with handles := modAt (fun _ => some { rec0 := r0, rec1 := r1 }) h m.handles })).dropReuse team h) := by
  simp [State.reserve, hm, hr, hx, hroom]

end

/-- Writing a team's ranges out leaves every team its handles. -/
theorem State.writeOut_buffer_handles (k : Nat) : ∃ n, (s.writeOut k 17).team? team = some n ∧ n.handles = m.handles := by
  unfold State.writeOut
  cases s.team? k with
  | none => exact ⟨m, hm, rfl⟩
  | some x =>
    simp only [reduceIte, show ¬(17 < 16) from by decide, show ¬((17 : Nat) = 16) from by decide]
    refine ⟨_, State.team?_modTeam_of hm (by exact fun _ => rfl), ?_⟩
    split <;> rfl

end

/-- Making room in the operand buffer leaves every team its handles. -/
theorem State.makeBuffer_handles {s : State} {team : Nat} {m : Team} (hm : s.team? team = some m) (p : Place) (n : Nat) :
    ∃ k, (s.makeBuffer p n).team? team = some k ∧ k.handles = m.handles := by
  unfold State.makeBuffer
  generalize (s.evictable p 17).map (·.id) = owners
  induction owners generalizing s m with
  | nil => exact ⟨m, hm, rfl⟩
  | cons k ks ih =>
    rw [List.foldl_cons]
    split
    · exact ih hm
    · obtain ⟨x, hx, hxm⟩ := State.writeOut_buffer_handles hm k
      obtain ⟨y, hy, hyx⟩ := ih hx
      exact ⟨y, hy, hyx.trans hxm⟩

/-- A range newly reserved stands under its handle. -/
theorem State.reserve_handle {s : State} {team h : Nat} {r0 r1 : W64} {m : Team} (hm : s.team? team = some m) (hh : h < m.handles.length)
    (hr : recValid r0 r1 = true) (hx : m.handle h = none) (hroom : s.bufferRoom m.place (128 * recSize r0) = true) :
    ∃ k, (s.reserve team h r0 r1).2.team? team = some k ∧ k.handle h = some { rec0 := r0, rec1 := r1 } := by
  obtain ⟨n, hn, hnm⟩ := State.makeBuffer_handles hm m.place (128 * recSize r0)
  rw [State.reserve_new hm hr hx hroom]
  have hset := State.team?_modTeam_of hn (u := team) (k := team)
    (f := fun m => { m with handles := modAt (fun _ => some ({ rec0 := r0, rec1 := r1 } : Handle)) h m.handles }) fun _ => rfl
  refine ⟨_, State.team?_modTeam_of hset (by exact fun _ => rfl), ?_⟩
  simp [Team.handle, List.getD_eq_getElem?_getD, modAt_const, hnm, hh]

/-! ### `mobl` (R354) -/

theorem exec_mobl_next {s : State} {i : IssueCtx} (d a : BitVec 6) (la : BitVec 4) (sb : BitVec 3) (m : BitVec 1) (hi : s.ctl.issue = some i)
    (hfree : Each i (fun t =>
      let job := moblJob i (.vv d false) (.vv a i.pfx.ua) (m == 1) t
      SlotFree s t.id sb.toNat 1
      ∧ FieldsFree t i.beforeQ [.vv d false, .vv a i.pfx.ua] [(.vv a i.pfx.ua, 0, if m = 1 then 5 else 8), (.vv d false, 0, 6)]
      ∧ s.moblVerdict t job (m == 1) = .pass ∧ (m = 1 → ∀ l ∈ s.moblLines t job, s.lineAbsent l = false))) :
    exec (.mobl d a la sb m) s = .next (s.launchEach i i.parts own la.toNat (some sb.toNat) .mxu (fun t =>
      let job := moblJob i (.vv d false) (.vv a i.pfx.ua) (m == 1) t
      .mobl job.handle job.off job.lines job.src (m == 1))) := by
  change execMobl d a la sb m s = _
  unfold execMobl
  rw [State.pfx_of hi]
  extract_lets od oa scratch pre
  have hpass : ∀ t ∈ i.parts, pre i t = .pass := fun t ht => by
    obtain ⟨hslot, hfields, hjob, -⟩ := hfree t ht
    simp only [pre, Verdict.andThen_pass]
    refine ⟨⟨State.slotVerdict_pass hslot, partialVerdict_pass ?_⟩, hjob⟩
    simpa [scratch] using hfields
  have hpresent : (if scratch then i.parts.flatMap (fun t => s.moblLines t (moblJob i od oa scratch t)) else []).any s.lineAbsent = false := by
    rw [List.any_eq_false]
    intro l hl
    obtain ⟨hm, t, ht, hlt⟩ : m = 1 ∧ ∃ t ∈ i.parts, l ∈ s.moblLines t (moblJob i od oa scratch t) := by simpa [scratch] using hl
    obtain ⟨-, -, -, hlines⟩ := hfree t ht
    simp [hlines hm l hlt]
  simp only [hi, hpresent, Bool.and_false, Bool.false_eq_true, if_false]
  exact (issueWord_runs _ _ hi hpass).trans rfl

end Sys2Proof.Machine

namespace Sys2Proof.Claims
open Sys2Proof.Machine

/-- A word whose meaning is a set-level word's completes as one. -/
theorem captureCompletes_of_exec {w : Pfx → SetWord} {la : Nat} {sb : Option Nat} {word : Instr}
    (hexec : ∀ s, exec word s = setLevel (w s.pfx) la sb s) : CaptureCompletes w la sb word := by
  intro s i hi hfree
  rw [hexec, State.pfx_of hi]
  exact setLevel_next hi hfree

/-- Settles O44: each set-level word captures and issues as `setLevel_next` says; each word of the operand buffer has the effect that its
lemma gives, and a reservation comes to the code that its case's lemma gives. -/
theorem matrixWords : Obligations.MatrixWords := by
  unfold Obligations.MatrixWords
  refine ⟨fun c a b la sb m => ?sets, fun d a b m => captureCompletes_of_exec fun _ => rfl, fun d a b s i hi hfree => exec_mres_next d a b hi hfree,
    fun d handle s i hi hfree => exec_mrel_next d handle hi hfree.1 hfree.2, fun d a la sb m => ?fills, fun s team h r0 r1 m hm hh => ?codes⟩
  case sets =>
    intro word slot
    refine ⟨fun x hx => ?products, captureCompletes_of_exec fun _ => rfl, captureCompletes_of_exec fun _ => rfl, captureCompletes_of_exec fun _ => rfl,
      captureCompletes_of_exec fun _ => rfl, captureCompletes_of_exec fun _ => rfl, fun f g t hm => ?plan⟩
    case products =>
      simp only [List.mem_cons, List.not_mem_nil, or_false] at hx
      obtain rfl | rfl | rfl | rfl | rfl | rfl | rfl := hx
      all_goals exact captureCompletes_of_exec fun _ => rfl
    case plan => subst hm; exact SetWord.plan_mma_registers f c.toNat a.toNat b.toNat g t
  case fills =>
    intro od oa job s i hi hfree
    exact exec_mobl_next d a la sb m hi hfree
  case codes =>
    refine ⟨State.reserve_invalid hm, fun x hr hx => ⟨⟨State.reserve_again hm hr hx, fun hcode => ?same⟩, State.reserve_other hm hr hx⟩,
      fun hr hx => ⟨State.reserve_full hm hr hx, fun hroom => ⟨by rw [State.reserve_new hm hr hx hroom], State.reserve_handle hm hh hr hx hroom⟩⟩⟩
    by_contra hother
    rw [State.reserve_other hm hr hx hother] at hcode
    simp at hcode

end Sys2Proof.Claims

/-! SUPPORT. Sampling, ray and field words (spec/15 R398-R410): each word where its conditions hold. -/
namespace Sys2Proof.Machine

/-- Register k of a run of registers, as a thread holds it. -/
def runReg (a : BitVec 6) (n : Nat) (i : IssueCtx) (t : Thread) (k : Nat) : W64 :=
  BitVec.ofNat 64 (bytesToNat ((((Operand.run a n).bytes t i.beforeQ).drop (8 * k)).take 8))

theorem Operand.regs_run (a : BitVec 6) (n m : Nat) (i : IssueCtx) (t : Thread) :
    (Operand.run a n).regs t i.beforeQ m = (List.range m).map (runReg a n i t) := rfl

/-! ### Sampling (R398) -/

section
variable {s : State} {i : IssueCtx} (d a b : BitVec 6) (la : BitVec 4) (sb : BitVec 3) (hi : s.ctl.issue = some i)
include hi

/-- A sampling word of `n` operand registers, of the last of which it reads what `more` names, may issue in a thread. -/
def SampleFree (d a : BitVec 6) (sb : BitVec 3) (m : BitVec 1) (n : Nat) (more : List (Operand × Nat × Nat)) (s : State) (i : IssueCtx)
    (t : Thread) : Prop :=
  SlotFree s t.id sb.toNat 1
  ∧ FieldsFree t i.beforeQ [.run d (if m = 1 then 2 else 1), .run a n] ([(.run a n, 0, 8), (.run a n, 8, 7)] ++ more)
  ∧ (runReg a n i t 1).toNat % 2 ^ 52 % 64 = 0

omit hi in
/-- The address of a descriptor lies in the low 52 bits of its register. -/
theorem fld_descriptor (v : Nat) : fld v 0 52 = (BitVec.ofNat 64 v).toNat % 2 ^ 52 := by
  rw [fld_zero, BitVec.toNat_ofNat, Nat.mod_mod_of_dvd _ (by decide)]

theorem texWord_next (op : Nat) (m : BitVec 1)
    (hfree : Each i (SampleFree d a sb m (if op = 0 then 2 else 3)
      (let o : Operand := .run a (if op = 0 then 2 else 3); if op = 0 then [] else if op = 1 then [(o, 16, 4)] else [(o, 16, 2)]) s i)) :
    texWord op d a la sb m s = .next (s.launchEach i i.parts own la.toNat (some sb.toNat) .gfx (fun t =>
      let reg := runReg a (if op = 0 then 2 else 3) i t
      .tex op (m == 1) (reg 0) ((reg 1).toNat % 2 ^ 52) (if op = 0 then 0 else reg 2) (i.beforeRegs.wtbase.toNat / 2 ^ 11 % 2 ^ 41 * 2048)
        ((Operand.run d (if m = 1 then 2 else 1)).dst i t) none)) := by
  have hthird : ∀ v : Nat, BitVec.ofNat 64 (if op = 0 then 0 else v) = if op = 0 then 0 else BitVec.ofNat 64 v := fun v => by split <;> rfl
  simp only [texWord, fld_descriptor, hthird, fld_eq _ 11 41]
  refine (issueWord_runs _ _ hi fun t ht => ?_).trans rfl
  obtain ⟨hslot, hfields, hdesc⟩ := hfree t ht
  simp only [Verdict.andThen_pass, Verdict.require_pass]
  exact ⟨⟨State.slotVerdict_pass hslot, fieldVerdict_pass hfields⟩, beq_iff_eq.mpr hdesc⟩

/-! ### Field marching (R410) -/

theorem exec_fmarch_next (hfree : Each i (fun t => SlotFree s t.id sb.toNat 1 ∧ OperandsFree t i.beforeQ [.run a 5] [.run d 2] [(0, 0)]
      ∧ (runReg a 5 i t 4).toNat / 2 ^ 52 % 16 = 0 ∧ (runReg a 5 i t 4).toNat / 2 ^ 60 = 0)) :
    exec (.fmarch d a la sb) s = .next (s.launchEach i i.parts own la.toNat (some sb.toNat) .gfx (fun t =>
      .fmarch ((List.range 5).map (runReg a 5 i t)) ((Operand.run d 2).dst i t))) := by
  change execFmarch d a la sb s = _
  simp only [execFmarch, Operand.regs_run, fld_eq]
  refine (issueWord_runs _ _ hi fun t ht => ?_).trans rfl
  obtain ⟨hslot, hoperands, hlow, hhigh⟩ := hfree t ht
  simp only [Verdict.andThen_pass, Verdict.require_pass]
  refine ⟨⟨State.slotVerdict_pass hslot, operandVerdict_pass hoperands⟩, ?_⟩
  change ((runReg a 5 i t 4).toNat / 2 ^ 52 % 16 == 0 && (runReg a 5 i t 4).toNat / 2 ^ 60 % 16 == 0) = true
  rw [hlow, hhigh]
  rfl

/-! ### Rays (R402, R405, R406, R408) -/

omit hi in
theorem State.rayTurn_pass {tid : Nat} (hdone : NoneOutstanding s tid Flight.isRay) (hfree : s.rayFree tid = true) :
    s.rayTurn tid = .pass := by
  rw [State.rayTurn, State.waitFor_pass hdone, hfree]
  rfl

theorem exec_rt_next (hfree : Each i (fun t =>
      let r := rayOf ((List.range 6).map (runReg a 6 i t))
      SlotFree s t.id sb.toNat 1 ∧ NoneOutstanding s t.id Flight.isRay ∧ s.rayFree t.id = true
      ∧ FieldsFree t i.beforeQ [.vv d false, .run a 6] [(.run a 6, 0, 40), (.run a 6, 40, 4)]
      ∧ r.flags / 2 ^ 62 % 4 = 0 ∧ r.area % 128 = 0 ∧ r.root % 128 = 0 ∧ r.area + 512 ≤ t.priv.size)) :
    exec (.rt d a la sb) s = .next (s.each i.parts (fun s t =>
      (s.startRay t.id (rayOf ((List.range 6).map (runReg a 6 i t)))).launchFlight i [t.id] la.toNat (some sb.toNat) .gfx
        (.ray none ((Operand.vv d false).dst i t)))) := by
  change execRt d a la sb s = _
  simp only [execRt, Operand.regs_run]
  refine (issueWord_runs _ _ hi fun t ht => ?_).trans rfl
  obtain ⟨hslot, hdone, hturn, hfields, hflags, harea, hroot, hroom⟩ := hfree t ht
  simp only [Verdict.andThen_pass, Verdict.require_pass, beq_iff_eq]
  exact ⟨⟨⟨⟨State.slotVerdict_pass hslot, State.rayTurn_pass hdone hturn⟩, fieldVerdict_pass hfields⟩, (fld_eq _ _ _).trans hflags⟩,
    ⟨harea, hroot⟩, decide_eq_true hroom⟩

theorem exec_rnext_next (hfree : Each i (fun t => SlotFree s t.id sb.toNat 1 ∧ NoneOutstanding s t.id Flight.isRay ∧ s.rayFree t.id = true
      ∧ FieldsFree t i.beforeQ [.vv d false, .vv a false] [(.vv a false, 0, 1)] ∧ ∃ r, t.ray = some r ∧ (r.event ≠ 0 ∨ r.live = true))) :
    exec (.rnext d a la sb) s = .next (s.launchEach i i.parts own la.toNat (some sb.toNat) .gfx (fun t =>
      let k := ((Operand.vv a false).val t i.beforeQ).toNat % 4
      .ray (some (if t.rayEvent = 0 ∧ k ≠ 3 then 0 else k)) ((Operand.vv d false).dst i t))) := by
  change execRnext d a la sb s = _
  simp only [execRnext, fld_zero]
  refine (issueWord_runs _ _ hi fun t ht => ?_).trans rfl
  obtain ⟨hslot, hdone, hturn, hfields, r, hr, hopen⟩ := hfree t ht
  have hstands : (t.rayEvent != 0 || t.rayPaused) = true := by
    simp only [Thread.rayEvent, Thread.rayPaused, hr]
    by_cases hevent : r.event = 0
    · simp [hevent, hopen.resolve_left (not_not.mpr hevent)]
    · simp [hevent]
  simp only [Verdict.andThen_pass, Verdict.require_pass]
  exact ⟨⟨⟨State.slotVerdict_pass hslot, State.rayTurn_pass hdone hturn⟩, partialVerdict_pass hfields⟩, hstands⟩

theorem exec_rgen_next (m : BitVec 2) (hfree : Free i [.vv a false, .vv b false] [.vv d false]) :
    exec (.rgen d a b m) s = .next (s.each i.parts (fun s t => s.land64 t.id ((Operand.vv d false).dst i t)
      (BitVec.ofNat 64 (rgenValue m.toNat ((Operand.vv a false).val t i.beforeQ) ((Operand.vv b false).val t i.beforeQ)
        i.beforeRegs.rgtime.toNat)))) := by
  change execRgen d a b m s = _
  simp only [execRgen]
  exact (issueWord_runs _ _ hi fun t ht => operandVerdict_pass (hfree t ht)).trans rfl

/-- In its reading forms `rhit` gives a field of the committed or of the candidate record. -/
theorem exec_rhit_reads {m : BitVec 2} (hm : m.toNat ≤ 1) (hfree : Each i (fun t => FieldsFree t i.beforeQ [.vv d false] [] ∧ ∃ r, t.ray = some r)) :
    exec (.rhit d a b m) s = .next (s.each i.parts (fun s t => match t.ray with
      | none => s
      | some r => s.land64 t.id ((Operand.vv d false).dst i t)
          (BitVec.ofNat 64 (hitField (s.hit? t.id r (if m = 0 then 64 else 96)) b.toNat)))) := by
  have hread : m ≠ 2 := fun h => by subst h; exact absurd hm (by decide)
  change execRhit d a b m s = _
  simp only [execRhit, hread, if_false]
  refine (issueWord_runs _ _ hi fun t ht => ?_).trans rfl
  obtain ⟨hfields, r, hr⟩ := hfree t ht
  simp only [Verdict.andThen_pass, Verdict.require_pass]
  exact ⟨partialVerdict_pass hfields, by rw [hr]; rfl⟩

/-- In its writing form `rhit` reports a candidate. -/
theorem exec_rhit_reports (hfree : Each i (fun t => FieldsFree t i.beforeQ [.vv a false, .vv b false] [(.vv a false, 0, 4), (.vv b false, 0, 8)]
      ∧ s.rayFree t.id = true ∧ ∃ r, t.ray = some r ∧ r.event = 2)) :
    exec (.rhit d a b 2) s = .next (s.each i.parts (fun s t => match t.ray with
      | none => s
      | some _ => s.reportHit t.id (((Operand.vv a false).val t i.beforeQ).toNat % 2 ^ 32) ((Operand.vv b false).val t i.beforeQ).toNat)) := by
  change execRhit d a b 2 s = _
  simp only [execRhit, if_true, fld_zero]
  refine (issueWord_runs _ _ hi fun t ht => ?_).trans rfl
  obtain ⟨hfields, hturn, r, hr, hevent⟩ := hfree t ht
  simp only [Verdict.andThen_pass, Verdict.require_pass]
  exact ⟨partialVerdict_pass hfields, by simp [Thread.rayEvent, hr, hevent, hturn]⟩

end

end Sys2Proof.Machine

namespace Sys2Proof.Claims
open Sys2Proof.Machine

/-- Settles O48: each word has the effect that its lemma gives. -/
theorem graphicsWords : Obligations.GraphicsWords := by
  unfold Obligations.GraphicsWords
  intro d a b la sb m m2 od oa ob reg result sample ray
  refine ⟨fun s i hi hfree => ?tex, fun s i hi hfree => ?texl, fun s i hi hfree => ?texg, fun s i hi hfree => exec_fmarch_next d a la sb hi hfree,
    fun s i hi hfree => exec_rt_next d a la sb hi hfree, fun s i hi hfree => exec_rnext_next d a la sb hi hfree,
    fun _ s i hi hfree => exec_rgen_next d a b hi m2 hfree, fun hm s i hi hfree => exec_rhit_reads d a b hi hm hfree,
    fun s i hi hfree => exec_rhit_reports d a b hi hfree⟩
  case tex => exact texWord_next d a la sb hi 0 m hfree
  case texl => exact texWord_next d a la sb hi 1 m hfree
  case texg => exact texWord_next d a la sb hi 2 m hfree

end Sys2Proof.Claims

/-! SUPPORT. The words of links and collectives at issue (spec/17 R443-R455): remote accesses, adds to counters, waits for them, chunks. -/
namespace Sys2Proof.Machine

/-! ### Remote accesses (R443, R444, R470) -/

/-- The address and the peer that the register pair of a remote word gives in a thread. -/
def remoteAddr (a : BitVec 6) (i : IssueCtx) (t : Thread) : Nat := ((Operand.run a 2 i.pfx.ua).val t i.beforeQ).toNat
def remotePeer (a : BitVec 6) (i : IssueCtx) (t : Thread) : Nat :=
  bytesToNat (((Operand.run a 2 i.pfx.ua).bytes t i.beforeQ).drop 8) % 2 ^ 10

/-- The operations of remote words: a load that returns its bytes, a store, an atomic, which alone marks its thread (R146). -/
def RemoteWord.Sends (w : RemoteWord) (marks : Bool) : Prop :=
  (w.op = .load ∧ w.noReturn = false ∧ marks = false) ∨ (w.op = .store ∧ marks = false) ∨ ((∃ o, w.op = .atom o) ∧ marks = true)

/-- A remote word that reads the first bytes of `sources` may issue in a thread. -/
def RemoteWord.FreeIn (w : RemoteWord) (sources : List Operand) (a : BitVec 6) (sb : BitVec 3) (s : State) (i : IssueCtx) (t : Thread) : Prop :=
  SlotFree s t.id sb.toNat 1
  ∧ FieldsFree t i.beforeQ [w.d, .run a 2 i.pfx.ua] ((.run a 2 i.pfx.ua, 0, 10) :: sources.map (fun x => (x, 0, w.dRead)))
  ∧ inRange (remoteAddr a i t) w.size = true ∧ remoteAddr a i t % w.size = 0
  ∧ (s.portTo? (remotePeer a i t) (s.placeOf t).die).isSome = true
  ∧ (w.op = .load → s.movedLoads t.id (remotePeer a i t) (s.placeOf t).die = false)

/-- What a remote word sends for a thread, whose die it had in s0. -/
def RemoteWord.sendIn (w : RemoteWord) (sources : List Operand) (marks : Bool) (a : BitVec 6) (la : BitVec 4) (sb : BitVec 3) (i : IssueCtx)
    (s0 s : State) (t : Thread) : State :=
  match s.via? (remotePeer a i t) (s0.placeOf t).die with
  | none => s
  | some (via, down) =>
    (if marks && !down then s.setNrp t.id else s).launchFlight i [t.id] la.toNat (some sb.toNat) .lsu (.remote
      { op := w.op, peer := remotePeer a i t, va := remoteAddr a i t, size := w.size, dfmt := w.dfmt
        dst := if w.op = .store ∨ w.noReturn = true then .none else w.d.dst i t
        data := sources.flatMap (fun x => (x.bytes t i.beforeQ).take w.dRead), noReturn := w.noReturn, via })
      (if down then .faulted 0x60 (remoteAddr a i t) else .start)

theorem addressVerdict_pass {va span align : Nat} (hrange : inRange va span = true) (halign : va % align = 0) :
    addressVerdict va span align = .pass := by
  simp only [addressVerdict, Verdict.andThen_pass, Verdict.require_pass]
  exact ⟨hrange, beq_iff_eq.mpr halign⟩

theorem FieldsFree.nil_reads {t : Thread} {q : QCopy} {named : List Operand} {x : Operand × Nat × Nat} {more : List (Operand × Nat × Nat)}
    (h : FieldsFree t q named (x :: more)) : FieldsFree t q named [x] := by
  obtain ⟨hranges, hwin, hq⟩ := h
  exact ⟨hranges, fun y hy => hwin y (List.mem_cons.mpr (.inl (List.mem_singleton.mp hy))),
    fun y hy => hq y (List.mem_cons.mpr (.inl (List.mem_singleton.mp hy)))⟩

section
variable {s : State} {i : IssueCtx} (hi : s.ctl.issue = some i)
include hi

/-- A remote word reads its sources, or no byte at all. -/
theorem remoteWord_next {w : RemoteWord} {marks : Bool} {sources : List Operand} {a : BitVec 6} (la : BitVec 4) {sb : BitVec 3}
    (hkind : w.Sends marks) (hsources : w.sources = if w.dRead = 0 then [] else sources) (hfree : Each i (w.FreeIn sources a sb s i)) :
    remoteWord w a la sb s = .next (s.each i.parts (w.sendIn sources marks a la sb i s)) := by
  simp only [remoteWord, State.pfx_of hi, fld_zero]
  refine (issueWord_runs _ _ hi fun t ht => ?_).trans (congrArg Host.Outcome.next (congrArg (fun f => i.parts.foldl f s) (funext₂ fun u t => ?_)))
  · obtain ⟨hslot, hfields, hrange, halign, hport, hmoved⟩ := hfree t ht
    simp only [Verdict.andThen_pass, Verdict.require_pass, Verdict.await_pass]
    refine ⟨⟨⟨⟨State.slotVerdict_pass hslot, fieldVerdict_pass ?_⟩, addressVerdict_pass hrange halign⟩, hport⟩, ?_⟩
    · rw [hsources]
      split
      · exact hfields.nil_reads
      · exact hfields
    · by_cases hload : w.op = .load
      · rw [← remotePeer, hmoved hload]
        simp
      · simp [hload]
  · have hdata : w.sources.flatMap (fun o => (o.bytes t i.beforeQ).take w.dRead)
        = sources.flatMap (fun o => (o.bytes t i.beforeQ).take w.dRead) := by
      rw [hsources]
      split
      next hzero => simp [hzero]
      next => rfl
    rw [RemoteWord.sendIn, ← remotePeer]
    cases u.via? (remotePeer a i t) (s.placeOf t).die with
    | none => rfl
    | some x =>
      obtain ⟨via, down⟩ := x
      simp only [hdata, Cause.linkDown]
      rcases hkind with ⟨hop, hreturns, hmarks⟩ | ⟨hop, hmarks⟩ | ⟨⟨o, hop⟩, hmarks⟩
      · simp only [hop, hreturns, hmarks]; rfl
      · simp only [hop, hmarks]; rfl
      · simp only [hop, hmarks, reduceCtorEq, false_or]
        cases down <;> rfl

end

theorem atomOpOf_eq_cas {k : Nat} : atomOpOf k = .cas ↔ 7 ≤ k := by
  constructor
  · intro hcas
    by_contra hk
    interval_cases k <;> cases hcas
  · intro hk
    obtain ⟨n, rfl⟩ := Nat.exists_eq_add_of_le' hk
    rfl

/-- `ratom` with its modifiers (R443): a conditional exchange has two operand registers. -/
def ratomWord (d : BitVec 6) (m : BitVec 1) (x : Pfx) : RemoteWord :=
  { op := .atom (atomOpOf x.sfmt), d := .run d (if 7 ≤ x.sfmt then 2 else 1), dRead := accBytes x.dfmt, size := accBytes x.dfmt
    dfmt := x.dfmt, noReturn := m == 1 }

def ratomSources (d : BitVec 6) (x : Pfx) : List Operand :=
  if 7 ≤ x.sfmt then [.vv d false, { reg := d.toNat + 1 }] else [.vv d false]

theorem exec_ratom (d a : BitVec 6) (la : BitVec 4) (sb : BitVec 3) (m : BitVec 1) (s : State) :
    exec (.ratom d a la sb m) s = remoteWord (ratomWord d m s.pfx) a la sb s := by
  change execRatom d a la sb m s = _
  simp only [execRatom, ratomWord, beq_iff_eq, atomOpOf_eq_cas]

theorem ratomWord_sources (d : BitVec 6) (m : BitVec 1) (x : Pfx) :
    (ratomWord d m x).sources = if (ratomWord d m x).dRead = 0 then [] else ratomSources d x := by
  unfold RemoteWord.sources
  by_cases hcas : 7 ≤ x.sfmt
  · simp only [ratomWord, ratomSources, hcas, atomOpOf_eq_cas.mpr hcas, if_true]
    rfl
  · have hop : atomOpOf x.sfmt ≠ .cas := fun h => hcas (atomOpOf_eq_cas.mp h)
    simp only [ratomWord, ratomSources, hcas, if_false]
    split
    · rfl
    · split
      next h => exact absurd (MemOp.atom.inj h) hop
      next => rfl

/-! ### Adds to counters (R447) -/

/-- The first operand of a word as a number, and the peer that it names where it names one. -/
def linkOperand (a : BitVec 6) (i : IssueCtx) (t : Thread) : Nat := ((Operand.vv a i.pfx.ua).val t i.beforeQ).toNat
def addPeer (a : BitVec 6) (i : IssueCtx) (t : Thread) : Nat := linkOperand a i t / 2 ^ 16 % 2 ^ 10

/-- The add that a `cnt.add` posts for a thread: NRP is set, and the mark leaves with an add to a peer. -/
def State.postAdd (s : State) (a b : BitVec 6) (m : BitVec 2) (i : IssueCtx) (s0 : State) (t : Thread) : State :=
  let die := (s0.placeOf t).die
  let peer := addPeer a i t
  let add := fun (s : State) (mark : Int) (via : Via) (stage : FlightStage) =>
    s.launchFlight i [t.id] 0 none .lsu (.cntAdd m.toNat (linkOperand a i t % 2 ^ 12) (((Operand.vv b i.pfx.ub).val t i.beforeQ).setWidth 32)
      peer mark (BitVec.ofNat 64 (linkOperand a i t)) via) stage
  let s := s.setNrp t.id
  if m = 1 then match s.via? peer die with
    | none => s
    | some (via, down) => add (s.modThread t.id (fun x => { x with high := x.high.filter (fun y => y.1 != peer) }))
        ((t.high.find? (fun x => x.1 == peer)).elim 0 (·.2)) via (if down then .faulted 0x60 (linkOperand a i t) else .start)
  else add s t.tm ⟨die, 0, s.localTime die⟩ .start

section
variable {s : State} {i : IssueCtx} (d a b : BitVec 6) (la : BitVec 4) (sb : BitVec 3) (hi : s.ctl.issue = some i)
include hi

theorem exec_cntAdd_next (m : BitVec 2) (hfree : Each i (fun t => NoneOutstanding s t.id (fun f => f.isWrite || f.isJob)
      ∧ FieldsFree t i.beforeQ [.vv a i.pfx.ua, .vv b i.pfx.ub] [(.vv a i.pfx.ua, 0, if m = 1 then 4 else 2), (.vv b i.pfx.ub, 0, 4)]
      ∧ if m = 1 then (s.portTo? (addPeer a i t) (s.placeOf t).die).isSome = true
        else linkOperand a i t % 2 ^ 12 < (s.cntWindow (s.asidOf t)).2)) :
    exec (.cntAdd a b m) s = .next (s.each i.parts (fun u t => u.postAdd a b m i s t)) := by
  change execCntAdd a b m s = _
  simp only [execCntAdd, State.pfx_of hi, fld_zero, fld_eq _ 16 10]
  refine (issueWord_runs _ _ hi fun t ht => ?_).trans ?_
  · obtain ⟨hdone, hfields, hplace⟩ := hfree t ht
    simp only [Verdict.andThen_pass]
    refine ⟨⟨State.waitFor_pass hdone, fieldVerdict_pass hfields⟩, ?_⟩
    split at hplace
    next hm => rw [if_pos hm]; exact (Verdict.require_pass _ _ _).mpr hplace
    next hm => rw [if_neg hm]; exact (Verdict.require_pass _ _ _).mpr (decide_eq_true hplace)
  · simp only [State.each, State.postAdd, addPeer, linkOperand, BitVec.ofNat_toNat, BitVec.setWidth_eq]
    rfl

/-! ### Waits for counters (R448) -/

/-- What a `cwait` waits for: its counter in the address space's window, its target, since when. -/
def State.cwaitFor (s : State) (d a : BitVec 6) (i : IssueCtx) (t : Thread) : FlightKind :=
  .cwait ((s.cntWindow (s.asidOf t)).1 + linkOperand a i t % 2 ^ 12) (linkOperand a i t / 2 ^ 32) (s.localTime (s.placeOf t).die) none
    ((Operand.vv d false).dst i t)

omit hi in
/-- The upper half of a register. -/
theorem fld_upper_half (v : W64) : fld v.toNat 32 32 = v.toNat / 2 ^ 32 := by
  have := v.isLt
  rw [fld_eq]
  omega

omit hi in
/-- A word that enters flight changes nothing that such words are made of. -/
theorem State.launchEach_of_unchanged {kind : State → Thread → FlightKind} {pipe : Pipe} {slot : Nat}
    (hkind : ∀ (s : State) (t : Thread) (k : FlightKind), kind (s.launchFlight i [t.id] la.toNat (some slot) pipe k) = kind s) (ts : List Thread) :
    ∀ s : State, ts.foldl (fun s t => s.launchFlight i [t.id] la.toNat (some slot) pipe (kind s t)) s
      = s.launchEach i ts own la.toNat (some slot) pipe (kind s) := by
  induction ts with
  | nil => exact fun _ => rfl
  | cons t ts ih =>
    intro s
    rw [List.foldl_cons, ih, hkind]
    rfl

theorem exec_cwait_next (hfree : Each i (fun t => SlotFree s t.id sb.toNat 1 ∧ (∀ f ∈ t.faults, t.faultHere f = true → f.posted = false)
      ∧ FieldsFree t i.beforeQ [.vv d false, .vv a i.pfx.ua] [(.vv a i.pfx.ua, 0, 2), (.vv a i.pfx.ua, 4, 4)]
      ∧ linkOperand a i t % 2 ^ 12 < (s.cntWindow (s.asidOf t)).2)) :
    exec (.cwait d a la sb) s = .next (s.launchEach i i.parts own la.toNat (some sb.toNat) .ctl (s.cwaitFor d a i)).reachCwaits := by
  change execCwait d a la sb s = _
  simp only [execCwait, State.pfx_of hi, fld_zero, fld_upper_half]
  refine (issueWord_runs _ _ hi fun t ht => ?_).trans (congrArg (fun u => Host.Outcome.next u.reachCwaits)
    (State.launchEach_of_unchanged (kind := fun u => u.cwaitFor d a i) la (fun _ _ _ => rfl) i.parts s))
  obtain ⟨hslot, hposted, hfields, hwindow⟩ := hfree t ht
  have hlate : t.faults.any (fun f => t.faultHere f && f.posted) = false := by
    rw [List.any_eq_false]
    intro f hf
    cases hhere : t.faultHere f
    · simp
    · simp [hposted f hf hhere]
  simp only [hlate, Verdict.andThen_pass, Verdict.require_pass]
  exact ⟨⟨⟨rfl, State.slotVerdict_pass hslot⟩, fieldVerdict_pass hfields⟩, decide_eq_true hwindow⟩

/-! ### Chunks (R455) -/

/-- What a `coll` leaves for a thread: it fires its chunk, or completes at once where that has been fired. -/
def State.collIn (s : State) (d a : BitVec 6) (la : BitVec 4) (sb : BitVec 3) (i : IssueCtx) (t : Thread) : State :=
  let chunk := linkOperand a i t % 2 ^ 16
  let grid := (s.gridOf t).elim 0 (·.event)
  let u := s.launchFlight i [t.id] la.toNat (some sb.toNat) .eng (.coll chunk ((Operand.vv d false).dst i t))
  if (u.chunk? grid chunk).any (·.fired) then
    match u.flight? s.ctl.nextId with
    | some f => (u.land64 t.id ((Operand.vv d false).dst i t) 1).completeFlight f
    | none => u
  else u.fireChunk grid chunk (u.placeOf t).die (some s.ctl.nextId)

theorem exec_coll_next (hfree : Each i (fun t => SlotFree s t.id sb.toNat 1 ∧ NoneOutstanding s t.id Flight.isAccess
      ∧ FieldsFree t i.beforeQ [.vv d false, .vv a i.pfx.ua] [(.vv a i.pfx.ua, 0, 2)]
      ∧ ∃ g b, s.gridOf t = some g ∧ g.peloton = some b ∧ linkOperand a i t % 2 ^ 16 < b.nchunks)) :
    exec (.coll d a la sb) s = .next (s.each i.parts (fun s t => s.collIn d a la sb i t)) := by
  change execColl d a la sb s = _
  simp only [execColl, State.pfx_of hi, fld_zero]
  refine (issueWord_runs _ _ hi fun t ht => ?_).trans (congrArg (fun f => Host.Outcome.next (i.parts.foldl f s)) (funext₂ fun u t => ?same))
  case same =>
    simp only [State.collIn, linkOperand]
    cases u.gridOf t <;> rfl
  obtain ⟨hslot, hdone, hfields, g, b, hg, hb, hchunk⟩ := hfree t ht
  simp only [Verdict.andThen_pass, Verdict.require_pass, hg, Option.bind_some, hb]
  exact ⟨⟨⟨State.slotVerdict_pass hslot, fieldVerdict_pass hfields⟩, decide_eq_true hchunk⟩, State.accessesDone_pass hdone⟩

end

end Sys2Proof.Machine

namespace Sys2Proof.Claims
open Sys2Proof.Machine

/-- Settles O49: each word has the effect that its lemma gives. -/
theorem linkWords : Obligations.LinkWords := by
  unfold Obligations.LinkWords
  intro d a b la sb m m2 od oa va pair addr peer die remote fragment
  refine ⟨fun s i hi hfree => ?rld, fun s i hi hfree => ?rst, fun s i hi hfree => ?ratom, fun _ => ?add,
    fun s i hi hfree => exec_cwait_next d a la sb hi hfree, fun s i hi hfree => exec_coll_next d a la sb hi hfree⟩
  case rld =>
    change remoteWord { op := .load, d := fragOperand d m, dRead := 0, size := 128 } a la sb s = _
    exact remoteWord_next (sources := []) hi la (.inl ⟨rfl, rfl, rfl⟩) rfl hfree
  case rst =>
    change remoteWord { op := .store, d := fragOperand d m, dRead := 128, size := 128 } a la sb s = _
    exact remoteWord_next (sources := [fragOperand d m]) hi la (.inr (.inl ⟨rfl, rfl⟩)) rfl hfree
  case ratom =>
    rw [exec_ratom, State.pfx_of hi]
    exact remoteWord_next (sources := ratomSources d i.pfx) hi la (.inr (.inr ⟨⟨_, rfl⟩, rfl⟩)) (ratomWord_sources d m i.pfx) hfree
  case add =>
    intro ob s i hi hfree
    exact exec_cntAdd_next a b hi m2 hfree

end Sys2Proof.Claims

/-! SUPPORT. Events of links, peers and collectives (spec/17 R438-R459): what changing a port, a counter or a chunk leaves, then each event
where its condition holds. -/
namespace Sys2Proof.Machine

/-! ### Ports and slots (R438-R441) -/

theorem State.completeFlight_only (s : State) (f : Flight) : ∃ ts fs, s.completeFlight f = { s with threads := ts, flights := fs } := by
  have hthreads : ∀ (ids : List Nat) (s : State) (g : Thread → Thread),
      ∃ ts, ids.foldl (fun s t => s.modThread t g) s = { s with threads := ts } := fun ids => by
    induction ids with
    | nil => exact fun s _ => ⟨s.threads, rfl⟩
    | cons t ts ih => exact fun s g => ih (s.modThread t g) g
  unfold State.completeFlight
  cases f.sb with
  | none => exact ⟨s.threads, _, rfl⟩
  | some sb =>
    obtain ⟨ts, h⟩ := hthreads f.tids s (·.slotDown f.trapCtx sb)
    exact ⟨ts, _, congrArg (·.dropFlight f.id) h⟩

/-- Only threads, words in flight and generations differ: what the end of a generation touches. -/
def OnlyGens (s s' : State) : Prop := s' = { s with threads := s'.threads, flights := s'.flights, gens := s'.gens }

theorem OnlyGens.refl (s : State) : OnlyGens s s := rfl

theorem OnlyGens.trans {a b c : State} (h : OnlyGens a b) (k : OnlyGens b c) : OnlyGens a c := by
  unfold OnlyGens at *; rw [k, h]

theorem OnlyGens.links {s s' : State} (h : OnlyGens s s') : s'.links = s.links := (congrArg State.links (h : s' = _) :)
theorem OnlyGens.time {s s' : State} (h : OnlyGens s s') : s'.time = s.time := (congrArg State.time (h : s' = _) :)

theorem OnlyGens.foldl {α : Type} {f : State → α → State} (hf : ∀ s x, OnlyGens s (f s x)) (l : List α) :
    ∀ s, OnlyGens s (l.foldl f s) := by
  induction l with
  | nil => exact OnlyGens.refl
  | cons x xs ih => exact fun s => (hf s x).trans (ih (f s x))

theorem State.settleGen_onlyGens (s : State) (gid : Nat) : OnlyGens s (s.settleGen gid) := by
  have hcomplete : ∀ (s : State) (c : Capture),
      OnlyGens s (match s.flight? c.flight with | some f => s.completeFlight f | none => s) := fun s c => by
    cases s.flight? c.flight with
    | none => exact .refl s
    | some f =>
      obtain ⟨ts, fs, h⟩ := s.completeFlight_only f
      dsimp only
      rw [h]
      rfl
  unfold State.settleGen
  cases s.gen? gid with
  | none => exact .refl s
  | some g =>
    dsimp only
    split
    · exact .refl s
    · exact (OnlyGens.foldl hcomplete g.captures s).trans rfl

/-- But for what a port that comes to be DOWN ends, a port's change is a change of the links (R440, R459). -/
theorem State.modPort_onlyGens (s : State) (die port : Nat) (f : Port → Port) :
    OnlyGens (s.modLinks (fun l => { l with ports := l.ports.filter (fun x => !(x.die == die && x.port == port)) ++ [f (s.port die port)] }))
      (s.modPort die port f) := by
  unfold State.modPort
  dsimp only
  split
  · exact OnlyGens.trans (by exact rfl) (OnlyGens.foldl (fun s (g : Gen) => s.settleGen_onlyGens g.id) _ _)
  · rfl

theorem State.modPort_links (s : State) (die port : Nat) (f : Port → Port) : (s.modPort die port f).links = { s.links with
    ports := s.links.ports.filter (fun x => !(x.die == die && x.port == port)) ++ [f (s.port die port)] } :=
  (s.modPort_onlyGens die port f).links

theorem State.modPort_time (s : State) (die port : Nat) (f : Port → Port) : (s.modPort die port f).time = s.time :=
  (s.modPort_onlyGens die port f).time

theorem State.port_place (s : State) (die port : Nat) : (s.port die port).die = die ∧ (s.port die port).port = port := by
  unfold State.port
  cases h : s.links.ports.find? (fun p => p.die == die && p.port == port) with
  | none => exact ⟨rfl, rfl⟩
  | some p => simpa using List.find?_some h

/-- A port changed is what it was, changed. -/
theorem State.modPort_port (s : State) (die port : Nat) {f : Port → Port} (hf : ∀ p, (f p).die = p.die ∧ (f p).port = p.port) :
    (s.modPort die port f).port die port = f (s.port die port) := by
  have hplace : ((f (s.port die port)).die == die && (f (s.port die port)).port == port) = true := by
    simp [hf, s.port_place die port]
  have hgone : (s.links.ports.filter (fun x => !(x.die == die && x.port == port))).find? (fun p => p.die == die && p.port == port) = none := by
    rw [List.find?_eq_none]
    intro p hp
    simpa [not_and_or, imp_iff_not_or] using (List.mem_filter.mp hp).2
  rw [State.port, State.modPort_links, List.find?_append, hgone, List.find?_singleton, if_pos hplace]
  rfl

section Slots
variable {s : State} {die port k errors : Nat} (hdie : die < 4) (hport : port < 128) (hk : k < 8)

/-- The slot of a port's record replaced. -/
def Port.putSlot (p : Port) (k : Nat) (y : LinkSlot) : Port := { p with slots := p.slots.set k y }

theorem Port.modSlot_eq {p : Port} (h : k < p.slots.length) (f : LinkSlot → LinkSlot) : p.modSlot k f = p.putSlot k (f (p.slot k)) := by
  rw [Port.modSlot, Port.putSlot, modAt_eq_set f k p.slots (p.slot k)]
  simp [Port.slot, List.getD_eq_getElem?_getD, h]

theorem State.modPort_slot (s : State) {die port : Nat} (h : k < (s.port die port).slots.length) (f : Port → LinkSlot → LinkSlot) :
    (s.modPort die port (fun p => p.modSlot k (f p))).port die port
      = (s.port die port).putSlot k (f (s.port die port) ((s.port die port).slot k)) :=
  (State.modPort_port s die port (f := fun p => p.modSlot k (f p)) fun _ => ⟨rfl, rfl⟩).trans (Port.modSlot_eq h _)

/-- A slot of a port as withdrawing it at a time leaves it (R439). -/
def LinkSlot.withdrawn (y : LinkSlot) (p : Port) (now : Nat) : LinkSlot :=
  { y with state := 1, wdraw := min 65535 (y.wdraw + 1), evflit := p.flits % 2 ^ 24, since := now, windows := 0, spare := none }

theorem State.withdraw_port (s : State) (die port : Nat) (h : k < (s.port die port).slots.length) :
    (s.withdraw die port k).port die port
      = (s.port die port).putSlot k (((s.port die port).slot k).withdrawn (s.port die port) s.time.hub) :=
  s.modPort_slot h fun p y => y.withdrawn p s.time.hub

theorem slotExists_of (hdie : die < 4) (hport : port < 128) (hk : k < 8) : slotExists die port k = true := by
  simp [slotExists, hdie, hport, hk]

include hdie hport

theorem flitSend_next (hup : (s.port die port).down = false) : ∃ s', exec (.flitSend die port) s = .next s'
    ∧ s'.port die port = { s.port die port with flits := ((s.port die port).flits + 1) % 2 ^ 48 } := by
  exact ⟨_, if_neg (by simp [slotExists_of hdie hport, hup]), State.modPort_port s die port (by exact fun _ => ⟨rfl, rfl⟩)⟩

include hk

section Active
variable (hstate : ((s.port die port).slot k).state = 0)
include hstate

theorem berWindowEnd_next (hlen : k < (s.port die port).slots.length) : ∃ s', exec (.berWindowEnd die port k errors) s = .next s'
    ∧ s'.port die port = (s.port die port).putSlot k (
        let y := { (s.port die port).slot k with cbe := min 65535 errors }
        if s.links.thresh < errors then y.withdrawn (s.port die port) s.time.hub else y) := by
  let counted := s.modPort die port (fun p => p.modSlot k (fun x => { x with cbe := min 65535 errors }))
  have hcounted : counted.port die port = (s.port die port).putSlot k { (s.port die port).slot k with cbe := min 65535 errors } :=
    s.modPort_slot hlen _
  have hthresh : counted.links.thresh = s.links.thresh := by rw [State.modPort_links]
  have htime : counted.time = s.time := State.modPort_time ..
  refine ⟨if errors > counted.links.thresh then counted.withdraw die port k else counted, ?_, ?_⟩
  · exact if_neg (by simp [slotExists_of hdie hport hk, hstate])
  · rw [hthresh]
    split
    next hover =>
      rw [State.withdraw_port _ _ _ (by rw [hcounted]; simpa [Port.putSlot] using hlen), hcounted, htime]
      simp [Port.putSlot, Port.slot, LinkSlot.withdrawn, hlen]
    next hunder => exact hcounted

theorem uncorrectableCodeword_next (hlen : k < (s.port die port).slots.length) :
    ∃ s', exec (.uncorrectableCodeword die port k) s = .next s'
      ∧ s'.port die port = (s.port die port).putSlot k (((s.port die port).slot k).withdrawn (s.port die port) s.time.hub) :=
  ⟨_, if_neg (by simp [slotExists_of hdie hport hk, hstate]), State.withdraw_port (s.bump (codewordIndex die port)) die port hlen⟩

end Active

section Training
variable (hstate : ((s.port die port).slot k).state = 1)
include hstate

theorem trainingWindowEnd_next (hlen : k < (s.port die port).slots.length) (hwindows : ((s.port die port).slot k).windows = 0)
    (hsince : ((s.port die port).slot k).since + 524288 ≤ s.time.hub) :
    ∃ s', exec (.trainingWindowEnd die port k errors) s = .next s'
      ∧ s'.port die port = (s.port die port).putSlot k (
          let x := (s.port die port).slot k
          if errors ≤ s.links.thresh / 8
          then { x with cbe := min 65535 errors, windows := 1, state := 0, evflit := (s.port die port).flits % 2 ^ 24, phys := x.spare.getD x.phys
                        spare := none }
          else { x with cbe := min 65535 errors, windows := 1 }) := by
  refine ⟨_, if_neg ?_, (s.modPort_slot hlen _).trans ?_⟩
  · simp [slotExists_of hdie hport hk, hstate, hwindows, trainingWindow, trainingLimit, hsince]
  · simp [hwindows]

/-- A training ends where its window has passed: at once on a spare, on the slot's own wavelength after 1 ms. -/
theorem retrain_due (hwindows : ((s.port die port).slot k).windows ≠ 0)
    (hlong : ((s.port die port).slot k).spare = none → ((s.port die port).slot k).since + trainingLimit ≤ s.time.hub) :
    ¬(!slotExists die port k || ((s.port die port).slot k).state != 1 || decide (((s.port die port).slot k).windows = 0)
      || (((s.port die port).slot k).spare.isNone && decide (s.time.hub < ((s.port die port).slot k).since + trainingLimit))) = true := by
  cases hspare : ((s.port die port).slot k).spare with
  | none =>
    have hnow := hlong hspare
    simp [slotExists_of hdie hport hk, hstate, hwindows, Nat.not_lt.mpr hnow]
  | some n => simp [slotExists_of hdie hport hk, hstate, hwindows]

theorem retrainTimeout_own (hlen : k < (s.port die port).slots.length) (hwindows : ((s.port die port).slot k).windows ≠ 0)
    (hspare : ((s.port die port).slot k).spare = none) (hsince : ((s.port die port).slot k).since + 1000000 ≤ s.time.hub) :
    ∃ s', exec (.retrainTimeout die port k) s = .next s' ∧ s'.port die port =
      let p := s.port die port
      match s.freeSpares die port with
      | n :: _ => { p.putSlot k { p.slot k with spare := some n, since := s.time.hub, windows := 0 } with spares := p.spares ++ [n] }
      | [] => p.putSlot k { p.slot k with state := 2 } := by
  change ∃ s', execRetrainTimeout die port k s = .next s' ∧ _
  unfold execRetrainTimeout
  dsimp only
  rw [if_neg (retrain_due hdie hport hk hstate hwindows fun _ => hsince), hspare]
  cases s.freeSpares die port with
  | nil =>
    refine ⟨_, rfl, (s.modPort_slot hlen _).trans ?_⟩
    rw [← hspare]
  | cons n ns =>
    refine ⟨_, rfl, (State.modPort_port s die port (by exact fun _ => ⟨rfl, rfl⟩)).trans ?_⟩
    rw [Port.modSlot_eq hlen]

theorem retrainTimeout_spare {n : Nat} (hlen : k < (s.port die port).slots.length) (hwindows : ((s.port die port).slot k).windows ≠ 0)
    (hspare : ((s.port die port).slot k).spare = some n) :
    ∃ s', exec (.retrainTimeout die port k) s = .next s'
      ∧ s'.port die port = (s.port die port).putSlot k { (s.port die port).slot k with state := 2, spare := none } := by
  change ∃ s', execRetrainTimeout die port k s = .next s' ∧ _
  unfold execRetrainTimeout
  dsimp only
  rw [if_neg (retrain_due hdie hport hk hstate hwindows fun h => absurd (hspare ▸ h) (by simp)), hspare]
  exact ⟨_, rfl, s.modPort_slot hlen _⟩

end Training
end Slots

/-! ### Answers and timeouts of remote accesses (R442, R445, R458) -/

@[simp] theorem State.flight?_dropFlight (s : State) (k : Nat) : (s.dropFlight k).flight? k = none := by
  rw [State.flight?, List.find?_eq_none]
  intro x hx
  simpa using (List.mem_filter.mp hx).2

/-- A thread's TM has come to n at least, and its H of a peer to h (R442, R446). -/
def AckedAt (s : State) (tid peer n : Nat) (h : Int) : Prop :=
  ∃ u, s.thread? tid = some u ∧ n ≤ u.tm ∧ ∃ x, (peer, x) ∈ u.high ∧ h ≤ x

/-- What a peer's acknowledgement of a write raises in a thread. -/
def State.acknowledge (s : State) (peer : Nat) (h : Int) (u : Nat) : State :=
  match s.thread? u with
  | some t => s.modThread u (fun x => (x.raiseTm (s.localTime (s.placeOf t).die + 4)).raiseHigh peer h)
  | none => s

theorem Thread.mem_raiseHigh (t : Thread) (peer : Nat) (h : Int) : ∃ x, (peer, x) ∈ (t.raiseHigh peer h).high ∧ h ≤ x := by
  refine ⟨_, List.mem_cons_self, ?_⟩
  cases t.high.find? (fun x => x.1 == peer) with
  | none => exact le_refl h
  | some y => exact le_max_left h y.2

section
variable {s : State} {tid peer n : Nat} {h : Int}

theorem AckedAt.modThread (hr : AckedAt s tid peer n h) (u : Nat) {g : Thread → Thread} (hid : ∀ x, (g x).id = x.id)
    (hg : ∀ x, n ≤ x.tm → (∃ y, (peer, y) ∈ x.high ∧ h ≤ y) → n ≤ (g x).tm ∧ ∃ y, (peer, y) ∈ (g x).high ∧ h ≤ y) :
    AckedAt (s.modThread u g) tid peer n h := by
  obtain ⟨t, ht, htm, hhigh⟩ := hr
  refine ⟨_, State.thread?_modThread_of ht hid, ?_⟩
  split
  · exact hg t htm hhigh
  · exact ⟨htm, hhigh⟩

theorem AckedAt.acknowledge (hr : AckedAt s tid peer n h) (u : Nat) : AckedAt (s.acknowledge peer h u) tid peer n h := by
  unfold State.acknowledge
  split
  · exact hr.modThread u (fun _ => rfl) fun x htm _ => ⟨le_max_of_le_left htm, Thread.mem_raiseHigh _ _ _⟩
  · exact hr

theorem AckedAt.acknowledges (ids : List Nat) :
    ∀ {s : State}, AckedAt s tid peer n h → AckedAt (ids.foldl (·.acknowledge peer h ·) s) tid peer n h := by
  induction ids with
  | nil => exact id
  | cons u us ih => exact fun hr => ih (hr.acknowledge u)

theorem State.acknowledge_ackedAt {t : Thread} (ht : s.thread? tid = some t) (peer : Nat) (h : Int) :
    AckedAt (s.acknowledge peer h tid) tid peer (s.localTime (s.placeOf t).die + 4) h := by
  rw [State.acknowledge, ht]
  refine ⟨_, State.thread?_modThread_of ht (by exact fun _ => rfl), ?_⟩
  rw [if_pos rfl]
  exact ⟨le_max_right _ _, Thread.mem_raiseHigh _ _ _⟩

theorem Thread.slotDown_frame (t : Thread) (trapCtx : Bool) (sb : Nat) :
    (t.slotDown trapCtx sb).id = t.id ∧ (t.slotDown trapCtx sb).tm = t.tm ∧ (t.slotDown trapCtx sb).high = t.high := by
  unfold Thread.slotDown Thread.modWordCtx
  cases t.trap <;> cases trapCtx <;> exact ⟨rfl, rfl, rfl⟩

theorem AckedAt.completeFlight (hr : AckedAt s tid peer n h) (f : Flight) : AckedAt (s.completeFlight f) tid peer n h := by
  have hdown : ∀ (sb : Nat) (ids : List Nat) {s : State}, AckedAt s tid peer n h →
      AckedAt (ids.foldl (fun s t => s.modThread t (·.slotDown f.trapCtx sb)) s) tid peer n h := fun sb ids => by
    induction ids with
    | nil => exact id
    | cons u us ih =>
      refine fun hr => ih (hr.modThread u (fun x => (x.slotDown_frame f.trapCtx sb).1) fun x htm hhigh => ?_)
      obtain ⟨-, hsame, hkept⟩ := x.slotDown_frame f.trapCtx sb
      exact ⟨hsame ▸ htm, hkept ▸ hhigh⟩
  unfold State.completeFlight
  cases f.sb with
  | none => exact hr
  | some sb => exact hdown sb f.tids hr

end

theorem State.finishRemote_store (s : State) (f : Flight) {a : RemoteAcc} (hop : a.op = .store) (data : List Byte) (vtp tp : Nat) :
    s.finishRemote f a data vtp tp = (f.tids.foldl (·.acknowledge a.peer ((vtp : Int) - tp) ·) s).completeFlight f := by
  simp only [State.finishRemote, hop]
  rfl

/-- A refusal's cause in `cr.rfault` of each thread of a word. -/
theorem State.thread?_setRfault {s : State} {f : Flight} {u : Nat} {t : Thread} (hu : u ∈ f.tids) (ht : s.thread? u = some t) (peer c : Nat) :
    ∃ x, (s.setRfault f peer c).thread? u = some x ∧ x.rfault = BitVec.ofNat 64 (peer * 2 ^ 32 + c % 256) := by
  obtain ⟨n, hn⟩ := Nat.exists_eq_succ_of_ne_zero (List.count_pos_iff.mpr hu).ne'
  refine ⟨_, (State.thread?_modEach (by exact fun _ => rfl) f.tids u s).trans (by rw [ht, hn]; rfl), ?_⟩
  rw [Function.iterate_succ_apply']

theorem State.flight?_setRfault (s : State) (f : Flight) (peer c k : Nat) : (s.setRfault f peer c).flight? k = s.flight? k := by
  have hflights : ∀ (ids : List Nat) (s : State) (g : Thread → Thread), (s.modEach ids g).flights = s.flights := fun ids => by
    induction ids with
    | nil => exact fun _ _ => rfl
    | cons u us ih => exact fun s g => ih (s.modThread u g) g
  exact congrArg (·.find? (fun x => x.id == k)) (hflights f.tids s _)

section Remote
variable {s : State} {f : Flight} {a : RemoteAcc} {t : Thread} {rest : List Nat} (hf : s.flight? f.id = some f) (hkind : f.kind = .remote a)
  (hstage : f.stage = .start)
include hf hkind hstage

section Answer
variable (hturn : s.linkWaits f = false)
include hturn

theorem remoteAck_done (data : List Byte) (vtp tp : Nat) :
    exec (.remoteAck f.id (.done data vtp tp)) s = .next (s.finishRemote f a data vtp tp) := by
  change execRemoteAck f.id (.done data vtp tp) s = _
  simp only [execRemoteAck, hf, hkind, hstage, hturn]
  rfl

theorem remoteAck_refused (c : Nat) :
    exec (.remoteAck f.id (.refused c)) s = .next ((s.setRfault f a.peer c).stage f.id (.faulted 0x62 a.va)) := by
  change execRemoteAck f.id (.refused c) s = _
  simp only [execRemoteAck, hf, hkind, hstage, hturn]
  rfl

section
variable (htids : f.tids = t.id :: rest)
include htids

theorem remoteAck_load (hop : a.op = .load) (data : List Byte) (n k : Nat) :
    exec (.remoteAck f.id (.done data n k)) s = .next ((s.land t.id a.dst data).completeFlight f) := by
  rw [remoteAck_done hf hkind hstage hturn]
  simp only [State.finishRemote, hop, htids]

variable (ht : s.thread? t.id = some t)
include ht

theorem remoteAck_store (hop : a.op = .store) (data : List Byte) (vtp tp : Nat) :
    ∃ s', exec (.remoteAck f.id (.done data vtp tp)) s = .next s' ∧ s'.flight? f.id = none
      ∧ AckedAt s' t.id a.peer (s.localTime (s.placeOf t).die + 4) ((vtp : Int) - tp) := by
  refine ⟨_, remoteAck_done hf hkind hstage hturn data vtp tp, ?_⟩
  rw [State.finishRemote_store s f hop, htids, List.foldl_cons]
  exact ⟨State.flight?_dropFlight _ _, ((State.acknowledge_ackedAt ht _ _).acknowledges rest).completeFlight f⟩

theorem remoteAck_fault (c : Nat) : ∃ s', exec (.remoteAck f.id (.refused c)) s = .next s'
    ∧ s'.flight? f.id = some { f with stage := .faulted 0x62 a.va }
    ∧ ∃ u, s'.thread? t.id = some u ∧ u.rfault = BitVec.ofNat 64 (a.peer * 2 ^ 32 + c % 256) :=
  ⟨_, remoteAck_refused hf hkind hstage hturn c, State.flight?_stage ((s.flight?_setRfault f _ _ _).trans hf) _,
    State.thread?_setRfault (by simp [htids]) ht a.peer c⟩

end
end Answer

theorem linkTimeout_next (hlate : a.via.since + 1000 * s.links.rto ≤ s.localTime a.via.die) :
    exec (.linkTimeout f.id) s = .next (s.stage f.id (.faulted 0x61 a.va)) := by
  change execLinkTimeout f.id s = _
  simp only [execLinkTimeout, hf, Flight.via?, Flight.linkVal, hkind, hstage]
  exact if_neg (Nat.not_lt.mpr hlate)

end Remote

theorem remoteAck_send {s : State} {f : Flight} {gid c rank peer : Nat} {x : CollMessage} {via : Option Via} (hf : s.flight? f.id = some f)
    (hkind : f.kind = .send gid c rank peer x via) (bs : List Byte) (vtp tp : Nat) :
    exec (.remoteAck f.id (.done bs vtp tp)) s = .next (s.dropFlight f.id) := by
  change execRemoteAck f.id (.done bs vtp tp) s = _
  simp only [execRemoteAck, hf, hkind]

/-! ### A peer's requests (R442) -/

theorem OnlyHome.links {s s' : State} (h : OnlyHome s s') : s'.links = s.links := (congrArg State.links (h : s' = _) :)

theorem State.answer_answers (s : State) (peer : Nat) (a : RemoteAnswer) : (s.answer peer a).links.answers = (peer, a) :: s.links.answers := rfl

theorem State.touchPage_onlyMem (s : State) (p : Page) (write : Bool) : OnlyMem s (s.touchPage p write) := by
  unfold State.touchPage
  dsimp only
  split <;> rfl

section Requests
variable {s : State} {r : RemoteRequest} (hok : requestOk r = true) (hhome : s.homeFenced r.addr.toNat = false)
include hok hhome

theorem remoteRequestArrival_next : exec (.remoteRequestArrival r) s = .next (s.takeRequest r) :=
  if_neg (by simp [hok, hhome])

theorem remoteRequestArrival_load (hop : r.op = 0) {p : Page} (hp : s.translate r.asid r.addr.toNat .read = .ok p) :
    ∃ s' x, exec (.remoteRequestArrival r) s = .next s' ∧ s'.links.answers = (r.peer, x) :: s.links.answers := by
  have hlinks : ((s.touchPage p false).recall (lineOf (p.phys r.addr.toNat))).links = s.links :=
    (((s.touchPage_onlyMem p false).onlyHome.trans (State.recall_onlyHome _ _)).links)
  rw [remoteRequestArrival_next hok hhome]
  simp only [State.takeRequest, State.serve, hop, hp]
  exact ⟨_, _, rfl, (State.answer_answers _ _ _).trans (congrArg (List.cons _) (congrArg LinkState.answers hlinks))⟩

theorem remoteRequestArrival_store (hop : r.op = 1) {vt : Nat} {s1 : State}
    (hwrite : s.engineWriteLine r.asid r.step r.addr.toNat (r.data.take 128) = (.ok vt, s1)) :
    exec (.remoteRequestArrival r) s = .next (s1.answer r.peer (.done [] vt (s1.homeTime r.addr.toNat))) := by
  rw [remoteRequestArrival_next hok hhome]
  simp only [State.takeRequest, State.serve, hop, hwrite]

end Requests

/-! ### Counters (R446, R447, R448) -/

theorem State.counter_index (s : State) (k : Nat) : (s.counter k).index = k := by
  unfold State.counter
  cases h : s.links.counters.find? (fun c => c.index == k) with
  | none => rfl
  | some c => simpa using List.find?_some h

theorem State.counter_putCounter (s : State) (c : Counter) : (s.putCounter c).counter c.index = c := by
  have hgone : (s.links.counters.filter (fun x => x.index != c.index)).find? (fun x => x.index == c.index) = none := by
    rw [List.find?_eq_none]
    intro x hx
    simpa using (List.mem_filter.mp hx).2
  change ((s.links.counters.filter (fun x => x.index != c.index) ++ [c]).find? (fun x => x.index == c.index)).getD _ = c
  rw [List.find?_append, hgone, List.find?_singleton, if_pos (beq_self_eq_true _)]
  rfl

/-- An add performed changes COUNT and MARK of its counter: COUNT set under mode 2, else added to. -/
theorem State.counter_performAdd (s : State) (asid mode index : Nat) (value : BitVec 32) (mark : Nat) :
    let k := (s.cntWindow asid).1 + index
    (s.performAdd asid mode index value mark).counter k =
      { index := k, count := if mode = 2 then value else (s.counter k).count + value, mark := max (s.counter k).mark mark } := by
  intro k
  have hput : ∀ (v : BitVec 32) (m : Nat), (s.putCounter ⟨(s.counter k).index, v, m⟩).counter k = ⟨k, v, m⟩ := fun v m => by
    rw [s.counter_index k]
    exact s.counter_putCounter ⟨k, v, m⟩
  by_cases hmode : mode = 2
  · rw [State.performAdd, if_pos hmode, if_pos hmode]
    exact hput _ _
  · rw [State.performAdd, if_neg hmode, if_neg hmode]
    exact hput _ _

section Adds
variable {s : State} {f : Flight} {mode index : Nat} {value : BitVec 32} {peer : Nat} {mark : Int} {a : W64} {via : Via} {t : Thread}
  {rest : List Nat} (hf : s.flight? f.id = some f) (hkind : f.kind = .cntAdd mode index value peer mark a via) (hstage : f.stage = .start)
  (hturn : s.addWaits f = false)
include hf hkind hstage hturn

theorem counterAdd_posted (htids : f.tids = t.id :: rest) (ht : s.thread? t.id = some t) (hmode : mode ≠ 1) :
    exec (.counterAddArrival (.posted f.id)) s
      = .next ((s.performAdd (s.asidOf t) mode index value mark.toNat).dropFlight f.id) := by
  change execCounterAddArrival (.posted f.id) s = _
  simp only [execCounterAddArrival, hf, hkind, hstage, hturn, htids, List.head?_cons, Option.bind_some, ht]
  exact if_neg (by simp [hmode])

theorem counterAdd_answered (hlink : s.linkWaits f = false) (hmode : mode = 1) (bs : List Byte) (n h : Nat) :
    exec (.counterAddArrival (.answered f.id (.done bs n h))) s = .next (s.dropFlight f.id) := by
  change execCounterAddArrival (.answered f.id (.done bs n h)) s = _
  simp only [execCounterAddArrival, hf, hkind, hstage, hturn, hlink]
  exact if_neg (by simp [hmode])

end Adds

theorem counterAdd_remote {s : State} {asid index : Nat} (hin : index < (s.cntWindow asid).2) (high : Int) (value : BitVec 32) :
    exec (.counterAddArrival (.remote asid index value high)) s
      = .next ((s.performAdd asid 0 index value (s.time.hub + high).toNat).answer adderPeer (.done [] 0 s.time.hub)) :=
  if_neg (Nat.not_le.mpr hin)

theorem cwaitTimeout_next {s : State} {f : Flight} {k target since : Nat} {dst : Dst} {t : Thread} {m : Team} {rest : List Nat}
    (hf : s.flight? f.id = some f) (hkind : f.kind = .cwait k target since none dst) (htids : f.tids = t.id :: rest)
    (ht : s.thread? t.id = some t) (hm : s.team? t.team = some m) (hus : m.regs.cwto.toNat % 2 ^ 32 ≠ 0)
    (hlate : since + 1000 * (m.regs.cwto.toNat % 2 ^ 32) ≤ s.localTime m.place.die) :
    exec (.cwaitTimeout f.id) s = .next ((s.land64 t.id dst (BitVec.ofNat 64 (2 ^ 63 + (s.counter k).count.toNat))).completeFlight f) := by
  change execCwaitTimeout f.id s = _
  simp only [execCwaitTimeout, hf, hkind, htids, List.head?_cons, Option.bind_some, ht, hm, fld_zero]
  exact if_neg (by simpa using ⟨hus, hlate⟩)

/-! ### Messages of collectives (R452, R453) -/

/-- Whether a message is for a grid's collective: its tag is that of the grid's binding. -/
def Grid.tagged (g : Grid) (tag : Nat) : Bool :=
  g.status == .queued && (match g.peloton with | some b => b.tag == tag | none => false)

/-- The chunk of a message at a grid. -/
def State.chunkFor (s : State) (g : Grid) (x : CollMessage) : Chunk := (s.chunk? g.event x.chunk).getD { index := x.chunk }

theorem State.chunkFor_eq (s : State) (g : Grid) (x : CollMessage) :
    (s.chunk? g.event x.chunk).getD { index := x.chunk } = s.chunkFor g x := rfl

/-- A message fits a binding and comes for an exchange of its chunk that has not ended and that no other message is held for. -/
def Binding.Due (b : Binding) (x : CollMessage) (c : Chunk) : Prop :=
  b.fits x = true ∧ c.done = false ∧ c.landing = false ∧ x.phase ∉ c.ended ∧ ∀ y ∈ c.held, y.phase ≠ x.phase

theorem Binding.Due.accepted {x : CollMessage} {b : Binding} {c : Chunk} (h : b.Due x c) :
    ¬(!b.fits x || c.done || c.landing || c.ended.contains x.phase || c.held.any (fun y => y.phase == x.phase)) = true := by
  obtain ⟨hfits, hdone, hlanding, hended, hheld⟩ := h
  have hnone : c.held.any (fun y => y.phase == x.phase) = false := by simpa using hheld
  simp [hfits, hdone, hlanding, hended, hnone]

section Messages
variable {s : State} {x : CollMessage} {g : Grid} {b : Binding}

theorem collMessage_unknown (hg : s.grids.find? (·.tagged x.tag) = none) :
    exec (.collMessageArrival x) s = .next (s.bump (collDropIndex x.die)) := by
  change execCollMessageArrival x s = _
  unfold execCollMessageArrival
  extract_lets drop tagged
  have hfind : s.grids.find? tagged = none := hg
  rw [hfind]

section
variable (hg : s.grids.find? (·.tagged x.tag) = some g) (hb : g.peloton = some b)
include hg hb

section
variable (hdue : b.Due x (s.chunkFor g x))
include hdue

/-- A message that the chunk waits for is combined, and the chunk goes on. -/
theorem collMessage_expected {rest : List CollPhase} (htodo : (s.chunkFor g x).todo = x.phase :: rest) :
    exec (.collMessageArrival x) s = .next (s.settle g.event (b.go s.time.hub rest (b.take (s.chunkFor g x) x.phase (some x)) [])) := by
  change execCollMessageArrival x s = _
  unfold execCollMessageArrival
  extract_lets drop tagged
  have hfind : s.grids.find? tagged = some g := hg
  simp only [hfind, hb, State.chunkFor_eq, if_neg hdue.accepted, htodo, beq_self_eq_true, if_true]
  rfl

/-- A message for a later exchange is held. -/
theorem collMessage_early (htodo : ∀ rest, (s.chunkFor g x).todo ≠ x.phase :: rest) :
    exec (.collMessageArrival x) s = .next (s.putChunk g.event { s.chunkFor g x with held := (s.chunkFor g x).held ++ [x] }) := by
  change execCollMessageArrival x s = _
  unfold execCollMessageArrival
  extract_lets drop tagged
  have hfind : s.grids.find? tagged = some g := hg
  simp only [hfind, hb, State.chunkFor_eq]
  refine (if_neg hdue.accepted).trans ?_
  cases hphases : (s.chunkFor g x).todo with
  | nil => rfl
  | cons ph rest =>
    have hother : ¬(ph == x.phase) = true := fun h => htodo rest (beq_iff_eq.mp h ▸ hphases)
    exact if_neg hother

end

/-- A message that does not fit is counted as dropped, by the grid and by its die. -/
theorem collMessage_unfit (hfits : b.fits x = false) : exec (.collMessageArrival x) s
    = .next ((s.modGrid g.event (fun g => { g with drop := g.drop + 1 })).bump (collDropIndex x.die)) := by
  change execCollMessageArrival x s = _
  unfold execCollMessageArrival
  extract_lets drop tagged
  have hfind : s.grids.find? tagged = some g := hg
  simp only [hfind, hb, hfits, Bool.not_false, Bool.true_or, if_true, Bool.false_eq_true, if_false]
  rfl

end
end Messages

/-! ### Waits that run out, chunks that complete (R453, R454) -/

section Chunks
variable {s : State} {g : Grid} {b : Binding} {c : Chunk} (hg : s.grid? g.event = some g) (hb : g.peloton = some b)
  (hc : s.chunk? g.event c.index = some c)
include hg hb hc

theorem collWaitTimeout_next {ph : CollPhase} {rest : List CollPhase} (htodo : c.todo = ph :: rest) (htmo : b.tmo ≠ 0)
    (hlate : c.since + 1000 * b.tmo ≤ s.time.hub) :
    exec (.collWaitTimeout g.event c.index) s = .next (s.settle g.event (b.go s.time.hub rest (b.take c ph none) [])) := by
  have hbinding : s.binding? g.event = some b := by rw [State.binding?, hg, Option.bind_some, hb]
  change execCollWaitTimeout g.event c.index s = _
  simp only [execCollWaitTimeout, hbinding, hc, htodo]
  exact if_pos (by simpa [State.collTime, htmo] using hlate)

variable (hlanding : c.landing = true) (hdone : c.done = false) (hheld : s.chunkHeld c = false)
include hlanding hdone hheld

/-- A landed chunk that misses no rank writes its result and raises its counter; it ends once its messages have been acknowledged. -/
theorem chunkComplete_full (hadded : c.added = false) (hfull : b.missing c = []) {vt : Nat} {s1 : State}
    (hwrite : s.engineWrite g.asid (fld g.record 288 24) (b.res + c.index * b.chunk) (c.pieces.flatMap (·.bytes)) = (.ok vt, s1)) :
    let s2 := if b.cnten then s1.addCounter (fld (s1.asidBlock g.asid).cntwin.toNat 0 12 + b.cntb + c.index) 1 vt else s1
    exec (.chunkComplete g.event c.index) s = .next (if s2.sending g.event c.index = true
      then s2.putChunk g.event { c with added := true } else s2.endChunk g.event { c with added := true } false) := by
  change execChunkComplete g.event c.index s = _
  simp only [execChunkComplete, hg, hc, hb, hlanding, hdone, hheld, hadded, hfull, hwrite]
  simp only [State.settleChunkEnd, hfull, hlanding, hdone]
  rfl

theorem chunkComplete_added (hadded : c.added = true) (hquiet : s.sending g.event c.index = false) :
    exec (.chunkComplete g.event c.index) s = .next (s.endChunk g.event c (!(b.missing c).isEmpty)) := by
  have hsame : ({ c with added := true } : Chunk) = c := by rw [← hadded]
  change execChunkComplete g.event c.index s = _
  simp only [execChunkComplete, hg, hc, hb, hlanding, hdone, hheld, hadded, hquiet]
  simp only [State.settleChunkEnd, hquiet, hsame]
  rfl

end Chunks

end Sys2Proof.Machine

namespace Sys2Proof.Claims
open Sys2Proof.Machine

/-- Settles O55: each event has, where its condition holds, the effect that its lemma gives. -/
theorem linkEvents : Obligations.LinkEvents := by
  unfold Obligations.LinkEvents
  refine ⟨?slots, ?acks, ?sends, ?requests, ?adds, ?remoteAdds, ?waits, ?messages, ?chunks⟩
  case slots =>
    intro s die port k errors hdie hport hk p x put withdrawn hlen
    have hslot : k < p.slots.length := hlen ▸ hk
    exact ⟨flitSend_next hdie hport, fun hx => berWindowEnd_next hdie hport hk hx hslot,
      fun hx => uncorrectableCodeword_next hdie hport hk hx hslot,
      fun hx hwindows hsince => trainingWindowEnd_next hdie hport hk hx hslot hwindows hsince,
      fun hx hwindows hspare hsince => retrainTimeout_own hdie hport hk hx hslot hwindows hspare hsince,
      fun n hx hwindows hspare => retrainTimeout_spare hdie hport hk hx hslot hwindows hspare⟩
  case acks =>
    intro s f a t rest hf hkind hstage htids ht
    exact ⟨fun hturn => ⟨fun data n k hop => remoteAck_load hf hkind hstage hturn htids hop data n k,
        fun data vtp tp hop => remoteAck_store hf hkind hstage hturn htids ht hop data vtp tp,
        fun c => remoteAck_fault hf hkind hstage hturn htids ht c⟩,
      linkTimeout_next hf hkind hstage⟩
  case sends =>
    intro s f gid c rank peer x via bs vtp tp hf hkind
    exact remoteAck_send hf hkind bs vtp tp
  case requests =>
    intro s r hok hhome
    exact ⟨remoteRequestArrival_next hok hhome, fun hop p hp => remoteRequestArrival_load hok hhome hop hp,
      fun hop vt s1 hwrite => remoteRequestArrival_store hok hhome hop hwrite⟩
  case adds =>
    intro s f mode index value peer mark a via t rest hf hkind hstage htids ht hturn
    exact ⟨fun hmode => ⟨_, counterAdd_posted hf hkind hstage hturn htids ht hmode, State.flight?_dropFlight _ _, State.counter_performAdd ..⟩,
      fun hmode hlink bs n h => counterAdd_answered hf hkind hstage hturn hlink hmode bs n h⟩
  case remoteAdds =>
    intro s asid index high value w k hin
    exact ⟨_, counterAdd_remote hin high value, s.counter_performAdd asid 0 index value _⟩
  case waits =>
    intro s f k target since dst t m rest hf hkind htids ht hm us hus hlate
    exact cwaitTimeout_next hf hkind htids ht hm hus hlate
  case messages =>
    intro s x tagged
    refine ⟨fun hg => collMessage_unknown hg, fun g b hg hb => ?_⟩
    exact ⟨fun rest hdue htodo => collMessage_expected hg hb hdue htodo, fun hdue htodo => collMessage_early hg hb hdue htodo,
      fun hfits => collMessage_unfit hg hb hfits⟩
  case chunks =>
    intro s g b c ph rest hg hb hc
    exact ⟨fun htodo htmo hlate => collWaitTimeout_next hg hb hc htodo htmo hlate,
      fun vt s1 hlanding hdone hadded hheld hfull hwrite => chunkComplete_full hg hb hc hlanding hdone hheld hadded hfull hwrite,
      fun hlanding hdone hadded hheld hquiet => chunkComplete_added hg hb hc hlanding hdone hheld hadded hquiet⟩

end Sys2Proof.Claims
